-- ==== Sys2Proof/Word.lean ====
section
/-!
DEFINITION. The words of the PHV-4896: the 64-bit register word, the byte and the 256-byte vector (R51, R67), with
their plainest arithmetic.
-/

namespace Sys2Proof

/-- A 64-bit word of a workspace, of memory or of a control register (R51). -/
abbrev Word := BitVec 64

/-- A byte; every memory of the device is byte-addressed, least significant byte first (R67). -/
abbrev Byte := BitVec 8

/-- A 256-byte vector, read as one little-endian number (R51, R67). -/
abbrev Vec := BitVec 2048

/-- A register number, codes 0 to 31 (R36, R37). -/
abbrev Reg := BitVec 5

end Sys2Proof
end

