-- ==== Sys2Proof/Syntax.lean ====
section
/-!
DEFINITION. The syntax of the PHV-4896: the operand codes of R36 to R44 as types, and `Instr`, one constructor for every
row of the opcode table: the 270 instructions (R45 to R47) and the 108 events of the device, the steps that its units
take between instructions.
-/

namespace Sys2Proof

/-- Address modes, R41: `.l` local, `.cd` cluster-direct, `.ci` cluster-interleaved, `.g` global. -/
inductive AddrMode where
  | l | cd | ci | g
deriving DecidableEq, Repr

/-- Access sizes, R41: 1, 2, 4 and 8 bytes. -/
inductive Size where
  | b | h | s | w
deriving DecidableEq, Repr

/-- Scopes, R41. -/
inductive Scope where
  | core | clu | dev | sys
deriving DecidableEq, Repr

/-- Element widths of the vector unit, R34: code 00 is 32 bits, 01 is 16, 10 is 8. -/
inductive EW where
  | w32 | w16 | w8
deriving DecidableEq, Repr

/-- Rounding codes, R42. -/
inductive Rnd where
  | rne | rz | ru | rd | sr
deriving DecidableEq, Repr

/-- Number formats, R43, in the order of their codes 0 to 19. -/
inductive Fmt where
  | f32 | bf16 | f16 | e4m3 | e5m2 | e2m3 | e3m2 | e2m1 | tap8 | tap6
  | i8 | n8 | i4 | n4 | lut1 | lut2 | i16 | n16 | i32 | n32
deriving DecidableEq, Repr

/-- Conditions of CMP, R44, in the order of their codes 0 to 9. -/
inductive Cond where
  | eq | ne | lt | ge | ltu | geu | le | gt | leu | gtu
deriving DecidableEq, Repr

/-- Conditions of VCMP, R44, in the order of their codes 0 to 5. -/
inductive VCond where
  | eq | ne | lt | le | gt | ge
deriving DecidableEq, Repr

/-- Conditions of FCMP, R121, in the order of their codes 0 to 6. -/
inductive FCond where
  | eq | ne | lt | le | gt | ge | un
deriving DecidableEq, Repr

/-- One constructor for every row of the opcode table. The header bits L and S of an instruction word (R19) belong to the
group and not to the instruction. Operands are named by their fields in R33 and R34. The instructions with operands
come first, those without after them, then the atomics and four others (`Late` of Decode.lean says why), and last the
events of the device, which take their particulars from the state. -/
inductive Instr where
  /-- BR, R94. -/
  | br (i : BitVec 15)
  /-- BRP, R94. -/
  | brp (a : BitVec 3) (i : BitVec 15)
  /-- BRZ, R94. -/
  | brz (a : Reg) (i : BitVec 15)
  /-- BNZ, R94. -/
  | bnz (a : Reg) (i : BitVec 15)
  /-- BRI, R94. -/
  | bri (a : Reg)
  /-- CALL, R94. -/
  | call (a : Reg) (i : BitVec 15)
  /-- CALLI, R94. -/
  | calli (d a : Reg)
  /-- RET, R94. -/
  | ret (a : Reg)
  /-- LOOP, R95. -/
  | loop (a : Reg) (i : BitVec 15)
  /-- LEXIT, R97. -/
  | lexit (i : BitVec 15)
  /-- YIELD, R99. -/
  | yield (k : BitVec 12)
  /-- START, R100. -/
  | start (d a b : Reg) (p : BitVec 3)
  /-- JOIN, R101. -/
  | join (a : Reg)
  /-- SPAWN, R102. -/
  | spawn (d a b : Reg)
  /-- TRAP, R109. -/
  | trap (k : BitVec 12)
  /-- BKPT, R109. -/
  | bkpt (k : BitVec 12)
  /-- EVRD, R108. -/
  | evrd (d : Reg)
  /-- EVRD_PEEK, R108. -/
  | evrdPeek (d : Reg)
  /-- SEND, R106. -/
  | send (n : BitVec 6) (a b : Reg)
  /-- SENDV, R106. -/
  | sendv (n : BitVec 6) (a b : Reg)
  /-- RECV, R107. -/
  | recv (d : Reg) (k : BitVec 12)
  /-- RECVV, R107. -/
  | recvv (d : Reg) (k : BitVec 12)
  /-- HSET, R104. -/
  | hset (d : Reg) (k : BitVec 12)
  /-- HMASK_ON, R105. -/
  | hmaskOn (k : BitVec 12)
  /-- HMASK_OFF, R105. -/
  | hmaskOff (k : BitVec 12)
  /-- LD, R148. -/
  | ld (d a : Reg) (m : AddrMode) (z : Size) (o : BitVec 6)
  /-- LD_SX, R148. -/
  | ldSx (d a : Reg) (m : AddrMode) (z : Size) (o : BitVec 6)
  /-- ST, R149. -/
  | st (d a : Reg) (m : AddrMode) (z : Size) (o : BitVec 6)
  /-- VLD, R148. -/
  | vld (d a : Reg) (m : AddrMode) (o : BitVec 6)
  /-- VST, R149. -/
  | vst (d a : Reg) (m : AddrMode) (o : BitVec 6)
  /-- VLDS, R153. -/
  | vlds (d a b : Reg) (e : Size) (m : AddrMode)
  /-- VSTS, R153. -/
  | vsts (d a b : Reg) (e : Size) (m : AddrMode)
  /-- VLDX, R153. -/
  | vldx (d a b : Reg) (e : Size) (m : AddrMode)
  /-- VSTX, R153. -/
  | vstx (d a b : Reg) (e : Size) (m : AddrMode)
  /-- LDF_TAKE, R154. -/
  | ldfTake (d a : Reg) (o : BitVec 6)
  /-- LDF_KEEP, R154. -/
  | ldfKeep (d a : Reg) (o : BitVec 6)
  /-- STE, R154. -/
  | ste (d a : Reg) (m : AddrMode) (o : BitVec 6)
  /-- TAGS, R155. -/
  | tags (a b : Reg)
  /-- TAGS_V, R155. -/
  | tagsV (a b : Reg)
  /-- TAGR, R155. -/
  | tagr (d a : Reg)
  /-- TAGR_V, R155. -/
  | tagrV (d a : Reg)
  /-- BREAD, R156. -/
  | bread (n : BitVec 6) (a b : Reg) (m : AddrMode)
  /-- FENCE, R160. -/
  | fence (c : Scope)
  /-- REL, R160. -/
  | rel (c : Scope)
  /-- ACQ, R160. -/
  | acq (c : Scope)
  /-- TOWN, R168. -/
  | town (n : Reg)
  /-- TOWN_KEEP, R168. -/
  | townKeep (n : Reg)
  /-- TFREE, R168. -/
  | tfree (n : Reg)
  /-- TSEEK, R169. -/
  | tseek (n : Reg) (i : BitVec 8)
  /-- TSEEK_REG, R169. -/
  | tseekReg (a n : Reg)
  /-- TSTEP, R169. -/
  | tstep (n : Reg) (i : BitVec 8)
  /-- TSTEP_REG, R169. -/
  | tstepReg (a n : Reg)
  /-- TREW, R169. -/
  | trew (n : Reg)
  /-- TRD, R170. -/
  | trd (d n : Reg) (p : Bool)
  /-- TRDS, R170. -/
  | trds (d n : Reg) (i : BitVec 8) (p : Bool)
  /-- TWR, R170. -/
  | twr (d n : Reg) (p : Bool)
  /-- TWRS, R170. -/
  | twrs (d n : Reg) (i : BitVec 8) (p : Bool)
  /-- TWAIT, R173. -/
  | twait (n : Reg)
  /-- THEAD, R173. -/
  | thead (d n : Reg)
  /-- TALIGN, R172. -/
  | talign (n : Reg)
  /-- TSHARE, R168. -/
  | tshare (n : Reg)
  /-- TSHARE_OFF, R168. -/
  | tshareOff (n : Reg)
  /-- INVOKE, R197. -/
  | invoke (d a b : Reg) (v : BitVec 2)
  /-- INVOKE_RETRY, R197. -/
  | invokeRetry (d a b : Reg) (v : BitVec 2)
  /-- HGRANT, R199. -/
  | hgrant (a : Reg)
  /-- QW, R180. -/
  | qw (d : Reg)
  /-- QWV, R181. -/
  | qwv (d c : Reg)
  /-- QR, R182. -/
  | qr (d : Reg)
  /-- QRV, R182. -/
  | qrv (d : Reg)
  /-- QST, R182. -/
  | qst (d n : Reg)
  /-- MLEASE, R177. -/
  | mlease (d n : Reg) (i : BitVec 8)
  /-- MFREE, R183. -/
  | mfree (n : Reg)
  /-- MMA, R180. -/
  | mma (d : Reg) (a b : BitVec 4)
  /-- XLD, R186. -/
  | xld (a : Reg)
  /-- XWAIT, R188. -/
  | xwait (d a : Reg)
  /-- XCAN, R188. -/
  | xcan (a : Reg)
  /-- XST, R186. -/
  | xst (a : Reg)
  /-- BARS, R190. -/
  | bars (i : BitVec 8)
  /-- BARW, R190. -/
  | barw (i : BitVec 8)
  /-- BARI, R191. -/
  | bari (a : Reg) (i : BitVec 8)
  /-- SPECQ, R192. -/
  | specq (d : Reg) (i : BitVec 8)
  /-- SPECQ_SELF, R192. -/
  | specqSelf (d : Reg)
  /-- TSNOW, R195. -/
  | tsnow (d : Reg)
  /-- TSNOW_HZ, R195. -/
  | tsnowHz (d : Reg)
  /-- MTC, R202. -/
  | mtc (d : Reg) (k : BitVec 12)
  /-- MFC, R202. -/
  | mfc (d : Reg) (k : BitVec 12)
  /-- XGO, R187. -/
  | xgo (d : Reg)
  /-- SETWP, R203. -/
  | setwp (a : Reg)
  /-- CSAVE, R205. -/
  | csave (a : Reg) (k : BitVec 12)
  /-- CREST, R205. -/
  | crest (a : Reg) (k : BitVec 12)
  /-- CTXK_STOP, R204. -/
  | ctxkStop (k : BitVec 12)
  /-- CTXK_GO, R204. -/
  | ctxkGo (k : BitVec 12)
  /-- CTXK_KILL, R204. -/
  | ctxkKill (k : BitVec 12)
  /-- HALT, R207. -/
  | halt (c : Reg)
  /-- HALT_BOUNCE, R207. -/
  | haltBounce (c : Reg)
  /-- HALT_OFF, R207. -/
  | haltOff (c : Reg)
  /-- SCAN, R208. -/
  | scan (d : Reg)
  /-- CMAP, R209. -/
  | cmap (a : Reg)
  /-- STINV_PAGE, R210. -/
  | stinvPage (a : Reg) (k : BitVec 12)
  /-- STINV_PID, R210. -/
  | stinvPid (a : Reg) (k : BitVec 12)
  /-- STINV_ALL, R210. -/
  | stinvAll (k : BitVec 12)
  /-- KEYLD, R211. -/
  | keyld (a : Reg) (k : BitVec 12)
  /-- KEYLD_CLR, R211. -/
  | keyldClr (k : BitVec 12)
  /-- PERFQ_SUM, R212. -/
  | perfqSum (d : Reg) (c : BitVec 2) (e : BitVec 6)
  /-- PERFQ_MIN, R212. -/
  | perfqMin (d : Reg) (c : BitVec 2) (e : BitVec 6)
  /-- PERFQ_MAX, R212. -/
  | perfqMax (d : Reg) (c : BitVec 2) (e : BitVec 6)
  /-- TRARM, R413. -/
  | trarm (a : Reg)
  /-- ADD, R111. -/
  | add (d a b : Reg)
  /-- SUB, R111. -/
  | sub (d a b : Reg)
  /-- AND, R111. -/
  | and (d a b : Reg)
  /-- OR, R111. -/
  | or (d a b : Reg)
  /-- XOR, R111. -/
  | xor (d a b : Reg)
  /-- ANDN, R111. -/
  | andn (d a b : Reg)
  /-- SHL, R111. -/
  | shl (d a b : Reg)
  /-- SHR, R111. -/
  | shr (d a b : Reg)
  /-- SRA, R111. -/
  | sra (d a b : Reg)
  /-- ROT, R111. -/
  | rot (d a b : Reg)
  /-- MIN, R111. -/
  | min (d a b : Reg)
  /-- MAX, R111. -/
  | max (d a b : Reg)
  /-- MINU, R111. -/
  | minu (d a b : Reg)
  /-- MAXU, R111. -/
  | maxu (d a b : Reg)
  /-- ADDSAT, R111. -/
  | addsat (d a b : Reg)
  /-- SUBSAT, R111. -/
  | subsat (d a b : Reg)
  /-- MOV, R112. -/
  | mov (d a : Reg)
  /-- ABS, R112. -/
  | abs (d a : Reg)
  /-- CLZ, R112. -/
  | clz (d a : Reg)
  /-- CTZ, R112. -/
  | ctz (d a : Reg)
  /-- POPC, R112. -/
  | popc (d a : Reg)
  /-- SEXT, R112. -/
  | sext (d a : Reg) (w : Size)
  /-- ZEXT, R112. -/
  | zext (d a : Reg) (w : Size)
  /-- MUL, R113. -/
  | mul (d a b : Reg)
  /-- MULH, R113. -/
  | mulh (d a b : Reg)
  /-- MULHU, R113. -/
  | mulhu (d a b : Reg)
  /-- DIV, R113. -/
  | div (d a b : Reg)
  /-- DIVU, R113. -/
  | divu (d a b : Reg)
  /-- REM, R113. -/
  | rem (d a b : Reg)
  /-- REMU, R113. -/
  | remu (d a b : Reg)
  /-- SEL, R114. -/
  | sel (d a b : Reg) (p : BitVec 3)
  /-- BFX, R114. -/
  | bfx (d a b : Reg)
  /-- BFX_SX, R114. -/
  | bfxSx (d a b : Reg)
  /-- BFI, R114. -/
  | bfi (d a b : Reg)
  /-- ADDS, R114. -/
  | adds (d a b : Reg) (h : BitVec 3)
  /-- WIDX, R117. -/
  | widx (d a : Reg) (i : BitVec 10)
  /-- ADD_IMM, R115. -/
  | addImm (d a : Reg) (i : BitVec 10)
  /-- AND_IMM, R115. -/
  | andImm (d a : Reg) (i : BitVec 10)
  /-- OR_IMM, R115. -/
  | orImm (d a : Reg) (i : BitVec 10)
  /-- XOR_IMM, R115. -/
  | xorImm (d a : Reg) (i : BitVec 10)
  /-- SHL_IMM, R115. -/
  | shlImm (d a : Reg) (i : BitVec 10)
  /-- SHR_IMM, R115. -/
  | shrImm (d a : Reg) (i : BitVec 10)
  /-- SRA_IMM, R115. -/
  | sraImm (d a : Reg) (i : BitVec 10)
  /-- ROT_IMM, R115. -/
  | rotImm (d a : Reg) (i : BitVec 10)
  /-- MIN_IMM, R115. -/
  | minImm (d a : Reg) (i : BitVec 10)
  /-- MAX_IMM, R115. -/
  | maxImm (d a : Reg) (i : BitVec 10)
  /-- MUL_IMM, R115. -/
  | mulImm (d a : Reg) (i : BitVec 10)
  /-- MOVI, R116. -/
  | movi (d : Reg) (i : BitVec 15)
  /-- MOVH, R116. -/
  | movh (d : Reg) (i : BitVec 15)
  /-- CMP, R118. -/
  | cmp (d : BitVec 3) (a b : Reg) (c : Cond)
  /-- PAND, R119. -/
  | pand (d a b : BitVec 3)
  /-- POR, R119. -/
  | por (d a b : BitVec 3)
  /-- PXOR, R119. -/
  | pxor (d a b : BitVec 3)
  /-- PNOT, R119. -/
  | pnot (d a : BitVec 3)
  /-- PMOV, R119. -/
  | pmov (d a : BitVec 3)
  /-- FADD, R120. -/
  | fadd (d a b : Reg)
  /-- FSUB, R120. -/
  | fsub (d a b : Reg)
  /-- FMUL, R120. -/
  | fmul (d a b : Reg)
  /-- FFMA, R120. -/
  | ffma (d a b : Reg)
  /-- FMIN, R120. -/
  | fmin (d a b : Reg)
  /-- FMAX, R120. -/
  | fmax (d a b : Reg)
  /-- FABS, R120. -/
  | fabs (d a : Reg)
  /-- FNEG, R120. -/
  | fneg (d a : Reg)
  /-- FDIV, R120. -/
  | fdiv (d a b : Reg)
  /-- FSQRT, R120. -/
  | fsqrt (d a : Reg)
  /-- FCLASS, R122. -/
  | fclass (d a : Reg)
  /-- FCMP, R121. -/
  | fcmp (d : BitVec 3) (a b : Reg) (c : FCond)
  /-- FCVT, R123. -/
  | fcvt (d a : Reg) (x : Fmt) (c : Rnd) (r : Bool)
  /-- VADD, R129. -/
  | vadd (d a b : Reg) (m : BitVec 3) (e : EW)
  /-- VSUB, R129. -/
  | vsub (d a b : Reg) (m : BitVec 3) (e : EW)
  /-- VMUL, R129. -/
  | vmul (d a b : Reg) (m : BitVec 3) (e : EW)
  /-- VMULH_I, R129. -/
  | vmulhI (d a b : Reg) (m : BitVec 3) (e : EW)
  /-- VMULH_N, R129. -/
  | vmulhN (d a b : Reg) (m : BitVec 3) (e : EW)
  /-- VMAC_I, R130. -/
  | vmacI (d a b : Reg) (m : BitVec 3) (g : BitVec 2)
  /-- VMAC_N, R130. -/
  | vmacN (d a b : Reg) (m : BitVec 3) (g : BitVec 2)
  /-- VDOT_I, R130. -/
  | vdotI (d a b : Reg) (m : BitVec 3)
  /-- VDOT_N, R130. -/
  | vdotN (d a b : Reg) (m : BitVec 3)
  /-- VAND, R129. -/
  | vand (d a b : Reg) (m : BitVec 3) (e : EW)
  /-- VOR, R129. -/
  | vor (d a b : Reg) (m : BitVec 3) (e : EW)
  /-- VXOR, R129. -/
  | vxor (d a b : Reg) (m : BitVec 3) (e : EW)
  /-- VSHL, R129. -/
  | vshl (d a b : Reg) (m : BitVec 3) (e : EW)
  /-- VSHR, R129. -/
  | vshr (d a b : Reg) (m : BitVec 3) (e : EW)
  /-- VSRA, R129. -/
  | vsra (d a b : Reg) (m : BitVec 3) (e : EW)
  /-- VMIN_I, R129. -/
  | vminI (d a b : Reg) (m : BitVec 3) (e : EW)
  /-- VMIN_N, R129. -/
  | vminN (d a b : Reg) (m : BitVec 3) (e : EW)
  /-- VMAX_I, R129. -/
  | vmaxI (d a b : Reg) (m : BitVec 3) (e : EW)
  /-- VMAX_N, R129. -/
  | vmaxN (d a b : Reg) (m : BitVec 3) (e : EW)
  /-- VABS, R129. -/
  | vabs (d a : Reg) (m : BitVec 3) (e : EW)
  /-- VADDSAT_I, R129. -/
  | vaddsatI (d a b : Reg) (m : BitVec 3) (e : EW)
  /-- VADDSAT_N, R129. -/
  | vaddsatN (d a b : Reg) (m : BitVec 3) (e : EW)
  /-- VSUBSAT_I, R129. -/
  | vsubsatI (d a b : Reg) (m : BitVec 3) (e : EW)
  /-- VSUBSAT_N, R129. -/
  | vsubsatN (d a b : Reg) (m : BitVec 3) (e : EW)
  /-- VRSHR_I, R131. -/
  | vrshrI (d a b : Reg) (m : BitVec 3) (e : EW)
  /-- VRSHR_N, R131. -/
  | vrshrN (d a b : Reg) (m : BitVec 3) (e : EW)
  /-- VCLAMP_I, R129. -/
  | vclampI (d a b : Reg) (m : BitVec 3) (e : EW)
  /-- VCLAMP_N, R129. -/
  | vclampN (d a b : Reg) (m : BitVec 3) (e : EW)
  /-- VCMP_I, R132. -/
  | vcmpI (d : BitVec 3) (a x : Reg) (c : VCond) (e : EW)
  /-- VCMP_N, R132. -/
  | vcmpN (d : BitVec 3) (a x : Reg) (c : VCond) (e : EW)
  /-- VFADD, R133. -/
  | vfadd (d a b : Reg) (m : BitVec 3)
  /-- VFSUB, R133. -/
  | vfsub (d a b : Reg) (m : BitVec 3)
  /-- VFMUL, R133. -/
  | vfmul (d a b : Reg) (m : BitVec 3)
  /-- VFFMA, R133. -/
  | vffma (d a b : Reg) (m : BitVec 3)
  /-- VFMIN, R133. -/
  | vfmin (d a b : Reg) (m : BitVec 3)
  /-- VFMAX, R133. -/
  | vfmax (d a b : Reg) (m : BitVec 3)
  /-- VFEXP2, R134. -/
  | vfexp2 (d a : Reg) (m : BitVec 3)
  /-- VFLOG2, R134. -/
  | vflog2 (d a : Reg) (m : BitVec 3)
  /-- VFRCP, R134. -/
  | vfrcp (d a : Reg) (m : BitVec 3)
  /-- VFRSQ, R134. -/
  | vfrsq (d a : Reg) (m : BitVec 3)
  /-- VMOV, R135. -/
  | vmov (d a : Reg) (m : BitVec 3)
  /-- VSPLAT, R135. -/
  | vsplat (d a : Reg) (m : BitVec 3) (e : EW)
  /-- VEXT, R135. -/
  | vext (d a b : Reg) (e : EW)
  /-- VINS, R135. -/
  | vins (d a b : Reg) (m : BitVec 3) (e : EW)
  /-- VIOTA, R135. -/
  | viota (d a : Reg) (m : BitVec 3) (e : EW)
  /-- VPERM, R135. -/
  | vperm (d a b : Reg) (m : BitVec 3) (e : EW)
  /-- VROT, R135. -/
  | vrot (d a b : Reg) (m : BitVec 3) (e : EW)
  /-- VSLIDE, R135. -/
  | vslide (d a b : Reg) (m : BitVec 3) (e : EW)
  /-- VPACK, R137. -/
  | vpack (d a b : Reg) (m : BitVec 3) (e : EW)
  /-- VUNPK, R137. -/
  | vunpk (d a : Reg) (u h : Bool) (m : BitVec 3) (e : EW)
  /-- VRED, R138. -/
  | vred (d a o : Reg) (m : BitVec 3) (e : EW)
  /-- VSEL, R135. -/
  | vsel (d a b : Reg) (m : BitVec 3)
  /-- MAND, R136. -/
  | mand (d a b : BitVec 3)
  /-- MOR, R136. -/
  | mor (d a b : BitVec 3)
  /-- MXOR, R136. -/
  | mxor (d a b : BitVec 3)
  /-- MNOT, R136. -/
  | mnot (d a : BitVec 3)
  /-- MPOP, R136. -/
  | mpop (d : Reg) (a : BitVec 3)
  /-- VCVT, R140. -/
  | vcvt (d a : Reg) (x : Fmt) (c : Rnd) (w r : Bool)
  /-- VCVTS, R141. -/
  | vcvts (d a : Reg) (x : Fmt) (c : Rnd) (r : Bool)
  /-- ACCZ, R84. -/
  | accz (d : BitVec 3)
  /-- ACCW, R143. -/
  | accw (d : BitVec 3) (a : Reg) (n : Bool)
  /-- ACCW_MUL, R143. -/
  | accwMul (d : BitVec 3) (a x : Reg) (n : Bool)
  /-- ACCWV, R143. -/
  | accwv (d : BitVec 3) (a : Reg) (n : Bool)
  /-- ACCWV_MUL, R143. -/
  | accwvMul (d : BitVec 3) (a x : Reg) (n : Bool)
  /-- ACCRD, R144. -/
  | accrd (d : Reg) (a : BitVec 3) (c : Rnd)
  /-- ACCRW, R144. -/
  | accrw (d : Reg) (a : BitVec 3) (j : Reg)
  /-- ACCRW_X, R144. -/
  | accrwX (d : Reg) (a : BitVec 3)
  /-- ACCRW_ST, R144. -/
  | accrwSt (t : Reg) (a : BitVec 3) (j : Reg)
  /-- ACCRW_STX, R144. -/
  | accrwStx (t : Reg) (a : BitVec 3)
  /-- NOP, R109. -/
  | nop
  /-- DONE, R98. -/
  | done
  /-- OPEN, R103. -/
  | openAct
  /-- HREVOKE, R200. -/
  | hrevoke
  /-- MSET, R183. -/
  | mset
  /-- ERET, R206. -/
  | eret
  /-- TRARM_OFF, R413. -/
  | trarmOff
  /-- TRARM_STOP, R413. -/
  | trarmStop
  /-- AMO_ADD, R158. -/
  | amoAdd (d a b : Reg) (c : Scope)
  /-- AMO_AND, R158. -/
  | amoAnd (d a b : Reg) (c : Scope)
  /-- AMO_OR, R158. -/
  | amoOr (d a b : Reg) (c : Scope)
  /-- AMO_XOR, R158. -/
  | amoXor (d a b : Reg) (c : Scope)
  /-- AMO_MIN, R158. -/
  | amoMin (d a b : Reg) (c : Scope)
  /-- AMO_MAX, R158. -/
  | amoMax (d a b : Reg) (c : Scope)
  /-- AMO_MINU, R158. -/
  | amoMinu (d a b : Reg) (c : Scope)
  /-- AMO_MAXU, R158. -/
  | amoMaxu (d a b : Reg) (c : Scope)
  /-- CAS, R158. -/
  | cas (d a b : Reg) (c : Scope)
  /-- CAS_XCHG, R158. -/
  | casXchg (d a b : Reg) (c : Scope)
  /-- FAMO_FADD, R158. -/
  | famoFadd (d a b : Reg) (c : Scope)
  /-- FAMO_FMIN, R158. -/
  | famoFmin (d a b : Reg) (c : Scope)
  /-- FAMO_FMAX, R158. -/
  | famoFmax (d a b : Reg) (c : Scope)
  /-- RROT, R185. -/
  | rrot (d a b : Reg)
  /-- GRPRD, R198. -/
  | grprd (d a : Reg)
  /-- TASK, R194. -/
  | task (a b : Reg)
  /-- GLAUNCH, R196. -/
  | glaunch (d a : Reg)
  /-- GDONE, R196. -/
  | gdone (a : Reg)
  /-- BOOT, R433, an event: At reset the boot ROM verifies and starts firmware or enters recovery. -/
  | boot
  /-- ATTESTATION, R434, an event: An attestation request yields a signed report and a management key. -/
  | attestation
  /-- LAUNCH_RECORD, R360, an event: The dispatcher checks an arriving launch record and queues it or reports failure. -/
  | launchRecord
  /-- LAUNCH_START, R362, an event: The dispatcher starts a queued record, loading its image and sending its wake. -/
  | launchStart
  /-- WAKE, R217, an event: A core accepts a launch's wake and binds slot 0 as the control activation. -/
  | wake
  /-- LAUNCH_END, R218, an event: A reduction-tree round finds every core idle and counts equal, ending the launch. -/
  | launchEnd
  /-- COMMIT_HORIZON, R309, an event: A 64-cycle reduction round recomputes and broadcasts each domain's commit horizon. -/
  | commitHorizon
  /-- MESSAGE_ACCEPT, R222, an event: A core's network interface accepts or refuses an arriving message. -/
  | messageAccept
  /-- SEND_RETRY, R222, an event: After its backoff the sender's interface retries a refused message. -/
  | sendRetry
  /-- HELPER_BINDING, R225, an event: The core binds a runnable helper-class channel to the lowest free helper slot. -/
  | helperBinding
  /-- CONTROL_BINDING, R225, an event: The core binds a runnable control-class channel to slot 0. -/
  | controlBinding
  /-- SPAWN_BOUNCE, R227, an event: An offer not bound within 64 cycles bounces and fills the sender's result with 0. -/
  | spawnBounce
  /-- FILL, R58, an event: A long-latency result fills its destination word FULL or POISON. -/
  | fill
  /-- DEPOSIT, R60, an event: A waiting deposit lands on a word that has become EMPTY. -/
  | deposit
  /-- ARRIVING_ACCESS, R271, an event: An arriving store, load, copy access or atomic is performed at its home. -/
  | arrivingAccess
  /-- ATOMIC_EXECUTION, R159, an event: An atomic is performed indivisibly at its executor and returns the old value. -/
  | atomicExecution
  /-- RELEASE, R234, an event: One held effect is handed to the network interface or engine. -/
  | release
  /-- SCOPE_MISS, R277, an event: A boundary router strips a release mark and sends a scope-miss message. -/
  | scopeMiss
  /-- TOWPATH_DELIVERY, R40, an event: A reserved Towpath push delivers its vector into the neighbour's queue. -/
  | towpathDelivery
  /-- TRACK_SHIFT, R165, an event: A track shifts one position toward its target each cycle. -/
  | trackShift
  /-- REVERIFY, R172, an event: After TALIGN's cost the marker at H is re-read and ERR is cleared or kept. -/
  | reverify
  /-- AUTO_REALIGN, R171, an event: Under TAUTO the correction completes and the held access is performed. -/
  | autoRealign
  /-- WEIR_STEP, R253, an event: Weir performs a step of calibration, wear rotation or scrub on an unowned track. -/
  | weirStep
  /-- CHECKPOINT, R300, an event: The workspace copy into the slot's shadow completes. -/
  | checkpoint
  /-- ABORT, R306, an event: An abort notice stops, rolls back and reruns a speculative activation. -/
  | abort
  /-- COMMIT, R311, an event: A speculative activation at the head of its slice under the horizon commits. -/
  | commit
  /-- TRACKED_READ, R304, an event: A speculative read waiting for a tracker line is served. -/
  | trackedRead
  /-- TRAP_DELIVERY, R399, an event: Slot 15 binds to a pending trap at the handler vector. -/
  | trapDelivery
  /-- IMPRECISE_EFFECT_FAULT, R408, an event: A report of a failed released effect reaches the core and is queued for delivery. -/
  | impreciseEffectFault
  /-- LAUNCH_FAULT, R407, an event: The dispatcher floods a stop and ends the launch with FAULT. -/
  | launchFault
  /-- COPY_START, R339, an event: A queued copy starts once among the first 16 and its locks register. -/
  | copyStart
  /-- RANGE_LOCK_REGISTER, R281, an event: A waiting operation registers all its range locks in one step. -/
  | rangeLockRegister
  /-- COPY_REQUEST, R340, an event: An engine issues one read request for a running copy. -/
  | copyRequest
  /-- COPY_WRITE, R340, an event: An engine performs one write of returned copy data or fill. -/
  | copyWrite
  /-- COPY_COMPLETION, R343, an event: A copy's completion message is accepted, clearing locks and filling XWAIT. -/
  | copyCompletion
  /-- LEASE_GRANT, R177, an event: A free array is granted to the best waiting request and fills its token. -/
  | leaseGrant
  /-- LEASE_TIMEOUT, R177, an event: A lease ends 8,192 cycles after its grant. -/
  | leaseTimeout
  /-- RESULT_DISCARD, R177, an event: Results unpopped 8,192 cycles after a lease ends are discarded. -/
  | resultDiscard
  /-- ARRAY_PUSH, R291, an event: A released push reaches the array and is queued or discarded. -/
  | arrayPush
  /-- MSET_AT_ARRAY, R183, an event: MSET reaches the array and resets it after the running command. -/
  | msetAtArray
  /-- MFREE_AT_ARRAY, R183, an event: MFREE reaches the array and ends the lease. -/
  | mfreeAtArray
  /-- COMMAND_START, R289, an event: A matrix command at the head of q0 starts. -/
  | commandStart
  /-- CHUNK_ROW, R289, an event: The array consumes one chunk-row of its command. -/
  | chunkRow
  /-- RESULT_VECTOR, R289, an event: One result vector enters q2. -/
  | resultVector
  /-- ROTATION, R185, an event: The last arrival at the sequencer starts or refuses a ring rotation. -/
  | rotation
  /-- ROTATION_END, R185, an event: A ring rotation ends and releases its participants. -/
  | rotationEnd
  /-- TRANSLATION, R351, an event: A station looks up an arriving access and forwards it or queues a walk. -/
  | translation
  /-- WALK, R350, an event: A walk completes, filling the cache or failing its waiting accesses. -/
  | walk
  /-- TASK_ENTRY, R319, an event: A task entry arrives and is checked, queued or discarded. -/
  | taskEntry
  /-- CANCEL_NOTICE, R322, an event: A cancel notice removes tagged entries and aborts their activations. -/
  | cancelNotice
  /-- RELEASE_NOTICE, R322, an event: A release notice clears a speculation tag on entries and activations. -/
  | releaseNotice
  /-- GRAPH_INSTANCE, R326, an event: The graph engine begins an instance, fills the generation and dispatches roots. -/
  | graphInstance
  /-- NODE_DONE, R327, an event: A node becomes done and the engine walks its successors. -/
  | nodeDone
  /-- PRE_EMPTION, R366, an event: A stop floods a victim's sub-mesh and its state is saved. -/
  | preEmption
  /-- RESTORE, R370, an event: The dispatcher restores a pre-empted launch and resumes its contexts. -/
  | restore
  /-- REVOCATION, R377, an event: A trigger revokes a harvest grant and parks its contexts. -/
  | revocation
  /-- HARVEST_BINDING, R372, an event: A free harvest slot takes a parked context or a queue entry. -/
  | harvestBinding
  /-- INVOCATION_PACKET, R384, an event: The receiving Wharf checks an invocation packet, queues it and replies. -/
  | invocationPacket
  /-- PACKET_DRAIN, R385, an event: A queued invocation packet drains into a launch record for the dispatcher. -/
  | packetDrain
  /-- INVOCATION_REPLY, R386, an event: The sender's Wharf receives a reply and fills the INVOKE result. -/
  | invocationReply
  /-- NACK, R387, an event: A NACK makes the sender's Wharf resend the packet. -/
  | nack
  /-- REPLY_TIMEOUT, R387, an event: No reply within 200 µs counts the send as NACKed. -/
  | replyTimeout
  /-- RETRY_WAIT, R197, an event: After a refusal's backoff the Wharf retries an INVOKE.retry packet. -/
  | retryWait
  /-- HEARTBEAT, R392, an event: Every 10 µs a Wharf sends heartbeats to its group members. -/
  | heartbeat
  /-- HEARTBEAT_ARRIVAL, R392, an event: An arriving heartbeat resets BEAT and returns a suspect member to live. -/
  | heartbeatArrival
  /-- SUSPECT, R392, an event: A member's BEAT reaching 30 µs marks it suspect. -/
  | suspect
  /-- FAILED, R392, an event: A member's BEAT reaching 100 µs marks it failed. -/
  | failed
  /-- REMAP, R393, an event: The first marking Wharf remaps the failed device's ranks to a spare and broadcasts it. -/
  | remap
  /-- REMAP_APPLY, R394, an event: A Wharf applies a remap and fails outstanding packets with RANK_LOST. -/
  | remapApply
  /-- FRAME, R388, an event: An Ethernet frame arrives and is dispatched by TYPE or dropped. -/
  | frame
  /-- HOST_INVOCATION, R389, an event: A host invocation frame is checked at the Wharf and answered. -/
  | hostInvocation
  /-- RDMA_WRITE, R390, an event: A host RDMA write is translated and performed as .sys writes. -/
  | rdmaWrite
  /-- RDMA_READ, R390, an event: A host RDMA read is translated and answered with a read response. -/
  | rdmaRead
  /-- MANAGEMENT_MESSAGE, R391, an event: A management message is authenticated or dropped. -/
  | managementMessage
  /-- POWER_STEP_COMMAND, R425, an event: A management command sets the CMD power level. -/
  | powerStepCommand
  /-- PREEMPT_COMMAND, R365, an event: A management command pre-empts a launch. -/
  | preemptCommand
  /-- TENANT_TABLE_WRITE, R363, an event: A management write updates a tenant table entry. -/
  | tenantTableWrite
  /-- INVOCATION_TABLE_WRITE, R383, an event: A management write updates an invocation-table entry or refuses it. -/
  | invocationTableWrite
  /-- RANK_MAP_WRITE, R380, an event: A management write updates a rank-map entry. -/
  | rankMapWrite
  /-- GROUP_TABLE_WRITE, R392, an event: A management write updates a heartbeat group entry. -/
  | groupTableWrite
  /-- STATUS_READ, R426, an event: A management status read returns the power and health status. -/
  | statusRead
  /-- FIRMWARE_STAGING, R433, an event: A management message stages a firmware image. -/
  | firmwareStaging
  /-- BREAKPOINT_WRITE, R417, an event: A management message writes a breakpoint register. -/
  | breakpointWrite
  /-- DUMP, R420, an event: A management command takes a context-save image of a halted core. -/
  | dump
  /-- LAUNCH_RESTORE, R432, an event: A management command restores a drained launch from its track images. -/
  | launchRestore
  /-- WEIR_CAP, R421, an event: A management command sets Weir's activity caps. -/
  | weirCap
  /-- RAMP_RATE, R428, an event: A management command sets Sluice's ramp rate. -/
  | rampRate
  /-- PSTEP_SAMPLE, R425, an event: The PSTEP pins are sampled every 10 µs. -/
  | pstepSample
  /-- POWER_ESTIMATE, R427, an event: Every 10 µs Sluice estimates power and takes or undoes one throttle action. -/
  | powerEstimate
  /-- WEIR_PERIOD, R421, an event: A new 100 µs Weir budget period begins. -/
  | weirPeriod
  /-- PFAIL, R429, an event: PFAIL_N stops every core with 0x1E1 and starts the drain. -/
  | pfail
  /-- DRAIN, R430, an event: A core's power-fail sequencer writes its image to t30 and t31. -/
  | drain
  /-- DEVICE_RECORD, R431, an event: Firmware writes the device record to board flash. -/
  | deviceRecord
  /-- POWER_DOWN, R429, an event: 20 ms after PFAIL_N the package powers down. -/
  | powerDown
  /-- TRACE_TRIGGER, R414, an event: Each cycle the trace evaluates start and stop triggers and records a row. -/
  | traceTrigger
  /-- TRACE_DUMP, R414, an event: After POST rows the die writes the window and header to the dump area. -/
  | traceDump
  /-- THYME, R418, an event: A state change or 16,384-cycle run writes a Thyme record. -/
  | thyme
  /-- HALT_REQUEST, R416, an event: A halt request reaches the core and stops new bindings. -/
  | haltRequest
  /-- HALTED, R416, an event: The core becomes halted once slots 0-14 are free. -/
  | halted
  /-- AGE_RAISE, R230, an event: A context's age counter reaching a multiple of 1,024 raises its class. -/
  | ageRaise
  /-- YIELD_EXPIRY, R99, an event: A yielded context becomes ready again after n cycles. -/
  | yieldExpiry
  /-- SCAN_COMPLETE, R208, an event: The pattern set ends and fills the SCAN result. -/
  | scanComplete
  /-- PERFQ_RESULT, R212, an event: The reduction-tree round fills the PERFQ result. -/
  | perfqResult
  /-- ILLEGAL_ENCODING, R48, an event: A fetched group whose word carries an unassigned major or minor opcode, or breaks the pair header rules, raises 0x001 or 0x002 and has no other effect. -/
  | illegalEncoding
  /-- FETCH_FAULT, R23, an event: A group address that is misaligned or lies outside near SRAM raises fetch fault 0x005 at the group fetched there. -/
  | fetchFault
  /-- POWER_RETURN, R429, an event: Input power returns before 20 ms after PFAIL_N, and the device completes the drain and then boots. -/
  | powerReturn
  /-- PATROL_SCRUB, R421, an event: Weir scrubs HBM, CXL, near-SRAM and B-store words, correcting errors and making uncorrectable near-SRAM words POISON. -/
  | patrolScrub
  /-- SERDES_RETRAINING, R421, an event: A link layer requests retraining and Weir spends link time on it within its cap. -/
  | serdesRetraining
deriving DecidableEq, Repr

end Sys2Proof
end

