-- ==== Sys2Proof/WellFormed.lean ====
section
/-!
DEFINITION. Well-formed instructions: the operand ranges and operand codes that an encoding may hold (R34, R36 to R44 and
the field tables of the reference chapters). `rangeOk` gathers the checks whose failure is reason 3 of R30 and `codesOk`
those whose failure is reason 4.
-/

namespace Sys2Proof

/-- A vector field used as a destination: v0 to v15 or one of the pushes 16, 17 and 18 (R37). -/
def vecDst (d : Reg) : Bool := decide (d.toNat ≤ 18)

/-- A vector field that must name v0 to v15 (R125, R147, R152). -/
def vecReg (d : Reg) : Bool := decide (d.toNat < 16)

/-- The valid pairs of matrix operand formats, FA and FB (R179). -/
def mmaPair (fa fb : Nat) : Bool :=
  if fa ≤ 9 then decide (fb ≤ 9)
  else if fa = 10 then decide (10 ≤ fb ∧ fb ≤ 15)
  else if fa ≤ 13 then decide (10 ≤ fb ∧ fb ≤ 13)
  else false

/-- The control-register numbers that R62 assigns. -/
def ctrlReg (k : Nat) : Bool :=
  decide (k ≤ 6 ∨ (8 ≤ k ∧ k ≤ 12) ∨ (0x10 ≤ k ∧ k ≤ 0x13) ∨ k = 0x20 ∨ k = 0x21 ∨ (0x40 ≤ k ∧ k ≤ 0x4B))

/-- Formats that FCVT may name as its other format (R123). -/
def fcvtFmt : Fmt → Bool
  | .lut1 | .lut2 => false
  | _ => true

/-- Formats that VCVT may name as its narrow side; `w` is the INT32 wide side (R140). -/
def vcvtFmt (w : Bool) : Fmt → Bool
  | .lut1 | .lut2 => false
  | .i32 => !w
  | _ => true

/-- Formats that VCVTS may name as its narrow side (R141). -/
def vcvtsFmt : Fmt → Bool
  | .f32 | .lut1 | .lut2 | .i32 | .n32 => false
  | _ => true

/-- Immediates in range: the shift and rotate immediates lie from 0 to 63 (R34, R115). -/
def Instr.rangeOk : Instr → Bool
  | .shlImm _ _ i | .shrImm _ _ i | .sraImm _ _ i | .rotImm _ _ i => decide (i.toNat < 64)
  | _ => true

/-- Operand codes in range: no reserved vector, channel, resource, size, format or register code (R36 to R44, R90, R125,
R129, R137, R138, R140 to R142, R147, R152, R156, R167, R176, R189, R201). -/
def Instr.codesOk : Instr → Bool
  | .send n _ _ => decide (16 ≤ n.toNat)
  | .sendv n _ _ => decide (4 ≤ n.toNat)
  | .recv _ k => decide (16 ≤ k.toNat ∧ k.toNat ≤ 63)
  | .recvv d k => vecReg d && decide (16 ≤ k.toNat ∧ k.toNat ≤ 63)
  | .hset _ k | .hmaskOn k | .hmaskOff k => decide (3 ≤ k.toNat ∧ k.toNat ≤ 63)
  | .vld d _ _ _ | .vst d _ _ _ => vecReg d
  | .ste _ _ m _ => decide (m ≠ .g)
  | .vlds d _ _ _ _ | .vsts d _ _ _ _ => vecReg d
  | .vldx d _ b e _ | .vstx d _ b e _ => vecReg d && vecReg b && decide (e = .s ∨ e = .w)
  | .bread n _ _ m => decide (4 ≤ n.toNat) && decide (m ≠ .l)
  | .trd d _ _ | .twr d _ _ => vecReg d
  | .trds d _ _ _ | .twrs d _ _ _ => vecReg d
  | .qwv d _ => vecReg d
  | .qrv d => vecReg d
  | .qst _ n => decide (n.toNat < 4)
  | .mlease _ n i => decide (n.toNat < 8) && decide (1 ≤ i.toNat ∧ i.toNat ≤ 16)
  | .mfree n => decide (n.toNat < 8)
  | .mma _ a b => mmaPair a.toNat b.toNat
  | .bars i | .barw i => decide (i.toNat < 128)
  | .bari _ i => decide (i.toNat < 128)
  | .specq _ i => decide (i.toNat < 128)
  | .mtc _ k => ctrlReg k.toNat && decide (k.toNat ≠ 10)
  | .mfc _ k => ctrlReg k.toNat && decide (k.toNat ≠ 10)
  | .csave _ k | .crest _ k => decide (k.toNat < 15)
  | .ctxkStop k | .ctxkGo k | .ctxkKill k => decide (k.toNat < 15)
  | .stinvPage _ k | .stinvPid _ k => decide (k.toNat < 128)
  | .stinvAll k => decide (k.toNat < 128)
  | .keyld _ k => decide (k.toNat < 1024)
  | .keyldClr k => decide (k.toNat < 1024)
  | .sext _ _ w | .zext _ _ w => decide (w ≠ .w)
  | .widx _ _ i => decide (i.toNat < 6)
  | .fcvt _ _ x _ _ => fcvtFmt x
  | .vmacI d _ _ _ _ | .vmacN d _ _ _ _ | .vclampI d _ _ _ _ | .vclampN d _ _ _ _ => vecReg d
  | .vdotI d _ _ _ | .vdotN d _ _ _ | .vffma d _ _ _ => vecReg d
  | .vadd d _ _ _ _ | .vsub d _ _ _ _ | .vmul d _ _ _ _ | .vmulhI d _ _ _ _ | .vmulhN d _ _ _ _ | .vand d _ _ _ _ => vecDst d
  | .vor d _ _ _ _ | .vxor d _ _ _ _ | .vshl d _ _ _ _ | .vshr d _ _ _ _ | .vsra d _ _ _ _ | .vminI d _ _ _ _ => vecDst d
  | .vminN d _ _ _ _ | .vmaxI d _ _ _ _ | .vmaxN d _ _ _ _ | .vaddsatI d _ _ _ _ | .vaddsatN d _ _ _ _ | .vsubsatI d _ _ _ _ => vecDst d
  | .vsubsatN d _ _ _ _ | .vrshrI d _ _ _ _ | .vrshrN d _ _ _ _ | .vins d _ _ _ _ | .vperm d _ _ _ _ | .vrot d _ _ _ _ => vecDst d
  | .vslide d _ _ _ _ => vecDst d
  | .vabs d _ _ _ | .vfadd d _ _ _ | .vfsub d _ _ _ | .vfmul d _ _ _ | .vfmin d _ _ _ | .vfmax d _ _ _ => vecDst d
  | .vsplat d _ _ _ | .viota d _ _ _ | .vsel d _ _ _ => vecDst d
  | .vfexp2 d _ _ | .vflog2 d _ _ | .vfrcp d _ _ | .vfrsq d _ _ | .vmov d _ _ => vecDst d
  | .vpack d _ _ _ e => vecDst d && decide (e ≠ .w32)
  | .vunpk d _ _ _ _ e => vecDst d && decide (e ≠ .w32)
  | .vred _ _ o _ e => decide (o.toNat < 12) && (decide (o.toNat < 9) || decide (e = .w32))
  | .vcvt d _ x _ w _ => vecDst d && vcvtFmt w x
  | .vcvts d a x _ r => vcvtsFmt x && (if r then vecReg d else vecReg a && vecDst d)
  | .accrw _ _ j => decide (j.toNat < 10)
  | .accrwSt _ _ j => decide (j.toNat < 10)
  | _ => true

/-- A well-formed instruction: every operand has a code that its encoding admits. -/
def Instr.wellFormed (i : Instr) : Bool := i.rangeOk && i.codesOk

end Sys2Proof
end

