-- ==== Sys2Proof/Decode.lean ====
section
/-!
DEFINITION. The decoder and the encoder of instruction words (R18, R19, R33 to R48). Decoding is total: a word is an
instruction or is refused with the reason of R30. Operand parts are read as numbers below 2^20.
-/

namespace Sys2Proof

/-- The reasons of an illegal encoding that one word can have alone, by their numbers in R30. -/
inductive Reason where
  /-- 1: unassigned major opcode. -/
  | major
  /-- 2: unassigned minor opcode. -/
  | minor
  /-- 3: a field that the instruction does not use, or a reserved field, is nonzero, or an immediate is out of range. -/
  | field
  /-- 4: reserved operand, rounding, format, size or condition code. -/
  | code
deriving DecidableEq, Repr

/-- The number R30 gives a reason. -/
def Reason.num : Reason → Nat
  | .major => 1
  | .minor => 2
  | .field => 3
  | .code => 4

/-- The instructions whose constructor of `Instr` stands beyond place 243, the last that compiled Lean code can build. The
decoder gives them in this form, so that a step of the machine can be run as compiled code as well as by the kernel. -/
inductive Late where
  | amoAdd (d a b : Reg) (c : Scope)
  | amoAnd (d a b : Reg) (c : Scope)
  | amoOr (d a b : Reg) (c : Scope)
  | amoXor (d a b : Reg) (c : Scope)
  | amoMin (d a b : Reg) (c : Scope)
  | amoMax (d a b : Reg) (c : Scope)
  | amoMinu (d a b : Reg) (c : Scope)
  | amoMaxu (d a b : Reg) (c : Scope)
  | cas (d a b : Reg) (c : Scope)
  | casXchg (d a b : Reg) (c : Scope)
  | famoFadd (d a b : Reg) (c : Scope)
  | famoFmin (d a b : Reg) (c : Scope)
  | famoFmax (d a b : Reg) (c : Scope)
  | rrot (d a b : Reg)
  | grprd (d a : Reg)
  | task (a b : Reg)
  | glaunch (d a : Reg)
  | gdone (a : Reg)
deriving DecidableEq, Repr

/-- What the decoder gives for a word: an instruction, those of `Late` in their own form. -/
inductive Decoded where
  | plain (i : Instr)
  | late (l : Late)
deriving DecidableEq, Repr

/-- The instruction that a `Late` stands for. -/
noncomputable def Late.instr : Late → Instr
  | .amoAdd d a b c => .amoAdd d a b c
  | .amoAnd d a b c => .amoAnd d a b c
  | .amoOr d a b c => .amoOr d a b c
  | .amoXor d a b c => .amoXor d a b c
  | .amoMin d a b c => .amoMin d a b c
  | .amoMax d a b c => .amoMax d a b c
  | .amoMinu d a b c => .amoMinu d a b c
  | .amoMaxu d a b c => .amoMaxu d a b c
  | .cas d a b c => .cas d a b c
  | .casXchg d a b c => .casXchg d a b c
  | .famoFadd d a b c => .famoFadd d a b c
  | .famoFmin d a b c => .famoFmin d a b c
  | .famoFmax d a b c => .famoFmax d a b c
  | .rrot d a b => .rrot d a b
  | .grprd d a => .grprd d a
  | .task a b => .task a b
  | .glaunch d a => .glaunch d a
  | .gdone a => .gdone a

/-- The instruction decoded. -/
noncomputable def Decoded.instr : Decoded → Instr
  | .plain i => i
  | .late l => l.instr

/-! The operand codes of R36 to R44, one decoder and one encoder for each. -/

def AddrMode.ofCode : Nat → AddrMode
  | 0 => .l | 1 => .cd | 2 => .ci | _ => .g
def AddrMode.code : AddrMode → Nat
  | .l => 0 | .cd => 1 | .ci => 2 | .g => 3
def Size.ofCode : Nat → Size
  | 0 => .b | 1 => .h | 2 => .s | _ => .w
def Size.code : Size → Nat
  | .b => 0 | .h => 1 | .s => 2 | .w => 3
/-- The width code of SEXT and ZEXT stands in a five-bit field (R112). -/
def Size.ofCode5 (n : Nat) : Option Size := if n < 4 then some (Size.ofCode n) else none
def Scope.ofCode : Nat → Scope
  | 0 => .core | 1 => .clu | 2 => .dev | _ => .sys
def Scope.code : Scope → Nat
  | .core => 0 | .clu => 1 | .dev => 2 | .sys => 3
def EW.ofCode : Nat → Option EW
  | 0 => some .w32 | 1 => some .w16 | 2 => some .w8 | _ => none
def EW.code : EW → Nat
  | .w32 => 0 | .w16 => 1 | .w8 => 2
def Rnd.ofCode : Nat → Option Rnd
  | 0 => some .rne | 1 => some .rz | 2 => some .ru | 3 => some .rd | 4 => some .sr | _ => none
def Rnd.code : Rnd → Nat
  | .rne => 0 | .rz => 1 | .ru => 2 | .rd => 3 | .sr => 4
def Fmt.ofCode : Nat → Option Fmt
  | 0 => some .f32 | 1 => some .bf16 | 2 => some .f16 | 3 => some .e4m3 | 4 => some .e5m2
  | 5 => some .e2m3 | 6 => some .e3m2 | 7 => some .e2m1 | 8 => some .tap8 | 9 => some .tap6
  | 10 => some .i8 | 11 => some .n8 | 12 => some .i4 | 13 => some .n4 | 14 => some .lut1
  | 15 => some .lut2 | 16 => some .i16 | 17 => some .n16 | 18 => some .i32 | 19 => some .n32
  | _ => none
def Fmt.code : Fmt → Nat
  | .f32 => 0 | .bf16 => 1 | .f16 => 2 | .e4m3 => 3 | .e5m2 => 4
  | .e2m3 => 5 | .e3m2 => 6 | .e2m1 => 7 | .tap8 => 8 | .tap6 => 9
  | .i8 => 10 | .n8 => 11 | .i4 => 12 | .n4 => 13 | .lut1 => 14
  | .lut2 => 15 | .i16 => 16 | .n16 => 17 | .i32 => 18 | .n32 => 19
def Cond.ofCode : Nat → Option Cond
  | 0 => some .eq | 1 => some .ne | 2 => some .lt | 3 => some .ge | 4 => some .ltu
  | 5 => some .geu | 6 => some .le | 7 => some .gt | 8 => some .leu | 9 => some .gtu
  | _ => none
def Cond.code : Cond → Nat
  | .eq => 0 | .ne => 1 | .lt => 2 | .ge => 3 | .ltu => 4
  | .geu => 5 | .le => 6 | .gt => 7 | .leu => 8 | .gtu => 9
def VCond.ofCode : Nat → Option VCond
  | 0 => some .eq | 1 => some .ne | 2 => some .lt | 3 => some .le | 4 => some .gt | 5 => some .ge
  | _ => none
def VCond.code : VCond → Nat
  | .eq => 0 | .ne => 1 | .lt => 2 | .le => 3 | .gt => 4 | .ge => 5
def FCond.ofCode : Nat → Option FCond
  | 0 => some .eq | 1 => some .ne | 2 => some .lt | 3 => some .le | 4 => some .gt | 5 => some .ge
  | 6 => some .un | _ => none
def FCond.code : FCond → Nat
  | .eq => 0 | .ne => 1 | .lt => 2 | .le => 3 | .gt => 4 | .ge => 5 | .un => 6
/-- A mask, predicate or accumulator named by a five-bit field: codes 8 to 31 are reserved (R36, R39). -/
def code3 (n : Nat) : Option (BitVec 3) := if n < 8 then some (BitVec.ofNat 3 n) else none

/-! The order of the reasons in one word (R30): minor opcode, unused fields, reserved codes. -/

/-- The form whose minor opcode is `c`, else the forms that follow. -/
def minor (c : Prop) [Decidable c] (t e : Except Reason Decoded) : Except Reason Decoded := if c then t else e
/-- Reason 3 unless the unused fields are zero (R35). -/
def unless3 (c : Prop) [Decidable c] (t : Except Reason Decoded) : Except Reason Decoded :=
  if c then t else .error .field
/-- Reason 4 unless the fixed codes are the ones the form requires. -/
def unless4 (c : Prop) [Decidable c] (t : Except Reason Decoded) : Except Reason Decoded :=
  if c then t else .error .code
/-- Reason 4 when an operand code is reserved. -/
def reserved {α : Type} (o : Option α) (t : α → Except Reason Decoded) : Except Reason Decoded :=
  match o with
  | some v => t v
  | none => .error .code

/-- Control-and-memory words by major opcode (R45); `x` is bits 19:0. Which bits that a row leaves at zero are an unused field and which are
a minor opcode is in log entry 11 (DEDUCED): fn[2] of FENCE, REL and ACQ belongs to the CS format's fn (reason 2), while fn[4:3] of CAS,
fn[4] of VLDS, VSTS, VLDX and VSTX, fn[4:1] of TAGS and TAGR and fn[4:3] of BREAD are unused fields (reason 3; DESIGN CHOICE: the CA
format calls all of fn[4:0] one field, and the row assigns the other bits of it to operands). -/
def rawCM (op x : Nat) : Except Reason Decoded :=
  match op with
  | 0x01 =>
    minor (x % 8 = 0) (unless3 (x / 8 = 0) <| .ok (.plain .nop)) <|
    .error .minor
  | 0x02 => unless3 (x / 32768 = 0) <| .ok (.plain (.br (BitVec.ofNat 15 x)))
  | 0x03 => reserved (code3 (x / 32768)) fun ac => .ok (.plain (.brp ac (BitVec.ofNat 15 x)))
  | 0x04 => .ok (.plain (.brz (BitVec.ofNat 5 (x / 32768)) (BitVec.ofNat 15 x)))
  | 0x05 => .ok (.plain (.bnz (BitVec.ofNat 5 (x / 32768)) (BitVec.ofNat 15 x)))
  | 0x06 =>
    minor (x % 32 = 0) (unless3 (x / 32 % 32 = 0 ∧ x / 32768 = 0) <| .ok (.plain (.bri (BitVec.ofNat 5 (x / 1024))))) <|
    .error .minor
  | 0x07 => .ok (.plain (.call (BitVec.ofNat 5 (x / 32768)) (BitVec.ofNat 15 x)))
  | 0x08 =>
    minor (x % 32 = 0) (unless3 (x / 32 % 32 = 0) <| .ok (.plain (.calli (BitVec.ofNat 5 (x / 32768)) (BitVec.ofNat 5 (x / 1024))))) <|
    .error .minor
  | 0x09 =>
    minor (x % 32 = 0) (unless3 (x / 32 % 32 = 0 ∧ x / 32768 = 0) <| .ok (.plain (.ret (BitVec.ofNat 5 (x / 1024))))) <|
    .error .minor
  | 0x0A => .ok (.plain (.loop (BitVec.ofNat 5 (x / 32768)) (BitVec.ofNat 15 x)))
  | 0x0B => unless3 (x / 32768 = 0) <| .ok (.plain (.lexit (BitVec.ofNat 15 x)))
  | 0x0C =>
    minor (x % 8 = 0) (unless3 (x / 8 = 0) <| .ok (.plain .done)) <|
    .error .minor
  | 0x0D =>
    minor (x % 8 = 0) (unless3 (x / 32768 = 0) <| .ok (.plain (.yield (BitVec.ofNat 12 (x / 8))))) <|
    .error .minor
  | 0x0E =>
    minor (x / 8 % 4 = 0) (.ok (.plain (.start (BitVec.ofNat 5 (x / 32768)) (BitVec.ofNat 5 (x / 1024)) (BitVec.ofNat 5 (x / 32)) (BitVec.ofNat 3 x)))) <|
    .error .minor
  | 0x0F =>
    minor (x % 32 = 0) (unless3 (x / 32 % 32 = 0 ∧ x / 32768 = 0) <| .ok (.plain (.join (BitVec.ofNat 5 (x / 1024))))) <|
    .error .minor
  | 0x10 =>
    minor (x % 32 = 0) (.ok (.plain (.spawn (BitVec.ofNat 5 (x / 32768)) (BitVec.ofNat 5 (x / 1024)) (BitVec.ofNat 5 (x / 32))))) <|
    .error .minor
  | 0x11 =>
    minor (x % 8 = 0) (unless3 (x / 32768 = 0) <| .ok (.plain (.trap (BitVec.ofNat 12 (x / 8))))) <|
    .error .minor
  | 0x12 =>
    minor (x % 8 = 0) (unless3 (x / 32768 = 0) <| .ok (.plain (.bkpt (BitVec.ofNat 12 (x / 8))))) <|
    .error .minor
  | 0x13 =>
    minor (x % 32 = 0) (unless3 (x / 32 % 1024 = 0) <| .ok (.plain (.evrd (BitVec.ofNat 5 (x / 32768))))) <|
    minor (x % 32 = 1) (unless3 (x / 32 % 1024 = 0) <| .ok (.plain (.evrdPeek (BitVec.ofNat 5 (x / 32768))))) <|
    .error .minor
  | 0x14 =>
    minor (x / 2 % 16 = 0) (.ok (.plain (.send (BitVec.ofNat 6 (x / 32768 % 32 + x % 2 * 32)) (BitVec.ofNat 5 (x / 1024)) (BitVec.ofNat 5 (x / 32))))) <|
    .error .minor
  | 0x15 =>
    minor (x / 2 % 16 = 0) (.ok (.plain (.sendv (BitVec.ofNat 6 (x / 32768 % 32 + x % 2 * 32)) (BitVec.ofNat 5 (x / 1024)) (BitVec.ofNat 5 (x / 32))))) <|
    .error .minor
  | 0x16 =>
    minor (x % 8 = 0) (.ok (.plain (.recv (BitVec.ofNat 5 (x / 32768)) (BitVec.ofNat 12 (x / 8))))) <|
    .error .minor
  | 0x17 =>
    minor (x % 8 = 0) (.ok (.plain (.recvv (BitVec.ofNat 5 (x / 32768)) (BitVec.ofNat 12 (x / 8))))) <|
    .error .minor
  | 0x18 =>
    minor (x % 8 = 0) (unless3 (x / 8 = 0) <| .ok (.plain .openAct)) <|
    .error .minor
  | 0x19 =>
    minor (x % 8 = 0) (.ok (.plain (.hset (BitVec.ofNat 5 (x / 32768)) (BitVec.ofNat 12 (x / 8))))) <|
    .error .minor
  | 0x1A =>
    minor (x % 8 = 0) (unless3 (x / 32768 = 0) <| .ok (.plain (.hmaskOn (BitVec.ofNat 12 (x / 8))))) <|
    minor (x % 8 = 1) (unless3 (x / 32768 = 0) <| .ok (.plain (.hmaskOff (BitVec.ofNat 12 (x / 8))))) <|
    .error .minor
  | 0x20 => .ok (.plain (.ld (BitVec.ofNat 5 (x / 32768)) (BitVec.ofNat 5 (x / 1024)) (AddrMode.ofCode (x / 256 % 4)) (Size.ofCode (x / 64 % 4)) (BitVec.ofNat 6 x)))
  | 0x21 => .ok (.plain (.ldSx (BitVec.ofNat 5 (x / 32768)) (BitVec.ofNat 5 (x / 1024)) (AddrMode.ofCode (x / 256 % 4)) (Size.ofCode (x / 64 % 4)) (BitVec.ofNat 6 x)))
  | 0x22 => .ok (.plain (.st (BitVec.ofNat 5 (x / 32768)) (BitVec.ofNat 5 (x / 1024)) (AddrMode.ofCode (x / 256 % 4)) (Size.ofCode (x / 64 % 4)) (BitVec.ofNat 6 x)))
  | 0x23 => unless4 (x / 64 % 4 = 3) <| .ok (.plain (.vld (BitVec.ofNat 5 (x / 32768)) (BitVec.ofNat 5 (x / 1024)) (AddrMode.ofCode (x / 256 % 4)) (BitVec.ofNat 6 x)))
  | 0x24 => unless4 (x / 64 % 4 = 3) <| .ok (.plain (.vst (BitVec.ofNat 5 (x / 32768)) (BitVec.ofNat 5 (x / 1024)) (AddrMode.ofCode (x / 256 % 4)) (BitVec.ofNat 6 x)))
  | 0x25 => unless3 (x / 16 % 2 = 0) <| .ok (.plain (.vlds (BitVec.ofNat 5 (x / 32768)) (BitVec.ofNat 5 (x / 1024)) (BitVec.ofNat 5 (x / 32)) (Size.ofCode (x / 4 % 4)) (AddrMode.ofCode (x % 4))))
  | 0x26 => unless3 (x / 16 % 2 = 0) <| .ok (.plain (.vsts (BitVec.ofNat 5 (x / 32768)) (BitVec.ofNat 5 (x / 1024)) (BitVec.ofNat 5 (x / 32)) (Size.ofCode (x / 4 % 4)) (AddrMode.ofCode (x % 4))))
  | 0x27 => unless3 (x / 16 % 2 = 0) <| .ok (.plain (.vldx (BitVec.ofNat 5 (x / 32768)) (BitVec.ofNat 5 (x / 1024)) (BitVec.ofNat 5 (x / 32)) (Size.ofCode (x / 4 % 4)) (AddrMode.ofCode (x % 4))))
  | 0x28 => unless3 (x / 16 % 2 = 0) <| .ok (.plain (.vstx (BitVec.ofNat 5 (x / 32768)) (BitVec.ofNat 5 (x / 1024)) (BitVec.ofNat 5 (x / 32)) (Size.ofCode (x / 4 % 4)) (AddrMode.ofCode (x % 4))))
  | 0x29 => unless4 (x / 128 % 8 = 0) <| if x / 64 % 2 = 0 then .ok (.plain (.ldfTake (BitVec.ofNat 5 (x / 32768)) (BitVec.ofNat 5 (x / 1024)) (BitVec.ofNat 6 x)))
      else .ok (.plain (.ldfKeep (BitVec.ofNat 5 (x / 32768)) (BitVec.ofNat 5 (x / 1024)) (BitVec.ofNat 6 x)))
  | 0x2A => unless4 (x / 64 % 4 = 3) <| .ok (.plain (.ste (BitVec.ofNat 5 (x / 32768)) (BitVec.ofNat 5 (x / 1024)) (AddrMode.ofCode (x / 256 % 4)) (BitVec.ofNat 6 x)))
  | 0x2B =>
    minor (x % 2 = 0) (unless3 (x / 2 % 16 = 0 ∧ x / 32768 = 0) <| .ok (.plain (.tags (BitVec.ofNat 5 (x / 1024)) (BitVec.ofNat 5 (x / 32))))) <|
    minor (x % 2 = 1) (unless3 (x / 2 % 16 = 0 ∧ x / 32768 = 0) <| .ok (.plain (.tagsV (BitVec.ofNat 5 (x / 1024)) (BitVec.ofNat 5 (x / 32))))) <|
    .error .minor
  | 0x2C =>
    minor (x % 2 = 0) (unless3 (x / 2 % 512 = 0) <| .ok (.plain (.tagr (BitVec.ofNat 5 (x / 32768)) (BitVec.ofNat 5 (x / 1024))))) <|
    minor (x % 2 = 1) (unless3 (x / 2 % 512 = 0) <| .ok (.plain (.tagrV (BitVec.ofNat 5 (x / 32768)) (BitVec.ofNat 5 (x / 1024))))) <|
    .error .minor
  | 0x2D => unless3 (x / 8 % 4 = 0) <| .ok (.plain (.bread (BitVec.ofNat 6 (x / 32768 % 32 + x % 2 * 32)) (BitVec.ofNat 5 (x / 1024)) (BitVec.ofNat 5 (x / 32)) (AddrMode.ofCode (x / 2 % 4))))
  | 0x30 =>
    minor (x / 4 % 8 = 0) (.ok (.late (.amoAdd (BitVec.ofNat 5 (x / 32768)) (BitVec.ofNat 5 (x / 1024)) (BitVec.ofNat 5 (x / 32)) (Scope.ofCode (x % 4))))) <|
    minor (x / 4 % 8 = 1) (.ok (.late (.amoAnd (BitVec.ofNat 5 (x / 32768)) (BitVec.ofNat 5 (x / 1024)) (BitVec.ofNat 5 (x / 32)) (Scope.ofCode (x % 4))))) <|
    minor (x / 4 % 8 = 2) (.ok (.late (.amoOr (BitVec.ofNat 5 (x / 32768)) (BitVec.ofNat 5 (x / 1024)) (BitVec.ofNat 5 (x / 32)) (Scope.ofCode (x % 4))))) <|
    minor (x / 4 % 8 = 3) (.ok (.late (.amoXor (BitVec.ofNat 5 (x / 32768)) (BitVec.ofNat 5 (x / 1024)) (BitVec.ofNat 5 (x / 32)) (Scope.ofCode (x % 4))))) <|
    minor (x / 4 % 8 = 4) (.ok (.late (.amoMin (BitVec.ofNat 5 (x / 32768)) (BitVec.ofNat 5 (x / 1024)) (BitVec.ofNat 5 (x / 32)) (Scope.ofCode (x % 4))))) <|
    minor (x / 4 % 8 = 5) (.ok (.late (.amoMax (BitVec.ofNat 5 (x / 32768)) (BitVec.ofNat 5 (x / 1024)) (BitVec.ofNat 5 (x / 32)) (Scope.ofCode (x % 4))))) <|
    minor (x / 4 % 8 = 6) (.ok (.late (.amoMinu (BitVec.ofNat 5 (x / 32768)) (BitVec.ofNat 5 (x / 1024)) (BitVec.ofNat 5 (x / 32)) (Scope.ofCode (x % 4))))) <|
    minor (x / 4 % 8 = 7) (.ok (.late (.amoMaxu (BitVec.ofNat 5 (x / 32768)) (BitVec.ofNat 5 (x / 1024)) (BitVec.ofNat 5 (x / 32)) (Scope.ofCode (x % 4))))) <|
    .error .minor
  | 0x31 =>
    minor (x / 4 % 2 = 0) (unless3 (x / 8 % 4 = 0) <| .ok (.late (.cas (BitVec.ofNat 5 (x / 32768)) (BitVec.ofNat 5 (x / 1024)) (BitVec.ofNat 5 (x / 32)) (Scope.ofCode (x % 4))))) <|
    minor (x / 4 % 2 = 1) (unless3 (x / 8 % 4 = 0) <| .ok (.late (.casXchg (BitVec.ofNat 5 (x / 32768)) (BitVec.ofNat 5 (x / 1024)) (BitVec.ofNat 5 (x / 32)) (Scope.ofCode (x % 4))))) <|
    .error .minor
  | 0x32 =>
    minor (x / 4 % 8 = 0) (.ok (.late (.famoFadd (BitVec.ofNat 5 (x / 32768)) (BitVec.ofNat 5 (x / 1024)) (BitVec.ofNat 5 (x / 32)) (Scope.ofCode (x % 4))))) <|
    minor (x / 4 % 8 = 1) (.ok (.late (.famoFmin (BitVec.ofNat 5 (x / 32768)) (BitVec.ofNat 5 (x / 1024)) (BitVec.ofNat 5 (x / 32)) (Scope.ofCode (x % 4))))) <|
    minor (x / 4 % 8 = 2) (.ok (.late (.famoFmax (BitVec.ofNat 5 (x / 32768)) (BitVec.ofNat 5 (x / 1024)) (BitVec.ofNat 5 (x / 32)) (Scope.ofCode (x % 4))))) <|
    .error .minor
  | 0x33 =>
    minor (x / 4 % 2 = 0) (unless3 (x / 8 = 0) <| .ok (.plain (.fence (Scope.ofCode (x % 4))))) <|
    .error .minor
  | 0x34 =>
    minor (x / 4 % 2 = 0) (unless3 (x / 8 = 0) <| .ok (.plain (.rel (Scope.ofCode (x % 4))))) <|
    .error .minor
  | 0x35 =>
    minor (x / 4 % 2 = 0) (unless3 (x / 8 = 0) <| .ok (.plain (.acq (Scope.ofCode (x % 4))))) <|
    .error .minor
  | 0x38 =>
    minor (x % 4 = 0) (unless3 (x / 4 % 256 = 0 ∧ x / 32768 = 0) <| .ok (.plain (.town (BitVec.ofNat 5 (x / 1024))))) <|
    minor (x % 4 = 1) (unless3 (x / 4 % 256 = 0 ∧ x / 32768 = 0) <| .ok (.plain (.townKeep (BitVec.ofNat 5 (x / 1024))))) <|
    .error .minor
  | 0x39 =>
    minor (x % 4 = 0) (unless3 (x / 4 % 256 = 0 ∧ x / 32768 = 0) <| .ok (.plain (.tfree (BitVec.ofNat 5 (x / 1024))))) <|
    .error .minor
  | 0x3A =>
    minor (x % 4 = 0) (unless3 (x / 32768 = 0) <| .ok (.plain (.tseek (BitVec.ofNat 5 (x / 1024)) (BitVec.ofNat 8 (x / 4))))) <|
    minor (x % 4 = 1) (unless3 (x / 4 % 256 = 0) <| .ok (.plain (.tseekReg (BitVec.ofNat 5 (x / 32768)) (BitVec.ofNat 5 (x / 1024))))) <|
    .error .minor
  | 0x3B =>
    minor (x % 4 = 0) (unless3 (x / 32768 = 0) <| .ok (.plain (.tstep (BitVec.ofNat 5 (x / 1024)) (BitVec.ofNat 8 (x / 4))))) <|
    minor (x % 4 = 1) (unless3 (x / 4 % 256 = 0) <| .ok (.plain (.tstepReg (BitVec.ofNat 5 (x / 32768)) (BitVec.ofNat 5 (x / 1024))))) <|
    .error .minor
  | 0x3C =>
    minor (x % 4 = 0) (unless3 (x / 4 % 256 = 0 ∧ x / 32768 = 0) <| .ok (.plain (.trew (BitVec.ofNat 5 (x / 1024))))) <|
    .error .minor
  | 0x3D =>
    minor (x / 2 % 2 = 0) (unless3 (x / 4 % 256 = 0) <| .ok (.plain (.trd (BitVec.ofNat 5 (x / 32768)) (BitVec.ofNat 5 (x / 1024)) (decide (x % 2 = 1))))) <|
    .error .minor
  | 0x3E =>
    minor (x / 2 % 2 = 0) (.ok (.plain (.trds (BitVec.ofNat 5 (x / 32768)) (BitVec.ofNat 5 (x / 1024)) (BitVec.ofNat 8 (x / 4)) (decide (x % 2 = 1))))) <|
    .error .minor
  | 0x3F =>
    minor (x / 2 % 2 = 0) (unless3 (x / 4 % 256 = 0) <| .ok (.plain (.twr (BitVec.ofNat 5 (x / 32768)) (BitVec.ofNat 5 (x / 1024)) (decide (x % 2 = 1))))) <|
    .error .minor
  | 0x40 =>
    minor (x / 2 % 2 = 0) (.ok (.plain (.twrs (BitVec.ofNat 5 (x / 32768)) (BitVec.ofNat 5 (x / 1024)) (BitVec.ofNat 8 (x / 4)) (decide (x % 2 = 1))))) <|
    .error .minor
  | 0x41 =>
    minor (x % 4 = 0) (unless3 (x / 4 % 256 = 0 ∧ x / 32768 = 0) <| .ok (.plain (.twait (BitVec.ofNat 5 (x / 1024))))) <|
    .error .minor
  | 0x42 =>
    minor (x % 4 = 0) (unless3 (x / 4 % 256 = 0) <| .ok (.plain (.thead (BitVec.ofNat 5 (x / 32768)) (BitVec.ofNat 5 (x / 1024))))) <|
    .error .minor
  | 0x43 =>
    minor (x % 4 = 0) (unless3 (x / 4 % 256 = 0 ∧ x / 32768 = 0) <| .ok (.plain (.talign (BitVec.ofNat 5 (x / 1024))))) <|
    .error .minor
  | 0x44 =>
    minor (x % 4 = 0) (unless3 (x / 4 % 256 = 0 ∧ x / 32768 = 0) <| .ok (.plain (.tshare (BitVec.ofNat 5 (x / 1024))))) <|
    minor (x % 4 = 1) (unless3 (x / 4 % 256 = 0 ∧ x / 32768 = 0) <| .ok (.plain (.tshareOff (BitVec.ofNat 5 (x / 1024))))) <|
    .error .minor
  | 0x48 =>
    minor (x % 32 = 0) (.ok (.late (.rrot (BitVec.ofNat 5 (x / 32768)) (BitVec.ofNat 5 (x / 1024)) (BitVec.ofNat 5 (x / 32))))) <|
    .error .minor
  | 0x49 =>
    minor (x / 4 % 8 = 0) (.ok (.plain (.invoke (BitVec.ofNat 5 (x / 32768)) (BitVec.ofNat 5 (x / 1024)) (BitVec.ofNat 5 (x / 32)) (BitVec.ofNat 2 x)))) <|
    minor (x / 4 % 8 = 1) (.ok (.plain (.invokeRetry (BitVec.ofNat 5 (x / 32768)) (BitVec.ofNat 5 (x / 1024)) (BitVec.ofNat 5 (x / 32)) (BitVec.ofNat 2 x)))) <|
    .error .minor
  | 0x4A =>
    minor (x % 32 = 0) (unless3 (x / 32 % 32 = 0) <| .ok (.late (.grprd (BitVec.ofNat 5 (x / 32768)) (BitVec.ofNat 5 (x / 1024))))) <|
    .error .minor
  | 0x4B =>
    minor (x % 32 = 0) (unless3 (x / 32 % 32 = 0 ∧ x / 32768 = 0) <| .ok (.plain (.hgrant (BitVec.ofNat 5 (x / 1024))))) <|
    .error .minor
  | 0x4C =>
    minor (x % 32 = 0) (unless3 (x / 32 = 0) <| .ok (.plain .hrevoke)) <|
    .error .minor
  | 0x50 =>
    minor (x % 4 = 0) (unless3 (x / 4 % 256 = 0) <| unless4 (x / 1024 % 32 = 0) <| .ok (.plain (.qw (BitVec.ofNat 5 (x / 32768))))) <|
    .error .minor
  | 0x51 =>
    minor (x % 4 = 0) (unless3 (x / 128 % 8 = 0) <| unless4 (x / 1024 % 32 = 1) <| .ok (.plain (.qwv (BitVec.ofNat 5 (x / 32768)) (BitVec.ofNat 5 (x / 4))))) <|
    .error .minor
  | 0x52 =>
    minor (x % 4 = 0) (unless3 (x / 4 % 256 = 0) <| unless4 (x / 1024 % 32 = 3) <| .ok (.plain (.qr (BitVec.ofNat 5 (x / 32768))))) <|
    .error .minor
  | 0x53 =>
    minor (x % 4 = 0) (unless3 (x / 4 % 256 = 0) <| unless4 (x / 1024 % 32 = 2) <| .ok (.plain (.qrv (BitVec.ofNat 5 (x / 32768))))) <|
    .error .minor
  | 0x54 =>
    minor (x % 4 = 0) (unless3 (x / 4 % 256 = 0) <| .ok (.plain (.qst (BitVec.ofNat 5 (x / 32768)) (BitVec.ofNat 5 (x / 1024))))) <|
    .error .minor
  | 0x55 =>
    minor (x % 4 = 0) (.ok (.plain (.mlease (BitVec.ofNat 5 (x / 32768)) (BitVec.ofNat 5 (x / 1024)) (BitVec.ofNat 8 (x / 4))))) <|
    .error .minor
  | 0x56 =>
    minor (x % 4 = 0) (unless3 (x / 4 % 256 = 0 ∧ x / 32768 = 0) <| .ok (.plain (.mfree (BitVec.ofNat 5 (x / 1024))))) <|
    .error .minor
  | 0x57 => minor (x % 8 = 0 ∧ x / 8 % 4096 < 256 ∧ mmaPair (x / 128 % 16) (x / 8 % 16)) (.ok (.plain (.mma (BitVec.ofNat 5 (x / 32768))
      (BitVec.ofNat 4 (x / 128)) (BitVec.ofNat 4 (x / 8))))) <|
    .error .minor
  | 0x58 =>
    minor (x % 8 = 0) (unless3 (x / 8 = 0) <| .ok (.plain .mset)) <|
    .error .minor
  | 0x60 =>
    minor (x % 32 = 0) (unless3 (x / 32 % 32 = 0 ∧ x / 32768 = 0) <| .ok (.plain (.xld (BitVec.ofNat 5 (x / 1024))))) <|
    .error .minor
  | 0x61 =>
    minor (x % 32 = 0) (unless3 (x / 32 % 32 = 0) <| .ok (.plain (.xwait (BitVec.ofNat 5 (x / 32768)) (BitVec.ofNat 5 (x / 1024))))) <|
    .error .minor
  | 0x62 =>
    minor (x % 32 = 0) (unless3 (x / 32 % 32 = 0 ∧ x / 32768 = 0) <| .ok (.plain (.xcan (BitVec.ofNat 5 (x / 1024))))) <|
    .error .minor
  | 0x63 =>
    minor (x % 32 = 0) (unless3 (x / 32 % 32 = 0 ∧ x / 32768 = 0) <| .ok (.plain (.xst (BitVec.ofNat 5 (x / 1024))))) <|
    .error .minor
  | 0x68 =>
    minor (x % 4 = 0) (unless3 (x / 1024 = 0) <| .ok (.plain (.bars (BitVec.ofNat 8 (x / 4))))) <|
    .error .minor
  | 0x69 =>
    minor (x % 4 = 0) (unless3 (x / 1024 = 0) <| .ok (.plain (.barw (BitVec.ofNat 8 (x / 4))))) <|
    .error .minor
  | 0x6A =>
    minor (x % 4 = 0) (unless3 (x / 1024 % 32 = 0) <| .ok (.plain (.bari (BitVec.ofNat 5 (x / 32768)) (BitVec.ofNat 8 (x / 4))))) <|
    .error .minor
  | 0x6B =>
    minor (x % 4 = 0) (unless3 (x / 1024 % 32 = 0) <| .ok (.plain (.specq (BitVec.ofNat 5 (x / 32768)) (BitVec.ofNat 8 (x / 4))))) <|
    minor (x % 4 = 1) (unless3 (x / 4 % 8192 = 0) <| .ok (.plain (.specqSelf (BitVec.ofNat 5 (x / 32768))))) <|
    .error .minor
  | 0x6C =>
    minor (x % 32 = 0) (unless3 (x / 32768 = 0) <| .ok (.late (.task (BitVec.ofNat 5 (x / 1024)) (BitVec.ofNat 5 (x / 32))))) <|
    .error .minor
  | 0x6D =>
    minor (x % 32 = 0) (unless3 (x / 32 % 1024 = 0) <| .ok (.plain (.tsnow (BitVec.ofNat 5 (x / 32768))))) <|
    minor (x % 32 = 1) (unless3 (x / 32 % 1024 = 0) <| .ok (.plain (.tsnowHz (BitVec.ofNat 5 (x / 32768))))) <|
    .error .minor
  | 0x6E =>
    minor (x % 32 = 0) (unless3 (x / 32 % 32 = 0) <| .ok (.late (.glaunch (BitVec.ofNat 5 (x / 32768)) (BitVec.ofNat 5 (x / 1024))))) <|
    .error .minor
  | 0x6F =>
    minor (x % 32 = 0) (unless3 (x / 32 % 32 = 0 ∧ x / 32768 = 0) <| .ok (.late (.gdone (BitVec.ofNat 5 (x / 1024))))) <|
    .error .minor
  | 0x70 =>
    minor (x % 8 = 0) (.ok (.plain (.mtc (BitVec.ofNat 5 (x / 32768)) (BitVec.ofNat 12 (x / 8))))) <|
    .error .minor
  | 0x71 => minor (x % 8 = 0) (if x / 8 % 4096 = 10 then .ok (.plain (.xgo (BitVec.ofNat 5 (x / 32768))))
      else .ok (.plain (.mfc (BitVec.ofNat 5 (x / 32768)) (BitVec.ofNat 12 (x / 8))))) <|
    .error .minor
  | 0x72 =>
    minor (x % 8 = 0) (unless3 (x / 8 % 4096 = 0) <| .ok (.plain (.setwp (BitVec.ofNat 5 (x / 32768))))) <|
    .error .minor
  | 0x73 =>
    minor (x % 8 = 0) (.ok (.plain (.csave (BitVec.ofNat 5 (x / 32768)) (BitVec.ofNat 12 (x / 8))))) <|
    .error .minor
  | 0x74 =>
    minor (x % 8 = 0) (.ok (.plain (.crest (BitVec.ofNat 5 (x / 32768)) (BitVec.ofNat 12 (x / 8))))) <|
    .error .minor
  | 0x75 =>
    minor (x % 8 = 0) (unless3 (x / 32768 = 0) <| .ok (.plain (.ctxkStop (BitVec.ofNat 12 (x / 8))))) <|
    minor (x % 8 = 1) (unless3 (x / 32768 = 0) <| .ok (.plain (.ctxkGo (BitVec.ofNat 12 (x / 8))))) <|
    minor (x % 8 = 2) (unless3 (x / 32768 = 0) <| .ok (.plain (.ctxkKill (BitVec.ofNat 12 (x / 8))))) <|
    .error .minor
  | 0x76 =>
    minor (x % 8 = 0) (unless3 (x / 8 = 0) <| .ok (.plain .eret)) <|
    .error .minor
  | 0x77 =>
    minor (x % 8 = 0) (unless3 (x / 8 % 4096 = 0) <| .ok (.plain (.halt (BitVec.ofNat 5 (x / 32768))))) <|
    minor (x % 8 = 1) (unless3 (x / 8 % 4096 = 0) <| .ok (.plain (.haltBounce (BitVec.ofNat 5 (x / 32768))))) <|
    minor (x % 8 = 2) (unless3 (x / 8 % 4096 = 0) <| .ok (.plain (.haltOff (BitVec.ofNat 5 (x / 32768))))) <|
    .error .minor
  | 0x78 =>
    minor (x % 8 = 0) (unless3 (x / 8 % 4096 = 0) <| .ok (.plain (.scan (BitVec.ofNat 5 (x / 32768))))) <|
    .error .minor
  | 0x79 =>
    minor (x % 8 = 0) (unless3 (x / 8 % 4096 = 0) <| .ok (.plain (.cmap (BitVec.ofNat 5 (x / 32768))))) <|
    .error .minor
  | 0x7A =>
    minor (x % 8 = 0) (.ok (.plain (.stinvPage (BitVec.ofNat 5 (x / 32768)) (BitVec.ofNat 12 (x / 8))))) <|
    minor (x % 8 = 1) (.ok (.plain (.stinvPid (BitVec.ofNat 5 (x / 32768)) (BitVec.ofNat 12 (x / 8))))) <|
    minor (x % 8 = 2) (unless3 (x / 32768 = 0) <| .ok (.plain (.stinvAll (BitVec.ofNat 12 (x / 8))))) <|
    .error .minor
  | 0x7B =>
    minor (x % 8 = 0) (.ok (.plain (.keyld (BitVec.ofNat 5 (x / 32768)) (BitVec.ofNat 12 (x / 8))))) <|
    minor (x % 8 = 1) (unless3 (x / 32768 = 0) <| .ok (.plain (.keyldClr (BitVec.ofNat 12 (x / 8))))) <|
    .error .minor
  | 0x7C =>
    minor (x % 8 = 0) (unless4 (x / 2048 % 16 = 0) <| .ok (.plain (.perfqSum (BitVec.ofNat 5 (x / 32768)) (BitVec.ofNat 2 (x / 512)) (BitVec.ofNat 6 (x / 8))))) <|
    minor (x % 8 = 1) (unless4 (x / 2048 % 16 = 0) <| .ok (.plain (.perfqMin (BitVec.ofNat 5 (x / 32768)) (BitVec.ofNat 2 (x / 512)) (BitVec.ofNat 6 (x / 8))))) <|
    minor (x % 8 = 2) (unless4 (x / 2048 % 16 = 0) <| .ok (.plain (.perfqMax (BitVec.ofNat 5 (x / 32768)) (BitVec.ofNat 2 (x / 512)) (BitVec.ofNat 6 (x / 8))))) <|
    .error .minor
  | 0x7D =>
    minor (x % 8 = 0) (unless3 (x / 8 % 4096 = 0) <| .ok (.plain (.trarm (BitVec.ofNat 5 (x / 32768))))) <|
    minor (x % 8 = 1) (unless3 (x / 8 = 0) <| .ok (.plain .trarmOff)) <|
    minor (x % 8 = 2) (unless3 (x / 8 = 0) <| .ok (.plain .trarmStop)) <|
    .error .minor
  | _ => .error .major

/-- Arithmetic words by major opcode (R46, R47); `x` is bits 19:0. An FCVT from FP32 to FP32 with f[0] = 1 decodes as the one with 0.
(DESIGN CHOICE, log entry 139.) -/
def rawAR (op x : Nat) : Except Reason Decoded :=
  match op with
  | 0x01 =>
    minor (x % 32 = 0) (.ok (.plain (.add (BitVec.ofNat 5 (x / 32768)) (BitVec.ofNat 5 (x / 1024)) (BitVec.ofNat 5 (x / 32))))) <|
    minor (x % 32 = 1) (.ok (.plain (.sub (BitVec.ofNat 5 (x / 32768)) (BitVec.ofNat 5 (x / 1024)) (BitVec.ofNat 5 (x / 32))))) <|
    minor (x % 32 = 2) (.ok (.plain (.and (BitVec.ofNat 5 (x / 32768)) (BitVec.ofNat 5 (x / 1024)) (BitVec.ofNat 5 (x / 32))))) <|
    minor (x % 32 = 3) (.ok (.plain (.or (BitVec.ofNat 5 (x / 32768)) (BitVec.ofNat 5 (x / 1024)) (BitVec.ofNat 5 (x / 32))))) <|
    minor (x % 32 = 4) (.ok (.plain (.xor (BitVec.ofNat 5 (x / 32768)) (BitVec.ofNat 5 (x / 1024)) (BitVec.ofNat 5 (x / 32))))) <|
    minor (x % 32 = 5) (.ok (.plain (.andn (BitVec.ofNat 5 (x / 32768)) (BitVec.ofNat 5 (x / 1024)) (BitVec.ofNat 5 (x / 32))))) <|
    minor (x % 32 = 6) (.ok (.plain (.shl (BitVec.ofNat 5 (x / 32768)) (BitVec.ofNat 5 (x / 1024)) (BitVec.ofNat 5 (x / 32))))) <|
    minor (x % 32 = 7) (.ok (.plain (.shr (BitVec.ofNat 5 (x / 32768)) (BitVec.ofNat 5 (x / 1024)) (BitVec.ofNat 5 (x / 32))))) <|
    minor (x % 32 = 8) (.ok (.plain (.sra (BitVec.ofNat 5 (x / 32768)) (BitVec.ofNat 5 (x / 1024)) (BitVec.ofNat 5 (x / 32))))) <|
    minor (x % 32 = 9) (.ok (.plain (.rot (BitVec.ofNat 5 (x / 32768)) (BitVec.ofNat 5 (x / 1024)) (BitVec.ofNat 5 (x / 32))))) <|
    minor (x % 32 = 10) (.ok (.plain (.min (BitVec.ofNat 5 (x / 32768)) (BitVec.ofNat 5 (x / 1024)) (BitVec.ofNat 5 (x / 32))))) <|
    minor (x % 32 = 11) (.ok (.plain (.max (BitVec.ofNat 5 (x / 32768)) (BitVec.ofNat 5 (x / 1024)) (BitVec.ofNat 5 (x / 32))))) <|
    minor (x % 32 = 12) (.ok (.plain (.minu (BitVec.ofNat 5 (x / 32768)) (BitVec.ofNat 5 (x / 1024)) (BitVec.ofNat 5 (x / 32))))) <|
    minor (x % 32 = 13) (.ok (.plain (.maxu (BitVec.ofNat 5 (x / 32768)) (BitVec.ofNat 5 (x / 1024)) (BitVec.ofNat 5 (x / 32))))) <|
    minor (x % 32 = 14) (.ok (.plain (.addsat (BitVec.ofNat 5 (x / 32768)) (BitVec.ofNat 5 (x / 1024)) (BitVec.ofNat 5 (x / 32))))) <|
    minor (x % 32 = 15) (.ok (.plain (.subsat (BitVec.ofNat 5 (x / 32768)) (BitVec.ofNat 5 (x / 1024)) (BitVec.ofNat 5 (x / 32))))) <|
    .error .minor
  | 0x02 =>
    minor (x % 32 = 0) (unless3 (x / 32 % 32 = 0) <| .ok (.plain (.mov (BitVec.ofNat 5 (x / 32768)) (BitVec.ofNat 5 (x / 1024))))) <|
    minor (x % 32 = 1) (unless3 (x / 32 % 32 = 0) <| .ok (.plain (.abs (BitVec.ofNat 5 (x / 32768)) (BitVec.ofNat 5 (x / 1024))))) <|
    minor (x % 32 = 2) (unless3 (x / 32 % 32 = 0) <| .ok (.plain (.clz (BitVec.ofNat 5 (x / 32768)) (BitVec.ofNat 5 (x / 1024))))) <|
    minor (x % 32 = 3) (unless3 (x / 32 % 32 = 0) <| .ok (.plain (.ctz (BitVec.ofNat 5 (x / 32768)) (BitVec.ofNat 5 (x / 1024))))) <|
    minor (x % 32 = 4) (unless3 (x / 32 % 32 = 0) <| .ok (.plain (.popc (BitVec.ofNat 5 (x / 32768)) (BitVec.ofNat 5 (x / 1024))))) <|
    minor (x % 32 = 5) (reserved (Size.ofCode5 (x / 32 % 32)) fun wc => .ok (.plain (.sext (BitVec.ofNat 5 (x / 32768)) (BitVec.ofNat 5 (x / 1024)) wc))) <|
    minor (x % 32 = 6) (reserved (Size.ofCode5 (x / 32 % 32)) fun wc => .ok (.plain (.zext (BitVec.ofNat 5 (x / 32768)) (BitVec.ofNat 5 (x / 1024)) wc))) <|
    .error .minor
  | 0x03 =>
    minor (x % 32 = 0) (.ok (.plain (.mul (BitVec.ofNat 5 (x / 32768)) (BitVec.ofNat 5 (x / 1024)) (BitVec.ofNat 5 (x / 32))))) <|
    minor (x % 32 = 1) (.ok (.plain (.mulh (BitVec.ofNat 5 (x / 32768)) (BitVec.ofNat 5 (x / 1024)) (BitVec.ofNat 5 (x / 32))))) <|
    minor (x % 32 = 2) (.ok (.plain (.mulhu (BitVec.ofNat 5 (x / 32768)) (BitVec.ofNat 5 (x / 1024)) (BitVec.ofNat 5 (x / 32))))) <|
    minor (x % 32 = 3) (.ok (.plain (.div (BitVec.ofNat 5 (x / 32768)) (BitVec.ofNat 5 (x / 1024)) (BitVec.ofNat 5 (x / 32))))) <|
    minor (x % 32 = 4) (.ok (.plain (.divu (BitVec.ofNat 5 (x / 32768)) (BitVec.ofNat 5 (x / 1024)) (BitVec.ofNat 5 (x / 32))))) <|
    minor (x % 32 = 5) (.ok (.plain (.rem (BitVec.ofNat 5 (x / 32768)) (BitVec.ofNat 5 (x / 1024)) (BitVec.ofNat 5 (x / 32))))) <|
    minor (x % 32 = 6) (.ok (.plain (.remu (BitVec.ofNat 5 (x / 32768)) (BitVec.ofNat 5 (x / 1024)) (BitVec.ofNat 5 (x / 32))))) <|
    .error .minor
  | 0x04 => unless3 (x / 8 % 4 = 0) <| .ok (.plain (.sel (BitVec.ofNat 5 (x / 32768)) (BitVec.ofNat 5 (x / 1024)) (BitVec.ofNat 5 (x / 32)) (BitVec.ofNat 3 x)))
  | 0x05 =>
    minor (x % 2 = 0) (unless3 (x / 2 % 16 = 0) <| .ok (.plain (.bfx (BitVec.ofNat 5 (x / 32768)) (BitVec.ofNat 5 (x / 1024)) (BitVec.ofNat 5 (x / 32))))) <|
    minor (x % 2 = 1) (unless3 (x / 2 % 16 = 0) <| .ok (.plain (.bfxSx (BitVec.ofNat 5 (x / 32768)) (BitVec.ofNat 5 (x / 1024)) (BitVec.ofNat 5 (x / 32))))) <|
    .error .minor
  | 0x06 => unless3 (x % 32 = 0) <| .ok (.plain (.bfi (BitVec.ofNat 5 (x / 32768)) (BitVec.ofNat 5 (x / 1024)) (BitVec.ofNat 5 (x / 32))))
  | 0x07 => unless3 (x / 8 % 4 = 0) <| .ok (.plain (.adds (BitVec.ofNat 5 (x / 32768)) (BitVec.ofNat 5 (x / 1024)) (BitVec.ofNat 5 (x / 32)) (BitVec.ofNat 3 x)))
  | 0x08 => .ok (.plain (.widx (BitVec.ofNat 5 (x / 32768)) (BitVec.ofNat 5 (x / 1024)) (BitVec.ofNat 10 x)))
  | 0x10 => .ok (.plain (.addImm (BitVec.ofNat 5 (x / 32768)) (BitVec.ofNat 5 (x / 1024)) (BitVec.ofNat 10 x)))
  | 0x11 => .ok (.plain (.andImm (BitVec.ofNat 5 (x / 32768)) (BitVec.ofNat 5 (x / 1024)) (BitVec.ofNat 10 x)))
  | 0x12 => .ok (.plain (.orImm (BitVec.ofNat 5 (x / 32768)) (BitVec.ofNat 5 (x / 1024)) (BitVec.ofNat 10 x)))
  | 0x13 => .ok (.plain (.xorImm (BitVec.ofNat 5 (x / 32768)) (BitVec.ofNat 5 (x / 1024)) (BitVec.ofNat 10 x)))
  | 0x14 => .ok (.plain (.shlImm (BitVec.ofNat 5 (x / 32768)) (BitVec.ofNat 5 (x / 1024)) (BitVec.ofNat 10 x)))
  | 0x15 => .ok (.plain (.shrImm (BitVec.ofNat 5 (x / 32768)) (BitVec.ofNat 5 (x / 1024)) (BitVec.ofNat 10 x)))
  | 0x16 => .ok (.plain (.sraImm (BitVec.ofNat 5 (x / 32768)) (BitVec.ofNat 5 (x / 1024)) (BitVec.ofNat 10 x)))
  | 0x17 => .ok (.plain (.rotImm (BitVec.ofNat 5 (x / 32768)) (BitVec.ofNat 5 (x / 1024)) (BitVec.ofNat 10 x)))
  | 0x18 => .ok (.plain (.minImm (BitVec.ofNat 5 (x / 32768)) (BitVec.ofNat 5 (x / 1024)) (BitVec.ofNat 10 x)))
  | 0x19 => .ok (.plain (.maxImm (BitVec.ofNat 5 (x / 32768)) (BitVec.ofNat 5 (x / 1024)) (BitVec.ofNat 10 x)))
  | 0x1A => .ok (.plain (.mulImm (BitVec.ofNat 5 (x / 32768)) (BitVec.ofNat 5 (x / 1024)) (BitVec.ofNat 10 x)))
  | 0x1C => .ok (.plain (.movi (BitVec.ofNat 5 (x / 32768)) (BitVec.ofNat 15 x)))
  | 0x1D => .ok (.plain (.movh (BitVec.ofNat 5 (x / 32768)) (BitVec.ofNat 15 x)))
  | 0x20 => reserved (code3 (x / 32768)) fun dc => reserved (Cond.ofCode (x % 32)) fun cc => .ok (.plain (.cmp dc (BitVec.ofNat 5 (x / 1024)) (BitVec.ofNat 5 (x / 32)) cc))
  | 0x21 =>
    minor (x % 32 = 0) (reserved (code3 (x / 32768)) fun dc => reserved (code3 (x / 1024 % 32)) fun ac => reserved (code3 (x / 32 % 32)) fun bc => .ok (.plain (.pand dc ac bc))) <|
    minor (x % 32 = 1) (reserved (code3 (x / 32768)) fun dc => reserved (code3 (x / 1024 % 32)) fun ac => reserved (code3 (x / 32 % 32)) fun bc => .ok (.plain (.por dc ac bc))) <|
    minor (x % 32 = 2) (reserved (code3 (x / 32768)) fun dc => reserved (code3 (x / 1024 % 32)) fun ac => reserved (code3 (x / 32 % 32)) fun bc => .ok (.plain (.pxor dc ac bc))) <|
    minor (x % 32 = 3) (unless3 (x / 32 % 32 = 0) <| reserved (code3 (x / 32768)) fun dc => reserved (code3 (x / 1024 % 32)) fun ac => .ok (.plain (.pnot dc ac))) <|
    minor (x % 32 = 4) (unless3 (x / 32 % 32 = 0) <| reserved (code3 (x / 32768)) fun dc => reserved (code3 (x / 1024 % 32)) fun ac => .ok (.plain (.pmov dc ac))) <|
    .error .minor
  | 0x28 =>
    minor (x % 32 = 0) (.ok (.plain (.fadd (BitVec.ofNat 5 (x / 32768)) (BitVec.ofNat 5 (x / 1024)) (BitVec.ofNat 5 (x / 32))))) <|
    minor (x % 32 = 1) (.ok (.plain (.fsub (BitVec.ofNat 5 (x / 32768)) (BitVec.ofNat 5 (x / 1024)) (BitVec.ofNat 5 (x / 32))))) <|
    minor (x % 32 = 2) (.ok (.plain (.fmul (BitVec.ofNat 5 (x / 32768)) (BitVec.ofNat 5 (x / 1024)) (BitVec.ofNat 5 (x / 32))))) <|
    minor (x % 32 = 3) (.ok (.plain (.ffma (BitVec.ofNat 5 (x / 32768)) (BitVec.ofNat 5 (x / 1024)) (BitVec.ofNat 5 (x / 32))))) <|
    minor (x % 32 = 4) (.ok (.plain (.fmin (BitVec.ofNat 5 (x / 32768)) (BitVec.ofNat 5 (x / 1024)) (BitVec.ofNat 5 (x / 32))))) <|
    minor (x % 32 = 5) (.ok (.plain (.fmax (BitVec.ofNat 5 (x / 32768)) (BitVec.ofNat 5 (x / 1024)) (BitVec.ofNat 5 (x / 32))))) <|
    minor (x % 32 = 6) (unless3 (x / 32 % 32 = 0) <| .ok (.plain (.fabs (BitVec.ofNat 5 (x / 32768)) (BitVec.ofNat 5 (x / 1024))))) <|
    minor (x % 32 = 7) (unless3 (x / 32 % 32 = 0) <| .ok (.plain (.fneg (BitVec.ofNat 5 (x / 32768)) (BitVec.ofNat 5 (x / 1024))))) <|
    minor (x % 32 = 8) (.ok (.plain (.fdiv (BitVec.ofNat 5 (x / 32768)) (BitVec.ofNat 5 (x / 1024)) (BitVec.ofNat 5 (x / 32))))) <|
    minor (x % 32 = 9) (unless3 (x / 32 % 32 = 0) <| .ok (.plain (.fsqrt (BitVec.ofNat 5 (x / 32768)) (BitVec.ofNat 5 (x / 1024))))) <|
    minor (x % 32 = 10) (unless3 (x / 32 % 32 = 0) <| .ok (.plain (.fclass (BitVec.ofNat 5 (x / 32768)) (BitVec.ofNat 5 (x / 1024))))) <|
    .error .minor
  | 0x29 => reserved (code3 (x / 32768)) fun dc => reserved (FCond.ofCode (x % 32)) fun cc => .ok (.plain (.fcmp dc (BitVec.ofNat 5 (x / 1024)) (BitVec.ofNat 5 (x / 32)) cc))
  | 0x2A =>
    minor (x / 2 % 2 = 0) (reserved (Fmt.ofCode (x / 32 % 32)) fun xc => reserved (Rnd.ofCode (x / 4 % 8)) fun cc => .ok (.plain (.fcvt (BitVec.ofNat 5 (x / 32768)) (BitVec.ofNat 5 (x / 1024)) xc cc (decide (x % 2 = 1))))) <|
    .error .minor
  | 0x30 => reserved (EW.ofCode (x % 4)) fun ec => .ok (.plain (.vadd (BitVec.ofNat 5 (x / 32768)) (BitVec.ofNat 5 (x / 1024)) (BitVec.ofNat 5 (x / 32)) (BitVec.ofNat 3 (x / 4)) ec))
  | 0x31 => reserved (EW.ofCode (x % 4)) fun ec => .ok (.plain (.vsub (BitVec.ofNat 5 (x / 32768)) (BitVec.ofNat 5 (x / 1024)) (BitVec.ofNat 5 (x / 32)) (BitVec.ofNat 3 (x / 4)) ec))
  | 0x32 => reserved (EW.ofCode (x % 4)) fun ec => .ok (.plain (.vmul (BitVec.ofNat 5 (x / 32768)) (BitVec.ofNat 5 (x / 1024)) (BitVec.ofNat 5 (x / 32)) (BitVec.ofNat 3 (x / 4)) ec))
  | 0x33 => reserved (EW.ofCode (x % 4)) fun ec => .ok (.plain (.vmulhI (BitVec.ofNat 5 (x / 32768)) (BitVec.ofNat 5 (x / 1024)) (BitVec.ofNat 5 (x / 32)) (BitVec.ofNat 3 (x / 4)) ec))
  | 0x34 => reserved (EW.ofCode (x % 4)) fun ec => .ok (.plain (.vmulhN (BitVec.ofNat 5 (x / 32768)) (BitVec.ofNat 5 (x / 1024)) (BitVec.ofNat 5 (x / 32)) (BitVec.ofNat 3 (x / 4)) ec))
  | 0x35 => .ok (.plain (.vmacI (BitVec.ofNat 5 (x / 32768)) (BitVec.ofNat 5 (x / 1024)) (BitVec.ofNat 5 (x / 32)) (BitVec.ofNat 3 (x / 4)) (BitVec.ofNat 2 x)))
  | 0x36 => .ok (.plain (.vmacN (BitVec.ofNat 5 (x / 32768)) (BitVec.ofNat 5 (x / 1024)) (BitVec.ofNat 5 (x / 32)) (BitVec.ofNat 3 (x / 4)) (BitVec.ofNat 2 x)))
  | 0x37 => unless4 (x % 4 = 2) <| .ok (.plain (.vdotI (BitVec.ofNat 5 (x / 32768)) (BitVec.ofNat 5 (x / 1024)) (BitVec.ofNat 5 (x / 32)) (BitVec.ofNat 3 (x / 4))))
  | 0x38 => unless4 (x % 4 = 2) <| .ok (.plain (.vdotN (BitVec.ofNat 5 (x / 32768)) (BitVec.ofNat 5 (x / 1024)) (BitVec.ofNat 5 (x / 32)) (BitVec.ofNat 3 (x / 4))))
  | 0x39 => reserved (EW.ofCode (x % 4)) fun ec => .ok (.plain (.vand (BitVec.ofNat 5 (x / 32768)) (BitVec.ofNat 5 (x / 1024)) (BitVec.ofNat 5 (x / 32)) (BitVec.ofNat 3 (x / 4)) ec))
  | 0x3A => reserved (EW.ofCode (x % 4)) fun ec => .ok (.plain (.vor (BitVec.ofNat 5 (x / 32768)) (BitVec.ofNat 5 (x / 1024)) (BitVec.ofNat 5 (x / 32)) (BitVec.ofNat 3 (x / 4)) ec))
  | 0x3B => reserved (EW.ofCode (x % 4)) fun ec => .ok (.plain (.vxor (BitVec.ofNat 5 (x / 32768)) (BitVec.ofNat 5 (x / 1024)) (BitVec.ofNat 5 (x / 32)) (BitVec.ofNat 3 (x / 4)) ec))
  | 0x3C => reserved (EW.ofCode (x % 4)) fun ec => .ok (.plain (.vshl (BitVec.ofNat 5 (x / 32768)) (BitVec.ofNat 5 (x / 1024)) (BitVec.ofNat 5 (x / 32)) (BitVec.ofNat 3 (x / 4)) ec))
  | 0x3D => reserved (EW.ofCode (x % 4)) fun ec => .ok (.plain (.vshr (BitVec.ofNat 5 (x / 32768)) (BitVec.ofNat 5 (x / 1024)) (BitVec.ofNat 5 (x / 32)) (BitVec.ofNat 3 (x / 4)) ec))
  | 0x3E => reserved (EW.ofCode (x % 4)) fun ec => .ok (.plain (.vsra (BitVec.ofNat 5 (x / 32768)) (BitVec.ofNat 5 (x / 1024)) (BitVec.ofNat 5 (x / 32)) (BitVec.ofNat 3 (x / 4)) ec))
  | 0x3F => reserved (EW.ofCode (x % 4)) fun ec => .ok (.plain (.vminI (BitVec.ofNat 5 (x / 32768)) (BitVec.ofNat 5 (x / 1024)) (BitVec.ofNat 5 (x / 32)) (BitVec.ofNat 3 (x / 4)) ec))
  | 0x40 => reserved (EW.ofCode (x % 4)) fun ec => .ok (.plain (.vminN (BitVec.ofNat 5 (x / 32768)) (BitVec.ofNat 5 (x / 1024)) (BitVec.ofNat 5 (x / 32)) (BitVec.ofNat 3 (x / 4)) ec))
  | 0x41 => reserved (EW.ofCode (x % 4)) fun ec => .ok (.plain (.vmaxI (BitVec.ofNat 5 (x / 32768)) (BitVec.ofNat 5 (x / 1024)) (BitVec.ofNat 5 (x / 32)) (BitVec.ofNat 3 (x / 4)) ec))
  | 0x42 => reserved (EW.ofCode (x % 4)) fun ec => .ok (.plain (.vmaxN (BitVec.ofNat 5 (x / 32768)) (BitVec.ofNat 5 (x / 1024)) (BitVec.ofNat 5 (x / 32)) (BitVec.ofNat 3 (x / 4)) ec))
  | 0x43 => unless3 (x / 32 % 32 = 0) <| reserved (EW.ofCode (x % 4)) fun ec => .ok (.plain (.vabs (BitVec.ofNat 5 (x / 32768)) (BitVec.ofNat 5 (x / 1024)) (BitVec.ofNat 3 (x / 4)) ec))
  | 0x44 => reserved (EW.ofCode (x % 4)) fun ec => .ok (.plain (.vaddsatI (BitVec.ofNat 5 (x / 32768)) (BitVec.ofNat 5 (x / 1024)) (BitVec.ofNat 5 (x / 32)) (BitVec.ofNat 3 (x / 4)) ec))
  | 0x45 => reserved (EW.ofCode (x % 4)) fun ec => .ok (.plain (.vaddsatN (BitVec.ofNat 5 (x / 32768)) (BitVec.ofNat 5 (x / 1024)) (BitVec.ofNat 5 (x / 32)) (BitVec.ofNat 3 (x / 4)) ec))
  | 0x46 => reserved (EW.ofCode (x % 4)) fun ec => .ok (.plain (.vsubsatI (BitVec.ofNat 5 (x / 32768)) (BitVec.ofNat 5 (x / 1024)) (BitVec.ofNat 5 (x / 32)) (BitVec.ofNat 3 (x / 4)) ec))
  | 0x47 => reserved (EW.ofCode (x % 4)) fun ec => .ok (.plain (.vsubsatN (BitVec.ofNat 5 (x / 32768)) (BitVec.ofNat 5 (x / 1024)) (BitVec.ofNat 5 (x / 32)) (BitVec.ofNat 3 (x / 4)) ec))
  | 0x48 => reserved (EW.ofCode (x % 4)) fun ec => .ok (.plain (.vrshrI (BitVec.ofNat 5 (x / 32768)) (BitVec.ofNat 5 (x / 1024)) (BitVec.ofNat 5 (x / 32)) (BitVec.ofNat 3 (x / 4)) ec))
  | 0x49 => reserved (EW.ofCode (x % 4)) fun ec => .ok (.plain (.vrshrN (BitVec.ofNat 5 (x / 32768)) (BitVec.ofNat 5 (x / 1024)) (BitVec.ofNat 5 (x / 32)) (BitVec.ofNat 3 (x / 4)) ec))
  | 0x4A => reserved (EW.ofCode (x % 4)) fun ec => .ok (.plain (.vclampI (BitVec.ofNat 5 (x / 32768)) (BitVec.ofNat 5 (x / 1024)) (BitVec.ofNat 5 (x / 32)) (BitVec.ofNat 3 (x / 4)) ec))
  | 0x4B => reserved (EW.ofCode (x % 4)) fun ec => .ok (.plain (.vclampN (BitVec.ofNat 5 (x / 32768)) (BitVec.ofNat 5 (x / 1024)) (BitVec.ofNat 5 (x / 32)) (BitVec.ofNat 3 (x / 4)) ec))
  | 0x4C => reserved (code3 (x / 32768)) fun dc => reserved (VCond.ofCode (x / 4 % 8)) fun cc => reserved (EW.ofCode (x % 4)) fun ec => .ok (.plain (.vcmpI dc (BitVec.ofNat 5 (x / 1024)) (BitVec.ofNat 5 (x / 32)) cc ec))
  | 0x4D => reserved (code3 (x / 32768)) fun dc => reserved (VCond.ofCode (x / 4 % 8)) fun cc => reserved (EW.ofCode (x % 4)) fun ec => .ok (.plain (.vcmpN dc (BitVec.ofNat 5 (x / 1024)) (BitVec.ofNat 5 (x / 32)) cc ec))
  | 0x50 => unless4 (x % 4 = 0) <| .ok (.plain (.vfadd (BitVec.ofNat 5 (x / 32768)) (BitVec.ofNat 5 (x / 1024)) (BitVec.ofNat 5 (x / 32)) (BitVec.ofNat 3 (x / 4))))
  | 0x51 => unless4 (x % 4 = 0) <| .ok (.plain (.vfsub (BitVec.ofNat 5 (x / 32768)) (BitVec.ofNat 5 (x / 1024)) (BitVec.ofNat 5 (x / 32)) (BitVec.ofNat 3 (x / 4))))
  | 0x52 => unless4 (x % 4 = 0) <| .ok (.plain (.vfmul (BitVec.ofNat 5 (x / 32768)) (BitVec.ofNat 5 (x / 1024)) (BitVec.ofNat 5 (x / 32)) (BitVec.ofNat 3 (x / 4))))
  | 0x53 => unless4 (x % 4 = 0) <| .ok (.plain (.vffma (BitVec.ofNat 5 (x / 32768)) (BitVec.ofNat 5 (x / 1024)) (BitVec.ofNat 5 (x / 32)) (BitVec.ofNat 3 (x / 4))))
  | 0x54 => unless4 (x % 4 = 0) <| .ok (.plain (.vfmin (BitVec.ofNat 5 (x / 32768)) (BitVec.ofNat 5 (x / 1024)) (BitVec.ofNat 5 (x / 32)) (BitVec.ofNat 3 (x / 4))))
  | 0x55 => unless4 (x % 4 = 0) <| .ok (.plain (.vfmax (BitVec.ofNat 5 (x / 32768)) (BitVec.ofNat 5 (x / 1024)) (BitVec.ofNat 5 (x / 32)) (BitVec.ofNat 3 (x / 4))))
  | 0x56 => unless3 (x / 32 % 32 = 0) <| unless4 (x % 4 = 0) <| .ok (.plain (.vfexp2 (BitVec.ofNat 5 (x / 32768)) (BitVec.ofNat 5 (x / 1024)) (BitVec.ofNat 3 (x / 4))))
  | 0x57 => unless3 (x / 32 % 32 = 0) <| unless4 (x % 4 = 0) <| .ok (.plain (.vflog2 (BitVec.ofNat 5 (x / 32768)) (BitVec.ofNat 5 (x / 1024)) (BitVec.ofNat 3 (x / 4))))
  | 0x58 => unless3 (x / 32 % 32 = 0) <| unless4 (x % 4 = 0) <| .ok (.plain (.vfrcp (BitVec.ofNat 5 (x / 32768)) (BitVec.ofNat 5 (x / 1024)) (BitVec.ofNat 3 (x / 4))))
  | 0x59 => unless3 (x / 32 % 32 = 0) <| unless4 (x % 4 = 0) <| .ok (.plain (.vfrsq (BitVec.ofNat 5 (x / 32768)) (BitVec.ofNat 5 (x / 1024)) (BitVec.ofNat 3 (x / 4))))
  | 0x60 => unless3 (x % 4 = 0 ∧ x / 32 % 32 = 0) <| .ok (.plain (.vmov (BitVec.ofNat 5 (x / 32768)) (BitVec.ofNat 5 (x / 1024)) (BitVec.ofNat 3 (x / 4))))
  | 0x61 => unless3 (x / 32 % 32 = 0) <| reserved (EW.ofCode (x % 4)) fun ec => .ok (.plain (.vsplat (BitVec.ofNat 5 (x / 32768)) (BitVec.ofNat 5 (x / 1024)) (BitVec.ofNat 3 (x / 4)) ec))
  | 0x62 => unless3 (x / 4 % 8 = 0) <| reserved (EW.ofCode (x % 4)) fun ec => .ok (.plain (.vext (BitVec.ofNat 5 (x / 32768)) (BitVec.ofNat 5 (x / 1024)) (BitVec.ofNat 5 (x / 32)) ec))
  | 0x63 => reserved (EW.ofCode (x % 4)) fun ec => .ok (.plain (.vins (BitVec.ofNat 5 (x / 32768)) (BitVec.ofNat 5 (x / 1024)) (BitVec.ofNat 5 (x / 32)) (BitVec.ofNat 3 (x / 4)) ec))
  | 0x64 => unless3 (x / 32 % 32 = 0) <| reserved (EW.ofCode (x % 4)) fun ec => .ok (.plain (.viota (BitVec.ofNat 5 (x / 32768)) (BitVec.ofNat 5 (x / 1024)) (BitVec.ofNat 3 (x / 4)) ec))
  | 0x65 => reserved (EW.ofCode (x % 4)) fun ec => .ok (.plain (.vperm (BitVec.ofNat 5 (x / 32768)) (BitVec.ofNat 5 (x / 1024)) (BitVec.ofNat 5 (x / 32)) (BitVec.ofNat 3 (x / 4)) ec))
  | 0x66 => reserved (EW.ofCode (x % 4)) fun ec => .ok (.plain (.vrot (BitVec.ofNat 5 (x / 32768)) (BitVec.ofNat 5 (x / 1024)) (BitVec.ofNat 5 (x / 32)) (BitVec.ofNat 3 (x / 4)) ec))
  | 0x67 => reserved (EW.ofCode (x % 4)) fun ec => .ok (.plain (.vslide (BitVec.ofNat 5 (x / 32768)) (BitVec.ofNat 5 (x / 1024)) (BitVec.ofNat 5 (x / 32)) (BitVec.ofNat 3 (x / 4)) ec))
  | 0x68 => reserved (EW.ofCode (x % 4)) fun ec => .ok (.plain (.vpack (BitVec.ofNat 5 (x / 32768)) (BitVec.ofNat 5 (x / 1024)) (BitVec.ofNat 5 (x / 32)) (BitVec.ofNat 3 (x / 4)) ec))
  | 0x69 => unless4 (x / 128 % 8 = 0) <| reserved (EW.ofCode (x % 4)) fun ec => .ok (.plain (.vunpk (BitVec.ofNat 5 (x / 32768)) (BitVec.ofNat 5 (x / 1024)) (decide (x / 64 % 2 = 1)) (decide (x / 32 % 2 = 1)) (BitVec.ofNat 3 (x / 4)) ec))
  | 0x6A => reserved (EW.ofCode (x % 4)) fun ec => .ok (.plain (.vred (BitVec.ofNat 5 (x / 32768)) (BitVec.ofNat 5 (x / 1024)) (BitVec.ofNat 5 (x / 32)) (BitVec.ofNat 3 (x / 4)) ec))
  | 0x6B => unless3 (x % 4 = 0) <| .ok (.plain (.vsel (BitVec.ofNat 5 (x / 32768)) (BitVec.ofNat 5 (x / 1024)) (BitVec.ofNat 5 (x / 32)) (BitVec.ofNat 3 (x / 4))))
  | 0x6C => unless3 (x % 32 = 0) <| reserved (code3 (x / 32768)) fun dc => reserved (code3 (x / 1024 % 32)) fun ac => reserved (code3 (x / 32 % 32)) fun bc => .ok (.plain (.mand dc ac bc))
  | 0x6D => unless3 (x % 32 = 0) <| reserved (code3 (x / 32768)) fun dc => reserved (code3 (x / 1024 % 32)) fun ac => reserved (code3 (x / 32 % 32)) fun bc => .ok (.plain (.mor dc ac bc))
  | 0x6E => unless3 (x % 32 = 0) <| reserved (code3 (x / 32768)) fun dc => reserved (code3 (x / 1024 % 32)) fun ac => reserved (code3 (x / 32 % 32)) fun bc => .ok (.plain (.mxor dc ac bc))
  | 0x6F => unless3 (x % 1024 = 0) <| reserved (code3 (x / 32768)) fun dc => reserved (code3 (x / 1024 % 32)) fun ac => .ok (.plain (.mnot dc ac))
  | 0x70 => unless3 (x % 1024 = 0) <| reserved (code3 (x / 1024 % 32)) fun ac => .ok (.plain (.mpop (BitVec.ofNat 5 (x / 32768)) ac))
  | 0x74 => reserved (Fmt.ofCode (x / 32 % 32)) fun xc => reserved (Rnd.ofCode (x / 4 % 8)) fun cc => .ok (.plain (.vcvt (BitVec.ofNat 5 (x / 32768)) (BitVec.ofNat 5 (x / 1024)) xc cc (decide (x / 2 % 2 = 1)) (decide (x % 2 = 1))))
  | 0x75 =>
    minor (x / 2 % 2 = 0) (reserved (Fmt.ofCode (x / 32 % 32)) fun xc => reserved (Rnd.ofCode (x / 4 % 8)) fun cc => .ok (.plain (.vcvts (BitVec.ofNat 5 (x / 32768)) (BitVec.ofNat 5 (x / 1024)) xc cc (decide (x % 2 = 1))))) <|
    .error .minor
  | 0x78 =>
    minor (x % 4 = 0) (unless3 (x / 4 % 8192 = 0) <| reserved (code3 (x / 32768)) fun dc => .ok (.plain (.accz dc))) <|
    .error .minor
  | 0x79 =>
    minor (x % 2 = 0) (unless3 (x / 4 % 256 = 0) <| reserved (code3 (x / 32768)) fun dc => .ok (.plain (.accw dc (BitVec.ofNat 5 (x / 1024)) (decide (x / 2 % 2 = 1))))) <|
    minor (x % 2 = 1) (unless3 (x / 4 % 8 = 0) <| reserved (code3 (x / 32768)) fun dc => .ok (.plain (.accwMul dc (BitVec.ofNat 5 (x / 1024)) (BitVec.ofNat 5 (x / 32)) (decide (x / 2 % 2 = 1))))) <|
    .error .minor
  | 0x7A =>
    minor (x % 2 = 0) (unless3 (x / 4 % 256 = 0) <| reserved (code3 (x / 32768)) fun dc => .ok (.plain (.accwv dc (BitVec.ofNat 5 (x / 1024)) (decide (x / 2 % 2 = 1))))) <|
    minor (x % 2 = 1) (unless3 (x / 4 % 8 = 0) <| reserved (code3 (x / 32768)) fun dc => .ok (.plain (.accwvMul dc (BitVec.ofNat 5 (x / 1024)) (BitVec.ofNat 5 (x / 32)) (decide (x / 2 % 2 = 1))))) <|
    .error .minor
  | 0x7B =>
    minor (x % 4 = 0) (unless3 (x / 32 % 32 = 0) <| reserved (code3 (x / 1024 % 32)) fun ac => reserved (Rnd.ofCode (x / 4 % 8)) fun cc => .ok (.plain (.accrd (BitVec.ofNat 5 (x / 32768)) ac cc))) <|
    .error .minor
  | 0x7C =>
    minor (x % 4 = 0) (unless3 (x / 4 % 8 = 0) <| reserved (code3 (x / 1024 % 32)) fun ac => .ok (.plain (.accrw (BitVec.ofNat 5 (x / 32768)) ac (BitVec.ofNat 5 (x / 32))))) <|
    minor (x % 4 = 1) (unless3 (x / 4 % 256 = 0) <| reserved (code3 (x / 1024 % 32)) fun ac => .ok (.plain (.accrwX (BitVec.ofNat 5 (x / 32768)) ac))) <|
    minor (x % 4 = 2) (unless3 (x / 4 % 8 = 0) <| reserved (code3 (x / 1024 % 32)) fun ac => .ok (.plain (.accrwSt (BitVec.ofNat 5 (x / 32768)) ac (BitVec.ofNat 5 (x / 32))))) <|
    minor (x % 4 = 3) (unless3 (x / 4 % 256 = 0) <| reserved (code3 (x / 1024 % 32)) fun ac => .ok (.plain (.accrwStx (BitVec.ofNat 5 (x / 32768)) ac))) <|
    .error .minor
  | _ => .error .major

/-- The range and code checks that stand behind the field patterns. -/
def checkWF (d : Decoded) : Except Reason Decoded :=
  match d with
  | .late l => .ok (.late l)
  | .plain i => if i.rangeOk then if i.codesOk then .ok (.plain i) else .error .code else .error .field

/-- The class bit K, the major opcode and bits 19:0 of a word (R19). -/
def decodeParts (k : Bool) (op x : Nat) : Except Reason Decoded :=
  (if k then rawAR op x else rawCM op x) >>= checkWF

/-- What a word's header says beside the operation (R19): the lone bit L, the class K and the stall count S. -/
structure Header where
  lone : Bool
  ar : Bool
  stall : Nat
deriving DecidableEq, Repr

/-- The header of a 32-bit word. -/
def headerOf (w : Nat) : Header :=
  { lone := decide (w / 2147483648 % 2 = 1), ar := decide (w / 1073741824 % 2 = 1), stall := w / 134217728 % 8 }

/-- The instruction of a 32-bit word, its L and S bits aside. -/
def decodeWord (w : Nat) : Except Reason Decoded :=
  decodeParts (decide (w / 1073741824 % 2 = 1)) (w / 1048576 % 128) (w % 1048576)

/-- The instruction of a table row's word: rows are one 32-bit word (R19). -/
noncomputable def decodeTableWord (nbits w : Nat) : Option Instr :=
  if nbits ≤ 32 then (decodeWord (w % 4294967296)).toOption.map Decoded.instr else none

/-! The encoder, from the same tables. -/

/-- Class bit, major opcode and bits 19:0 of an instruction; an event has no encoding. -/
def Instr.parts : Instr → Option (Bool × Nat × Nat)
  | .nop => some (false, 0x01, 0)
  | .br i => some (false, 0x02, i.toNat)
  | .brp a i => some (false, 0x03, a.toNat * 32768 + i.toNat)
  | .brz a i => some (false, 0x04, a.toNat * 32768 + i.toNat)
  | .bnz a i => some (false, 0x05, a.toNat * 32768 + i.toNat)
  | .bri a => some (false, 0x06, a.toNat * 1024)
  | .call a i => some (false, 0x07, a.toNat * 32768 + i.toNat)
  | .calli d a => some (false, 0x08, d.toNat * 32768 + a.toNat * 1024)
  | .ret a => some (false, 0x09, a.toNat * 1024)
  | .loop a i => some (false, 0x0A, a.toNat * 32768 + i.toNat)
  | .lexit i => some (false, 0x0B, i.toNat)
  | .done => some (false, 0x0C, 0)
  | .yield k => some (false, 0x0D, k.toNat * 8)
  | .start d a b p => some (false, 0x0E, d.toNat * 32768 + a.toNat * 1024 + b.toNat * 32 + p.toNat)
  | .join a => some (false, 0x0F, a.toNat * 1024)
  | .spawn d a b => some (false, 0x10, d.toNat * 32768 + a.toNat * 1024 + b.toNat * 32)
  | .trap k => some (false, 0x11, k.toNat * 8)
  | .bkpt k => some (false, 0x12, k.toNat * 8)
  | .evrd d => some (false, 0x13, d.toNat * 32768)
  | .evrdPeek d => some (false, 0x13, d.toNat * 32768 + 1)
  | .send n a b => some (false, 0x14, n.toNat % 32 * 32768 + n.toNat / 32 + a.toNat * 1024 + b.toNat * 32)
  | .sendv n a b => some (false, 0x15, n.toNat % 32 * 32768 + n.toNat / 32 + a.toNat * 1024 + b.toNat * 32)
  | .recv d k => some (false, 0x16, d.toNat * 32768 + k.toNat * 8)
  | .recvv d k => some (false, 0x17, d.toNat * 32768 + k.toNat * 8)
  | .openAct => some (false, 0x18, 0)
  | .hset d k => some (false, 0x19, d.toNat * 32768 + k.toNat * 8)
  | .hmaskOn k => some (false, 0x1A, k.toNat * 8)
  | .hmaskOff k => some (false, 0x1A, k.toNat * 8 + 1)
  | .ld d a m z o => some (false, 0x20, d.toNat * 32768 + a.toNat * 1024 + m.code * 256 + z.code * 64 + o.toNat)
  | .ldSx d a m z o => some (false, 0x21, d.toNat * 32768 + a.toNat * 1024 + m.code * 256 + z.code * 64 + o.toNat)
  | .st d a m z o => some (false, 0x22, d.toNat * 32768 + a.toNat * 1024 + m.code * 256 + z.code * 64 + o.toNat)
  | .vld d a m o => some (false, 0x23, d.toNat * 32768 + a.toNat * 1024 + m.code * 256 + o.toNat + 192)
  | .vst d a m o => some (false, 0x24, d.toNat * 32768 + a.toNat * 1024 + m.code * 256 + o.toNat + 192)
  | .vlds d a b e m => some (false, 0x25, d.toNat * 32768 + a.toNat * 1024 + b.toNat * 32 + e.code * 4 + m.code)
  | .vsts d a b e m => some (false, 0x26, d.toNat * 32768 + a.toNat * 1024 + b.toNat * 32 + e.code * 4 + m.code)
  | .vldx d a b e m => some (false, 0x27, d.toNat * 32768 + a.toNat * 1024 + b.toNat * 32 + e.code * 4 + m.code)
  | .vstx d a b e m => some (false, 0x28, d.toNat * 32768 + a.toNat * 1024 + b.toNat * 32 + e.code * 4 + m.code)
  | .ldfTake d a o => some (false, 0x29, d.toNat * 32768 + a.toNat * 1024 + o.toNat)
  | .ldfKeep d a o => some (false, 0x29, d.toNat * 32768 + a.toNat * 1024 + o.toNat + 64)
  | .ste d a m o => some (false, 0x2A, d.toNat * 32768 + a.toNat * 1024 + m.code * 256 + o.toNat + 192)
  | .tags a b => some (false, 0x2B, a.toNat * 1024 + b.toNat * 32)
  | .tagsV a b => some (false, 0x2B, a.toNat * 1024 + b.toNat * 32 + 1)
  | .tagr d a => some (false, 0x2C, d.toNat * 32768 + a.toNat * 1024)
  | .tagrV d a => some (false, 0x2C, d.toNat * 32768 + a.toNat * 1024 + 1)
  | .bread n a b m => some (false, 0x2D, n.toNat % 32 * 32768 + n.toNat / 32 + a.toNat * 1024 + b.toNat * 32 + m.code * 2)
  | .amoAdd d a b c => some (false, 0x30, d.toNat * 32768 + a.toNat * 1024 + b.toNat * 32 + c.code)
  | .amoAnd d a b c => some (false, 0x30, d.toNat * 32768 + a.toNat * 1024 + b.toNat * 32 + c.code + 4)
  | .amoOr d a b c => some (false, 0x30, d.toNat * 32768 + a.toNat * 1024 + b.toNat * 32 + c.code + 8)
  | .amoXor d a b c => some (false, 0x30, d.toNat * 32768 + a.toNat * 1024 + b.toNat * 32 + c.code + 12)
  | .amoMin d a b c => some (false, 0x30, d.toNat * 32768 + a.toNat * 1024 + b.toNat * 32 + c.code + 16)
  | .amoMax d a b c => some (false, 0x30, d.toNat * 32768 + a.toNat * 1024 + b.toNat * 32 + c.code + 20)
  | .amoMinu d a b c => some (false, 0x30, d.toNat * 32768 + a.toNat * 1024 + b.toNat * 32 + c.code + 24)
  | .amoMaxu d a b c => some (false, 0x30, d.toNat * 32768 + a.toNat * 1024 + b.toNat * 32 + c.code + 28)
  | .cas d a b c => some (false, 0x31, d.toNat * 32768 + a.toNat * 1024 + b.toNat * 32 + c.code)
  | .casXchg d a b c => some (false, 0x31, d.toNat * 32768 + a.toNat * 1024 + b.toNat * 32 + c.code + 4)
  | .famoFadd d a b c => some (false, 0x32, d.toNat * 32768 + a.toNat * 1024 + b.toNat * 32 + c.code)
  | .famoFmin d a b c => some (false, 0x32, d.toNat * 32768 + a.toNat * 1024 + b.toNat * 32 + c.code + 4)
  | .famoFmax d a b c => some (false, 0x32, d.toNat * 32768 + a.toNat * 1024 + b.toNat * 32 + c.code + 8)
  | .fence c => some (false, 0x33, c.code)
  | .rel c => some (false, 0x34, c.code)
  | .acq c => some (false, 0x35, c.code)
  | .town n => some (false, 0x38, n.toNat * 1024)
  | .townKeep n => some (false, 0x38, n.toNat * 1024 + 1)
  | .tfree n => some (false, 0x39, n.toNat * 1024)
  | .tseek n i => some (false, 0x3A, n.toNat * 1024 + i.toNat * 4)
  | .tseekReg a n => some (false, 0x3A, a.toNat * 32768 + n.toNat * 1024 + 1)
  | .tstep n i => some (false, 0x3B, n.toNat * 1024 + i.toNat * 4)
  | .tstepReg a n => some (false, 0x3B, a.toNat * 32768 + n.toNat * 1024 + 1)
  | .trew n => some (false, 0x3C, n.toNat * 1024)
  | .trd d n p => some (false, 0x3D, d.toNat * 32768 + n.toNat * 1024 + (if p then 1 else 0))
  | .trds d n i p => some (false, 0x3E, d.toNat * 32768 + n.toNat * 1024 + i.toNat * 4 + (if p then 1 else 0))
  | .twr d n p => some (false, 0x3F, d.toNat * 32768 + n.toNat * 1024 + (if p then 1 else 0))
  | .twrs d n i p => some (false, 0x40, d.toNat * 32768 + n.toNat * 1024 + i.toNat * 4 + (if p then 1 else 0))
  | .twait n => some (false, 0x41, n.toNat * 1024)
  | .thead d n => some (false, 0x42, d.toNat * 32768 + n.toNat * 1024)
  | .talign n => some (false, 0x43, n.toNat * 1024)
  | .tshare n => some (false, 0x44, n.toNat * 1024)
  | .tshareOff n => some (false, 0x44, n.toNat * 1024 + 1)
  | .rrot d a b => some (false, 0x48, d.toNat * 32768 + a.toNat * 1024 + b.toNat * 32)
  | .invoke d a b v => some (false, 0x49, d.toNat * 32768 + a.toNat * 1024 + b.toNat * 32 + v.toNat)
  | .invokeRetry d a b v => some (false, 0x49, d.toNat * 32768 + a.toNat * 1024 + b.toNat * 32 + v.toNat + 4)
  | .grprd d a => some (false, 0x4A, d.toNat * 32768 + a.toNat * 1024)
  | .hgrant a => some (false, 0x4B, a.toNat * 1024)
  | .hrevoke => some (false, 0x4C, 0)
  | .qw d => some (false, 0x50, d.toNat * 32768)
  | .qwv d c => some (false, 0x51, d.toNat * 32768 + c.toNat * 4 + 1024)
  | .qr d => some (false, 0x52, d.toNat * 32768 + 3072)
  | .qrv d => some (false, 0x53, d.toNat * 32768 + 2048)
  | .qst d n => some (false, 0x54, d.toNat * 32768 + n.toNat * 1024)
  | .mlease d n i => some (false, 0x55, d.toNat * 32768 + n.toNat * 1024 + i.toNat * 4)
  | .mfree n => some (false, 0x56, n.toNat * 1024)
  | .mma d a b => some (false, 0x57, d.toNat * 32768 + a.toNat * 128 + b.toNat * 8)
  | .mset => some (false, 0x58, 0)
  | .xld a => some (false, 0x60, a.toNat * 1024)
  | .xwait d a => some (false, 0x61, d.toNat * 32768 + a.toNat * 1024)
  | .xcan a => some (false, 0x62, a.toNat * 1024)
  | .xst a => some (false, 0x63, a.toNat * 1024)
  | .bars i => some (false, 0x68, i.toNat * 4)
  | .barw i => some (false, 0x69, i.toNat * 4)
  | .bari a i => some (false, 0x6A, a.toNat * 32768 + i.toNat * 4)
  | .specq d i => some (false, 0x6B, d.toNat * 32768 + i.toNat * 4)
  | .specqSelf d => some (false, 0x6B, d.toNat * 32768 + 1)
  | .task a b => some (false, 0x6C, a.toNat * 1024 + b.toNat * 32)
  | .tsnow d => some (false, 0x6D, d.toNat * 32768)
  | .tsnowHz d => some (false, 0x6D, d.toNat * 32768 + 1)
  | .glaunch d a => some (false, 0x6E, d.toNat * 32768 + a.toNat * 1024)
  | .gdone a => some (false, 0x6F, a.toNat * 1024)
  | .mtc d k => some (false, 0x70, d.toNat * 32768 + k.toNat * 8)
  | .mfc d k => some (false, 0x71, d.toNat * 32768 + k.toNat * 8)
  | .xgo d => some (false, 0x71, d.toNat * 32768 + 80)
  | .setwp a => some (false, 0x72, a.toNat * 32768)
  | .csave a k => some (false, 0x73, a.toNat * 32768 + k.toNat * 8)
  | .crest a k => some (false, 0x74, a.toNat * 32768 + k.toNat * 8)
  | .ctxkStop k => some (false, 0x75, k.toNat * 8)
  | .ctxkGo k => some (false, 0x75, k.toNat * 8 + 1)
  | .ctxkKill k => some (false, 0x75, k.toNat * 8 + 2)
  | .eret => some (false, 0x76, 0)
  | .halt c => some (false, 0x77, c.toNat * 32768)
  | .haltBounce c => some (false, 0x77, c.toNat * 32768 + 1)
  | .haltOff c => some (false, 0x77, c.toNat * 32768 + 2)
  | .scan d => some (false, 0x78, d.toNat * 32768)
  | .cmap a => some (false, 0x79, a.toNat * 32768)
  | .stinvPage a k => some (false, 0x7A, a.toNat * 32768 + k.toNat * 8)
  | .stinvPid a k => some (false, 0x7A, a.toNat * 32768 + k.toNat * 8 + 1)
  | .stinvAll k => some (false, 0x7A, k.toNat * 8 + 2)
  | .keyld a k => some (false, 0x7B, a.toNat * 32768 + k.toNat * 8)
  | .keyldClr k => some (false, 0x7B, k.toNat * 8 + 1)
  | .perfqSum d c e => some (false, 0x7C, d.toNat * 32768 + c.toNat * 512 + e.toNat * 8)
  | .perfqMin d c e => some (false, 0x7C, d.toNat * 32768 + c.toNat * 512 + e.toNat * 8 + 1)
  | .perfqMax d c e => some (false, 0x7C, d.toNat * 32768 + c.toNat * 512 + e.toNat * 8 + 2)
  | .trarm a => some (false, 0x7D, a.toNat * 32768)
  | .trarmOff => some (false, 0x7D, 1)
  | .trarmStop => some (false, 0x7D, 2)
  | .add d a b => some (true, 0x01, d.toNat * 32768 + a.toNat * 1024 + b.toNat * 32)
  | .sub d a b => some (true, 0x01, d.toNat * 32768 + a.toNat * 1024 + b.toNat * 32 + 1)
  | .and d a b => some (true, 0x01, d.toNat * 32768 + a.toNat * 1024 + b.toNat * 32 + 2)
  | .or d a b => some (true, 0x01, d.toNat * 32768 + a.toNat * 1024 + b.toNat * 32 + 3)
  | .xor d a b => some (true, 0x01, d.toNat * 32768 + a.toNat * 1024 + b.toNat * 32 + 4)
  | .andn d a b => some (true, 0x01, d.toNat * 32768 + a.toNat * 1024 + b.toNat * 32 + 5)
  | .shl d a b => some (true, 0x01, d.toNat * 32768 + a.toNat * 1024 + b.toNat * 32 + 6)
  | .shr d a b => some (true, 0x01, d.toNat * 32768 + a.toNat * 1024 + b.toNat * 32 + 7)
  | .sra d a b => some (true, 0x01, d.toNat * 32768 + a.toNat * 1024 + b.toNat * 32 + 8)
  | .rot d a b => some (true, 0x01, d.toNat * 32768 + a.toNat * 1024 + b.toNat * 32 + 9)
  | .min d a b => some (true, 0x01, d.toNat * 32768 + a.toNat * 1024 + b.toNat * 32 + 10)
  | .max d a b => some (true, 0x01, d.toNat * 32768 + a.toNat * 1024 + b.toNat * 32 + 11)
  | .minu d a b => some (true, 0x01, d.toNat * 32768 + a.toNat * 1024 + b.toNat * 32 + 12)
  | .maxu d a b => some (true, 0x01, d.toNat * 32768 + a.toNat * 1024 + b.toNat * 32 + 13)
  | .addsat d a b => some (true, 0x01, d.toNat * 32768 + a.toNat * 1024 + b.toNat * 32 + 14)
  | .subsat d a b => some (true, 0x01, d.toNat * 32768 + a.toNat * 1024 + b.toNat * 32 + 15)
  | .mov d a => some (true, 0x02, d.toNat * 32768 + a.toNat * 1024)
  | .abs d a => some (true, 0x02, d.toNat * 32768 + a.toNat * 1024 + 1)
  | .clz d a => some (true, 0x02, d.toNat * 32768 + a.toNat * 1024 + 2)
  | .ctz d a => some (true, 0x02, d.toNat * 32768 + a.toNat * 1024 + 3)
  | .popc d a => some (true, 0x02, d.toNat * 32768 + a.toNat * 1024 + 4)
  | .sext d a w => some (true, 0x02, d.toNat * 32768 + a.toNat * 1024 + w.code * 32 + 5)
  | .zext d a w => some (true, 0x02, d.toNat * 32768 + a.toNat * 1024 + w.code * 32 + 6)
  | .mul d a b => some (true, 0x03, d.toNat * 32768 + a.toNat * 1024 + b.toNat * 32)
  | .mulh d a b => some (true, 0x03, d.toNat * 32768 + a.toNat * 1024 + b.toNat * 32 + 1)
  | .mulhu d a b => some (true, 0x03, d.toNat * 32768 + a.toNat * 1024 + b.toNat * 32 + 2)
  | .div d a b => some (true, 0x03, d.toNat * 32768 + a.toNat * 1024 + b.toNat * 32 + 3)
  | .divu d a b => some (true, 0x03, d.toNat * 32768 + a.toNat * 1024 + b.toNat * 32 + 4)
  | .rem d a b => some (true, 0x03, d.toNat * 32768 + a.toNat * 1024 + b.toNat * 32 + 5)
  | .remu d a b => some (true, 0x03, d.toNat * 32768 + a.toNat * 1024 + b.toNat * 32 + 6)
  | .sel d a b p => some (true, 0x04, d.toNat * 32768 + a.toNat * 1024 + b.toNat * 32 + p.toNat)
  | .bfx d a b => some (true, 0x05, d.toNat * 32768 + a.toNat * 1024 + b.toNat * 32)
  | .bfxSx d a b => some (true, 0x05, d.toNat * 32768 + a.toNat * 1024 + b.toNat * 32 + 1)
  | .bfi d a b => some (true, 0x06, d.toNat * 32768 + a.toNat * 1024 + b.toNat * 32)
  | .adds d a b h => some (true, 0x07, d.toNat * 32768 + a.toNat * 1024 + b.toNat * 32 + h.toNat)
  | .widx d a i => some (true, 0x08, d.toNat * 32768 + a.toNat * 1024 + i.toNat)
  | .addImm d a i => some (true, 0x10, d.toNat * 32768 + a.toNat * 1024 + i.toNat)
  | .andImm d a i => some (true, 0x11, d.toNat * 32768 + a.toNat * 1024 + i.toNat)
  | .orImm d a i => some (true, 0x12, d.toNat * 32768 + a.toNat * 1024 + i.toNat)
  | .xorImm d a i => some (true, 0x13, d.toNat * 32768 + a.toNat * 1024 + i.toNat)
  | .shlImm d a i => some (true, 0x14, d.toNat * 32768 + a.toNat * 1024 + i.toNat)
  | .shrImm d a i => some (true, 0x15, d.toNat * 32768 + a.toNat * 1024 + i.toNat)
  | .sraImm d a i => some (true, 0x16, d.toNat * 32768 + a.toNat * 1024 + i.toNat)
  | .rotImm d a i => some (true, 0x17, d.toNat * 32768 + a.toNat * 1024 + i.toNat)
  | .minImm d a i => some (true, 0x18, d.toNat * 32768 + a.toNat * 1024 + i.toNat)
  | .maxImm d a i => some (true, 0x19, d.toNat * 32768 + a.toNat * 1024 + i.toNat)
  | .mulImm d a i => some (true, 0x1A, d.toNat * 32768 + a.toNat * 1024 + i.toNat)
  | .movi d i => some (true, 0x1C, d.toNat * 32768 + i.toNat)
  | .movh d i => some (true, 0x1D, d.toNat * 32768 + i.toNat)
  | .cmp d a b c => some (true, 0x20, d.toNat * 32768 + a.toNat * 1024 + b.toNat * 32 + c.code)
  | .pand d a b => some (true, 0x21, d.toNat * 32768 + a.toNat * 1024 + b.toNat * 32)
  | .por d a b => some (true, 0x21, d.toNat * 32768 + a.toNat * 1024 + b.toNat * 32 + 1)
  | .pxor d a b => some (true, 0x21, d.toNat * 32768 + a.toNat * 1024 + b.toNat * 32 + 2)
  | .pnot d a => some (true, 0x21, d.toNat * 32768 + a.toNat * 1024 + 3)
  | .pmov d a => some (true, 0x21, d.toNat * 32768 + a.toNat * 1024 + 4)
  | .fadd d a b => some (true, 0x28, d.toNat * 32768 + a.toNat * 1024 + b.toNat * 32)
  | .fsub d a b => some (true, 0x28, d.toNat * 32768 + a.toNat * 1024 + b.toNat * 32 + 1)
  | .fmul d a b => some (true, 0x28, d.toNat * 32768 + a.toNat * 1024 + b.toNat * 32 + 2)
  | .ffma d a b => some (true, 0x28, d.toNat * 32768 + a.toNat * 1024 + b.toNat * 32 + 3)
  | .fmin d a b => some (true, 0x28, d.toNat * 32768 + a.toNat * 1024 + b.toNat * 32 + 4)
  | .fmax d a b => some (true, 0x28, d.toNat * 32768 + a.toNat * 1024 + b.toNat * 32 + 5)
  | .fabs d a => some (true, 0x28, d.toNat * 32768 + a.toNat * 1024 + 6)
  | .fneg d a => some (true, 0x28, d.toNat * 32768 + a.toNat * 1024 + 7)
  | .fdiv d a b => some (true, 0x28, d.toNat * 32768 + a.toNat * 1024 + b.toNat * 32 + 8)
  | .fsqrt d a => some (true, 0x28, d.toNat * 32768 + a.toNat * 1024 + 9)
  | .fclass d a => some (true, 0x28, d.toNat * 32768 + a.toNat * 1024 + 10)
  | .fcmp d a b c => some (true, 0x29, d.toNat * 32768 + a.toNat * 1024 + b.toNat * 32 + c.code)
  | .fcvt d a x c r => some (true, 0x2A, d.toNat * 32768 + a.toNat * 1024 + x.code * 32 + c.code * 4 + (if r then 1 else 0))
  | .vadd d a b m e => some (true, 0x30, d.toNat * 32768 + a.toNat * 1024 + b.toNat * 32 + m.toNat * 4 + e.code)
  | .vsub d a b m e => some (true, 0x31, d.toNat * 32768 + a.toNat * 1024 + b.toNat * 32 + m.toNat * 4 + e.code)
  | .vmul d a b m e => some (true, 0x32, d.toNat * 32768 + a.toNat * 1024 + b.toNat * 32 + m.toNat * 4 + e.code)
  | .vmulhI d a b m e => some (true, 0x33, d.toNat * 32768 + a.toNat * 1024 + b.toNat * 32 + m.toNat * 4 + e.code)
  | .vmulhN d a b m e => some (true, 0x34, d.toNat * 32768 + a.toNat * 1024 + b.toNat * 32 + m.toNat * 4 + e.code)
  | .vmacI d a b m g => some (true, 0x35, d.toNat * 32768 + a.toNat * 1024 + b.toNat * 32 + m.toNat * 4 + g.toNat)
  | .vmacN d a b m g => some (true, 0x36, d.toNat * 32768 + a.toNat * 1024 + b.toNat * 32 + m.toNat * 4 + g.toNat)
  | .vdotI d a b m => some (true, 0x37, d.toNat * 32768 + a.toNat * 1024 + b.toNat * 32 + m.toNat * 4 + 2)
  | .vdotN d a b m => some (true, 0x38, d.toNat * 32768 + a.toNat * 1024 + b.toNat * 32 + m.toNat * 4 + 2)
  | .vand d a b m e => some (true, 0x39, d.toNat * 32768 + a.toNat * 1024 + b.toNat * 32 + m.toNat * 4 + e.code)
  | .vor d a b m e => some (true, 0x3A, d.toNat * 32768 + a.toNat * 1024 + b.toNat * 32 + m.toNat * 4 + e.code)
  | .vxor d a b m e => some (true, 0x3B, d.toNat * 32768 + a.toNat * 1024 + b.toNat * 32 + m.toNat * 4 + e.code)
  | .vshl d a b m e => some (true, 0x3C, d.toNat * 32768 + a.toNat * 1024 + b.toNat * 32 + m.toNat * 4 + e.code)
  | .vshr d a b m e => some (true, 0x3D, d.toNat * 32768 + a.toNat * 1024 + b.toNat * 32 + m.toNat * 4 + e.code)
  | .vsra d a b m e => some (true, 0x3E, d.toNat * 32768 + a.toNat * 1024 + b.toNat * 32 + m.toNat * 4 + e.code)
  | .vminI d a b m e => some (true, 0x3F, d.toNat * 32768 + a.toNat * 1024 + b.toNat * 32 + m.toNat * 4 + e.code)
  | .vminN d a b m e => some (true, 0x40, d.toNat * 32768 + a.toNat * 1024 + b.toNat * 32 + m.toNat * 4 + e.code)
  | .vmaxI d a b m e => some (true, 0x41, d.toNat * 32768 + a.toNat * 1024 + b.toNat * 32 + m.toNat * 4 + e.code)
  | .vmaxN d a b m e => some (true, 0x42, d.toNat * 32768 + a.toNat * 1024 + b.toNat * 32 + m.toNat * 4 + e.code)
  | .vabs d a m e => some (true, 0x43, d.toNat * 32768 + a.toNat * 1024 + m.toNat * 4 + e.code)
  | .vaddsatI d a b m e => some (true, 0x44, d.toNat * 32768 + a.toNat * 1024 + b.toNat * 32 + m.toNat * 4 + e.code)
  | .vaddsatN d a b m e => some (true, 0x45, d.toNat * 32768 + a.toNat * 1024 + b.toNat * 32 + m.toNat * 4 + e.code)
  | .vsubsatI d a b m e => some (true, 0x46, d.toNat * 32768 + a.toNat * 1024 + b.toNat * 32 + m.toNat * 4 + e.code)
  | .vsubsatN d a b m e => some (true, 0x47, d.toNat * 32768 + a.toNat * 1024 + b.toNat * 32 + m.toNat * 4 + e.code)
  | .vrshrI d a b m e => some (true, 0x48, d.toNat * 32768 + a.toNat * 1024 + b.toNat * 32 + m.toNat * 4 + e.code)
  | .vrshrN d a b m e => some (true, 0x49, d.toNat * 32768 + a.toNat * 1024 + b.toNat * 32 + m.toNat * 4 + e.code)
  | .vclampI d a b m e => some (true, 0x4A, d.toNat * 32768 + a.toNat * 1024 + b.toNat * 32 + m.toNat * 4 + e.code)
  | .vclampN d a b m e => some (true, 0x4B, d.toNat * 32768 + a.toNat * 1024 + b.toNat * 32 + m.toNat * 4 + e.code)
  | .vcmpI d a x c e => some (true, 0x4C, d.toNat * 32768 + a.toNat * 1024 + x.toNat * 32 + c.code * 4 + e.code)
  | .vcmpN d a x c e => some (true, 0x4D, d.toNat * 32768 + a.toNat * 1024 + x.toNat * 32 + c.code * 4 + e.code)
  | .vfadd d a b m => some (true, 0x50, d.toNat * 32768 + a.toNat * 1024 + b.toNat * 32 + m.toNat * 4)
  | .vfsub d a b m => some (true, 0x51, d.toNat * 32768 + a.toNat * 1024 + b.toNat * 32 + m.toNat * 4)
  | .vfmul d a b m => some (true, 0x52, d.toNat * 32768 + a.toNat * 1024 + b.toNat * 32 + m.toNat * 4)
  | .vffma d a b m => some (true, 0x53, d.toNat * 32768 + a.toNat * 1024 + b.toNat * 32 + m.toNat * 4)
  | .vfmin d a b m => some (true, 0x54, d.toNat * 32768 + a.toNat * 1024 + b.toNat * 32 + m.toNat * 4)
  | .vfmax d a b m => some (true, 0x55, d.toNat * 32768 + a.toNat * 1024 + b.toNat * 32 + m.toNat * 4)
  | .vfexp2 d a m => some (true, 0x56, d.toNat * 32768 + a.toNat * 1024 + m.toNat * 4)
  | .vflog2 d a m => some (true, 0x57, d.toNat * 32768 + a.toNat * 1024 + m.toNat * 4)
  | .vfrcp d a m => some (true, 0x58, d.toNat * 32768 + a.toNat * 1024 + m.toNat * 4)
  | .vfrsq d a m => some (true, 0x59, d.toNat * 32768 + a.toNat * 1024 + m.toNat * 4)
  | .vmov d a m => some (true, 0x60, d.toNat * 32768 + a.toNat * 1024 + m.toNat * 4)
  | .vsplat d a m e => some (true, 0x61, d.toNat * 32768 + a.toNat * 1024 + m.toNat * 4 + e.code)
  | .vext d a b e => some (true, 0x62, d.toNat * 32768 + a.toNat * 1024 + b.toNat * 32 + e.code)
  | .vins d a b m e => some (true, 0x63, d.toNat * 32768 + a.toNat * 1024 + b.toNat * 32 + m.toNat * 4 + e.code)
  | .viota d a m e => some (true, 0x64, d.toNat * 32768 + a.toNat * 1024 + m.toNat * 4 + e.code)
  | .vperm d a b m e => some (true, 0x65, d.toNat * 32768 + a.toNat * 1024 + b.toNat * 32 + m.toNat * 4 + e.code)
  | .vrot d a b m e => some (true, 0x66, d.toNat * 32768 + a.toNat * 1024 + b.toNat * 32 + m.toNat * 4 + e.code)
  | .vslide d a b m e => some (true, 0x67, d.toNat * 32768 + a.toNat * 1024 + b.toNat * 32 + m.toNat * 4 + e.code)
  | .vpack d a b m e => some (true, 0x68, d.toNat * 32768 + a.toNat * 1024 + b.toNat * 32 + m.toNat * 4 + e.code)
  | .vunpk d a u h m e => some (true, 0x69, d.toNat * 32768 + a.toNat * 1024 + (if u then 1 else 0) * 64 + (if h then 1 else 0) * 32 + m.toNat * 4 + e.code)
  | .vred d a o m e => some (true, 0x6A, d.toNat * 32768 + a.toNat * 1024 + o.toNat * 32 + m.toNat * 4 + e.code)
  | .vsel d a b m => some (true, 0x6B, d.toNat * 32768 + a.toNat * 1024 + b.toNat * 32 + m.toNat * 4)
  | .mand d a b => some (true, 0x6C, d.toNat * 32768 + a.toNat * 1024 + b.toNat * 32)
  | .mor d a b => some (true, 0x6D, d.toNat * 32768 + a.toNat * 1024 + b.toNat * 32)
  | .mxor d a b => some (true, 0x6E, d.toNat * 32768 + a.toNat * 1024 + b.toNat * 32)
  | .mnot d a => some (true, 0x6F, d.toNat * 32768 + a.toNat * 1024)
  | .mpop d a => some (true, 0x70, d.toNat * 32768 + a.toNat * 1024)
  | .vcvt d a x c w r => some (true, 0x74, d.toNat * 32768 + a.toNat * 1024 + x.code * 32 + c.code * 4 + (if w then 1 else 0) * 2 + (if r then 1 else 0))
  | .vcvts d a x c r => some (true, 0x75, d.toNat * 32768 + a.toNat * 1024 + x.code * 32 + c.code * 4 + (if r then 1 else 0))
  | .accz d => some (true, 0x78, d.toNat * 32768)
  | .accw d a n => some (true, 0x79, d.toNat * 32768 + a.toNat * 1024 + (if n then 1 else 0) * 2)
  | .accwMul d a x n => some (true, 0x79, d.toNat * 32768 + a.toNat * 1024 + x.toNat * 32 + (if n then 1 else 0) * 2 + 1)
  | .accwv d a n => some (true, 0x7A, d.toNat * 32768 + a.toNat * 1024 + (if n then 1 else 0) * 2)
  | .accwvMul d a x n => some (true, 0x7A, d.toNat * 32768 + a.toNat * 1024 + x.toNat * 32 + (if n then 1 else 0) * 2 + 1)
  | .accrd d a c => some (true, 0x7B, d.toNat * 32768 + a.toNat * 1024 + c.code * 4)
  | .accrw d a j => some (true, 0x7C, d.toNat * 32768 + a.toNat * 1024 + j.toNat * 32)
  | .accrwX d a => some (true, 0x7C, d.toNat * 32768 + a.toNat * 1024 + 1)
  | .accrwSt t a j => some (true, 0x7C, t.toNat * 32768 + a.toNat * 1024 + j.toNat * 32 + 2)
  | .accrwStx t a => some (true, 0x7C, t.toNat * 32768 + a.toNat * 1024 + 3)
  | .boot => none
  | .attestation => none
  | .launchRecord => none
  | .launchStart => none
  | .wake => none
  | .launchEnd => none
  | .commitHorizon => none
  | .messageAccept => none
  | .sendRetry => none
  | .helperBinding => none
  | .controlBinding => none
  | .spawnBounce => none
  | .fill => none
  | .deposit => none
  | .arrivingAccess => none
  | .atomicExecution => none
  | .release => none
  | .scopeMiss => none
  | .towpathDelivery => none
  | .trackShift => none
  | .reverify => none
  | .autoRealign => none
  | .weirStep => none
  | .checkpoint => none
  | .abort => none
  | .commit => none
  | .trackedRead => none
  | .trapDelivery => none
  | .impreciseEffectFault => none
  | .launchFault => none
  | .copyStart => none
  | .rangeLockRegister => none
  | .copyRequest => none
  | .copyWrite => none
  | .copyCompletion => none
  | .leaseGrant => none
  | .leaseTimeout => none
  | .resultDiscard => none
  | .arrayPush => none
  | .msetAtArray => none
  | .mfreeAtArray => none
  | .commandStart => none
  | .chunkRow => none
  | .resultVector => none
  | .rotation => none
  | .rotationEnd => none
  | .translation => none
  | .walk => none
  | .taskEntry => none
  | .cancelNotice => none
  | .releaseNotice => none
  | .graphInstance => none
  | .nodeDone => none
  | .preEmption => none
  | .restore => none
  | .revocation => none
  | .harvestBinding => none
  | .invocationPacket => none
  | .packetDrain => none
  | .invocationReply => none
  | .nack => none
  | .replyTimeout => none
  | .retryWait => none
  | .heartbeat => none
  | .heartbeatArrival => none
  | .suspect => none
  | .failed => none
  | .remap => none
  | .remapApply => none
  | .frame => none
  | .hostInvocation => none
  | .rdmaWrite => none
  | .rdmaRead => none
  | .managementMessage => none
  | .powerStepCommand => none
  | .preemptCommand => none
  | .tenantTableWrite => none
  | .invocationTableWrite => none
  | .rankMapWrite => none
  | .groupTableWrite => none
  | .statusRead => none
  | .firmwareStaging => none
  | .breakpointWrite => none
  | .dump => none
  | .launchRestore => none
  | .weirCap => none
  | .rampRate => none
  | .pstepSample => none
  | .powerEstimate => none
  | .weirPeriod => none
  | .pfail => none
  | .drain => none
  | .deviceRecord => none
  | .powerDown => none
  | .traceTrigger => none
  | .traceDump => none
  | .thyme => none
  | .haltRequest => none
  | .halted => none
  | .ageRaise => none
  | .yieldExpiry => none
  | .scanComplete => none
  | .perfqResult => none
  | .illegalEncoding => none
  | .fetchFault => none
  | .powerReturn => none
  | .patrolScrub => none
  | .serdesRetraining => none

/-- The word of an instruction under a header (R19); an event has none. -/
def encode (h : Header) (i : Instr) : Option Nat :=
  match i.parts with
  | none => none
  | some (k, op, x) =>
    some ((if h.lone then 2147483648 else 0) + (if k then 1073741824 else 0) + h.stall % 8 * 134217728
      + op * 1048576 + x)

end Sys2Proof
end

