-- ==== Sys2Proof/Config.lean ====
section
/-!
DEFINITION. What the manual leaves to an implementation or leaves open: free values with no body, so that a statement holds
whatever they are. Each is applied to the state's counter of free values, or to the operands it depends on.
-/

namespace Sys2Proof.Config

/-- A duration that the manual gives only as a bound or not at all (R435): the value drawn for one interval, of which the
user of the interval keeps what its bound allows. -/
opaque delay : Nat → Nat

/-- A choice that the manual leaves open between finitely many outcomes. -/
opaque choice : Nat → Nat

/-- A 64-bit value that the manual does not give. -/
opaque word : Nat → Word

/-- A word of data that another device answers with: the read, and which word of it. -/
opaque data : Nat → Nat → Word

/-- Capacity behind a CXL port, in bytes, as the board provides it (R345). -/
opaque cxlCapacity : Nat → Nat

/-- The entry of the signed firmware that slot 15 runs for a system-class trap (R399). -/
opaque firmwareEntry : Word

/-- The virtual address of the service tenant's harvest queue: that tenant has no entry that could name it (R363, R372); 0 = none. -/
opaque serviceQueue : Nat

/-- The RSA-3072 signature of a firmware image verifies (RSASSA-PSS, SHA-384; R433). Where an image holds its signatures, its keys and
its version the manual does not say. -/
opaque rsaVerifies (image : List Word) : Bool

/-- The SLH-DSA-SHA2-128s signature of a firmware image verifies (FIPS 205; R433). -/
opaque slhVerifies (image : List Word) : Bool

/-- A public key of an image, 0 the RSA key and 1 the SLH-DSA key, and the SHA-384 value fused for it (R433). -/
opaque publicKey (which : Nat) (image : List Word) : List Byte
opaque fusedHash (which : Nat) (fused : List Word) : List Byte

/-- The security version of an image, and the fused minimum (R433). -/
opaque imageVersion (image : List Word) : Nat
opaque fusedVersion (fused : List Word) : Nat

/-- The boot ROM's contents, and the configuration of an accepted firmware (R434). -/
opaque bootRom : List Byte
opaque configuration (image : List Word) : List Byte

/-- A key pair of the device's identity, 0 RSA-3072 and 1 SLH-DSA-SHA2-128s, derived from the fused secret and the measurements (R434). -/
opaque identityKey (which : Nat) (fused measured : List Word) : List Word

/-- The device's serial number (R434). -/
opaque serial (fused : List Word) : List Word

/-- A P-384 key pair of the device, by its number: its public key, and the secret that it shares with a key of the host (R434). -/
opaque ephemeralKey (n : Nat) : List Word
opaque sharedSecret (n : Nat) (hostKey : List Word) : List Byte

/-- A signature of an attestation report with an identity key (R434). -/
opaque signature (key body : List Word) : List Word

end Sys2Proof.Config
end

