-- ==== Sys2Proof/Machine/State.lean ====
section
/-!
DEFINITION. The state of the PHV-4896 as plain data: its storage, its contexts and cores, its clusters, engines, dies,
dispatcher, fabric and host units, and what is under way between them. Every register has its reset value here.
-/

namespace Sys2Proof.Machine

/-! ## Tags, stops and plain maps -/

/-- The 2-bit tag of a 64-bit word (R56). -/
inductive Tag where
  | empty | full | poison | res
deriving DecidableEq, Repr

/-- Why the machine stops with a fault: no rule of the manual stops the machine, so no meaning raises one.
(DESIGN CHOICE, log entry 110.) -/
inductive Fault where
  /-- Raised by nothing: kept so that the type has a name for a broken agenda entry (safe: it never occurs). -/
  | impossible
deriving DecidableEq, Repr

/-- Why the machine gives no next state. -/
inductive Refusal where
  /-- Raised by the dispatch of an instruction that has no meaning yet (safe: the run ends). -/
  | notModelled (mnemonic : String)
deriving DecidableEq, Repr

/-- A map from numbers to records, as a list of pairs in rising order of the key. -/
abbrev Map (α : Type) := List (Nat × α)

/-- Why a presented group waits (R228); `interlock` is the CHK = 0 scoreboard (R26), which alone counts in STALLCNT. -/
inductive Wait where
  | tag | fill | interlock | spec | queue | channel | towpath | track | lease | barrier | divider | accum | hold
  | loads | slot | join | lock | engine | bank | tracker | other
deriving DecidableEq, Repr

/-- A trap that a group raised, with what TRAPCAUSE, TRAPPC, TRAPADDR and TRAPAUX will hold (R398). An imprecise report
also says what `sub`, `chan` and `rep` are (R408). -/
structure Trap where
  cause : Nat
  pc : Word
  addr : Word
  aux : Word
  slot : Nat := 0
  imp : Bool := false
  sub : Nat := 0
  chan : Nat := 0
  rep : Bool := false
  /-- It reports an effect of a service-tenant harvest context (R399). -/
  service : Bool := false
deriving DecidableEq, Repr

/-! ## Effects and messages -/

/-- Operations of the atomics (R157, R158). -/
inductive AtomicOp where
  | add | and | or | xor | min | max | minu | maxu | cas | xchg | fadd | fmin | fmax
deriving DecidableEq, Repr

/-- Where an effect, a message or a read comes from, as it stood when its group issued: the facts that the rules of
ordering, containment, reporting and speculation look at (R72, R275, R297, R305, R408). -/
structure Origin where
  /-- Physical core and slot. -/
  core : Nat := 0
  slot : Nat := 0
  /-- The activation, by the number of its binding. -/
  act : Nat := 0
  tenant : Nat := 0
  pid : Nat := 0
  /-- The domain, which is a launch or a graph instance (R296). -/
  dom : Nat := 0
  ts : Nat := 0
  fsx : Bool := false
  /-- The release mark: its scope and RSER (R275, R277). -/
  mark : Option (Scope × Nat) := none
  /-- The activation's timestamp at the REL of the mark (R297). -/
  markTs : Nat := 0
  chan : Nat := 0
  rep : Bool := false
  entry : Nat := 0
  report : Word := 0
  /-- Bound from a harvest entry (R375). -/
  harvest : Bool := false
  /-- The speculation tag of a speculative activation's tasks (R318). -/
  tag : Nat := 0
  /-- The graph node whose launch it runs in (R329). -/
  node : Option Nat := none
deriving DecidableEq, Repr

/-- Effects that leave a group for a place outside its own workspace (R233), and the speculative local writes that wait
beside them (R301). -/
inductive Effect where
  | store (md : AddrMode) (ea : Nat) (bytes : List Byte)
  | deposit (md : AddrMode) (ea : Nat) (v : Word)
  | atomic (sc : Scope) (op : AtomicOp) (ea : Nat) (x cmp : Word) (fill : Option Nat)
  | send (target chan : Nat) (words : List Word) (vector : Bool)
  | spawn (target entry : Nat) (args : List Word) (fill : Nat)
  | task (target : Nat) (words : List Word)
  | fence (sc : Scope)
  | localStore (ea : Nat) (bytes : List Byte)
  | trackWrite (track pos : Nat) (bytes : List Byte)
  | command (cmd : Word) (fsx : Bool) (array serial : Nat)
  | feed (chunk : List Word) (scale : Word) (array serial : Nat)
  | mset (array serial : Nat)
  | mfree (array serial : Nat)
  | copy (words : List Word) (id : Nat)
  | gdone (node : Nat)
  | glaunch (va : Word) (fill : Nat)
  | invoke (level rank : Nat) (words : List Word) (retry : Bool) (fill : Nat)
deriving DecidableEq, Repr

/-- An effect in a hold buffer or in a release queue, with the bytes it occupies (R233); `after` says that it was held
after the checkpoint of its activation (R300). -/
structure Held where
  org : Origin
  eff : Effect
  bytes : Nat := 16
  after : Bool := false
  /-- The cycle in which its value is ready (R38). -/
  ready : Nat := 0
  /-- The words of a held message that hold an uncorrectable error, each with the address that its record gives: an input (R402). -/
  bad : Map Nat := []
  /-- It has left once, and a pre-emption has put it back (R366). -/
  again : Bool := false
deriving DecidableEq, Repr

/-- A message on a channel (R221, R222): its words with their poison marks, how many have been read, and how often it has
been delivered again (R237). `offer` is the fill of a spawn offer (R102); device-made messages carry no FSX (R72). -/
structure Msg where
  org : Origin := {}
  device : Bool := false
  chan : Nat := 0
  words : List (Word × Bool) := []
  taken : Nat := 0
  /-- Bytes of the input buffer: the size and 8 more (R222). -/
  cost : Nat := 16
  vector : Bool := false
  /-- Cycle of acceptance. -/
  at_ : Nat := 0
  tries : Nat := 0
  offer : Option Nat := none
  entry : Nat := 0
  /-- A copy completion's transfer ID and status (R343). -/
  done : Option (Word × Word) := none
  /-- Number in the core's order of acceptance. -/
  seq : Nat := 0
  /-- The activations that have read a word of it, whose FSX has been checked (R72). -/
  readers : List Nat := []
  /-- Its words that hold an uncorrectable error, each with the address that its record gives: an input (R402). -/
  bad : Map Nat := []
deriving DecidableEq, Repr

/-! ## Contexts -/

/-- The classes of issue selection (R229). -/
inductive Class where
  | service | control | helper | harvest
deriving DecidableEq, Repr

/-- An activation (R98, R226, R233, R237, R297). -/
structure Act where
  /-- The number of its binding on the device. -/
  num : Nat := 0
  chan : Nat := 0
  entry : Nat := 0
  prio : Nat := 0
  cls : Class := .helper
  rep : Bool := false
  maySpec : Bool := false
  open_ : Bool := false
  ts : Nat := 0
  dom : Nat := 0
  /-- The triggering message and the messages it popped, kept until it ends or opens (R237). -/
  trig : Option Msg := none
  kept : List Msg := []
  report : Word := 0
  /-- Release scope of later effects and the number of RELs since binding (R160, R277). -/
  mark : Option Scope := none
  rels : Nat := 0
  relTs : Nat := 0
  /-- The FSX of each message whose words were placed, its sender and its channel: checked before the first group (R72). -/
  fsxNeed : List (Bool × Nat × Nat) := []
  /-- Speculation tag and the tag of the task that bound it (R318, R322). -/
  tag : Nat := 0
  parent : Nat := 0
  /-- DONE was issued while speculative (R98). -/
  ended : Bool := false
  /-- Consumption-class aborts of the activation (R315). -/
  errAborts : Nat := 0
  /-- The error of the third such abort, which is handled at the commit (R315). -/
  error : Option Trap := none
  /-- For an activation bound from ch3, the cycle in which its message was accepted (R278). -/
  missAt : Nat := 0
deriving DecidableEq, Repr

/-- What a context waits for after its group has issued (R24, R160, R189, R235, R257, R300). -/
inductive Hold where
  /-- Until a cycle, with the reason that the trace gives (R412). -/
  | until_ (cycle : Nat) (why : Nat := 8)
  | released
  | performed (sc : Scope)
  | performedBefore (sc : Scope) (mark : Nat)
  | loads
  | elements
  /-- Until the cycle after a track's correction, in which the group is performed (R171). -/
  | realigned (cycle : Nat)
  | barrier (b epoch : Nat)
  | ack (id : Nat)
  | rotation
  | notices
  | stopped (slot : Nat)
  | commit
  /-- The array of a pre-empted lease is awaited (R184). -/
  | regrant
  /-- The BARW on barrier `b` whose arrival a pre-emption withdrew is presented again at the resume (R214). -/
  | rearrive (b : Nat)
  /-- The workspace is being copied into the shadow (R300). -/
  | copying
deriving DecidableEq, Repr

/-- A fixed-latency result that is not yet readable (R25, R26, R55): the cycle it is readable from, the words of the
context it will write, and the bytes. -/
structure Pipe where
  due : Nat
  words : List Nat
  bytes : List (Nat × List Byte)
  /-- Single predicates: the byte of the predicate word, the bit and its value (R118). -/
  preds : List (Nat × BitVec 3 × Bool) := []
deriving DecidableEq, Repr

/-- The checkpoint of a speculative activation (R300), its commit-queue timestamp and the tracks it has moved. -/
structure Shadow where
  /-- The 4,608 bytes of the workspace and the tags of its 576 words. -/
  image : List Byte
  tags : List Tag
  pc : Word
  mode : Word
  stallcnt : Word
  srseed : Word
  status : Word
  lcnt : Word
  lbeg : Word
  lend : Word
  xw : Map Word
  targets : List (Nat × Nat)
  barrier : Nat
  ts : Nat
deriving DecidableEq, Repr

/-- The lease of a context on an array, as q3 shows it (R182). -/
structure Lease where
  held : Bool := false
  pend : Bool := false
  left : Nat := 0
  serial : Nat := 0
  ended : Nat := 0
  array : Nat := 0
deriving DecidableEq, Repr

/-- One of the 16 contexts of a core (R51 to R66, R228). The registers w, m, v and the predicate word are words of near
SRAM at WP, or of the reserve bank of a harvest slot. -/
structure Ctx where
  live : Bool := false
  pc : Word := 0
  wp : Nat := 0
  mode : Word := 0
  stallcnt : Word := 0
  srseed : Word := 1
  status : Word := 0
  lcnt : Word := 0
  lbeg : Word := 0
  lend : Word := 0
  xdoneid : Word := 0
  xdonest : Word := 0
  xw : Map Word := []
  pid : Nat := 0
  tenant : Nat := 0
  act : Act := {}
  /-- The next group address, when the group being run sets it (R50). -/
  next : Option Word := none
  stallUntil : Nat := 0
  yieldUntil : Nat := 0
  holds : List Hold := []
  pipe : List Pipe := []
  /-- Age and the number of classes it is raised (R230). -/
  age : Nat := 0
  raised : Nat := 0
  shadow : Option Shadow := none
  lease : Lease := {}
  /-- Stopped by CTXK (R204), by a trap awaiting its handler or ERET (R399), by a launch fault or pre-emption. -/
  stopped : Bool := false
  trapped : Bool := false
  /-- A trap of a speculative activation waits for commit or abort (R315). -/
  specTrap : Bool := false
  /-- The group whose breakpoint has been taken and is stepped past (R417). -/
  stepPast : Option Word := none
  /-- The harvest entry bound here, word by word (R374). -/
  entryWords : List Word := []
  service : Bool := false
  /-- What a unit has answered to the group that has started: 1 done, otherwise refused (R185, R205). -/
  outcome : Option Nat := none
  /-- The slot whose activation the presented JOIN waits for (R308). -/
  joining : Option Nat := none
  /-- Cycle in which the slot became free: it is bound no earlier than the next one (R225). -/
  freeAt : Nat := 0
  /-- Why its group did not issue when it was last presented (R228, R412). -/
  wait : Option Wait := none
deriving DecidableEq, Repr

/-! ## Cores -/

/-- One entry of the handler table (R104). -/
structure Handler where
  narg : Nat := 0
  spec : Bool := false
  rep : Bool := false
  ctl : Bool := false
  prio : Nat := 0
  mask : Bool := false
  entry : Nat := 0
  /-- First cycle in which a channel that HMASK.off or HSET has unmasked is runnable (R105). -/
  from_ : Nat := 0
deriving DecidableEq, Repr

/-- The head-state word of a track and what stands behind it (R164, R247, R248, R253). -/
structure Track where
  h : Nat := 0
  t : Nat := 0
  owner : Nat := 15
  keep : Bool := false
  shared : Bool := false
  err : Bool := false
  mofs : Nat := 0
  /-- A shift is under way, and the target of the one that follows it: the T of a drained word, whose H is restored first (R252). -/
  shifting : Bool := false
  then_ : Option Nat := none
  /-- Copies that stream through port A: the first of them has the head (R246). -/
  stream : List Nat := []
  /-- A realignment is under way, and the cycle of its end (R171, R172). -/
  align : Bool := false
  alignEnd : Nat := 0
  /-- One more than the cycle in which a held access was performed, and the head-state word before it (R173, R239). -/
  usedAt : Nat := 0
  before : Nat := 0
  /-- How far the data stands from where H says, modulo 256, and how far the next shift will miss its target: an input. -/
  off : Nat := 0
  slip : Nat := 0
  /-- Markers whose bits are damaged, by logical position (R247), and positions whose write by the power-fail sequencer fails: an input
  (R430). -/
  markers : Map Nat := []
  failing : List Nat := []
  /-- A copy's access was followed by a correction that did not pass (R338). -/
  failed : Bool := false
  /-- A context waits to own it; a step of background work, until this cycle (R253). -/
  wanted : Bool := false
  weirUntil : Nat := 0
deriving DecidableEq, Repr

/-- A place of a Towpath queue: reserved by a push that has issued, then delivered (R40). -/
structure Tow where
  id : Nat := 0
  ready : Bool := false
  v : Vec := 0
deriving DecidableEq, Repr

/-- A wide accumulator (R84). -/
structure Wide where
  v : BitVec 640 := 0
  x : BitVec 2 := 0
deriving DecidableEq, Repr

/-- A reader slot of a tracked line (R302, R303): one activation, a cluster with the timestamps of its readers, or the
whole domain. -/
inductive Reader where
  | one (core slot act dom ts : Nat)
  | cluster (clu dom lo hi : Nat)
  | domain (dom lo hi : Nat)
deriving DecidableEq, Repr

/-- The grant of a core's idle issue slots and storage to harvest contexts (R199). -/
structure Grant where
  base0 : Nat := 0
  len0 : Nat := 0
  base1 : Nat := 0
  len1 : Nat := 0
  tmask : Nat := 0
  issue : Nat := 0
deriving DecidableEq, Repr

/-- A parked harvest context: its slot's image stays in its reserve bank, its control state here (R379). -/
structure Parked where
  slot : Nat
  ctx : Ctx
deriving DecidableEq, Repr

/-- An element of a local strided or indexed instruction that is not yet performed: its number, its near-SRAM offset, and its
bytes (all of them for a store, those forwarded from the hold buffer for a load). -/
structure Elem where
  k : Nat
  off : Nat
  bytes : List (Option Byte)
deriving DecidableEq, Repr

/-- A local strided or indexed instruction in progress (R153, R256, R257). A load's 32 fills are numbered from `fill0`. -/
structure Strided where
  org : Origin
  store : Bool
  size : Nat
  fill0 : Nat := 0
  elems : List Elem
  tracked : Bool := false
  /-- It issued before the accesses and the copies that have higher numbers (R284). -/
  num : Nat := 0
deriving DecidableEq, Repr

/-- The halt state of a core (R416). -/
inductive HaltState where
  | none | requested (bounce : Bool) | halted (bounce : Bool)
deriving DecidableEq, Repr

/-- A physical core. -/
structure Core where
  ctxs : Map Ctx := []
  wpbase : Nat := 0x32800
  trapcause : Word := 0
  trappc : Word := 0
  trapaddr : Word := 0
  trapaux : Word := 0
  /-- Traps raised and not delivered, with the cycle of each; reports beside them, and LOST (R399, R409). -/
  traps : List (Nat × Trap) := []
  reports : List (Nat × Trap) := []
  lost : Bool := false
  /-- The trap in slot 15's hands. -/
  handling : Option Trap := none
  handlers : Map Handler := []
  /-- The handler entries that nothing has written since the wake: zero at reset, masked from a wake on (R104, R217). -/
  unset : Handler := {}
  chans : Map (List Msg) := []
  tasks : List Msg := []
  hold : List Held := []
  relq : List Held := []
  relDue : Bool := false
  /-- Inbound Towpath queues, from the west neighbour and from the east neighbour. -/
  fromWest : List Tow := []
  fromEast : List Tow := []
  wide : Map Wide := []
  tracks : Map Track := []
  /-- Records of the event queue, each with the tenant it belongs to (R357). -/
  events : List (Nat × Word) := []
  /-- Records were lost (R357). -/
  eventsLost : Bool := false
  bindCount : Map Nat := []
  endedTs : Map Nat := []
  nextXfer : Nat := 1
  xstatus : List (Nat × Nat × Word) := []
  launch : Option Nat := none
  /-- The launch is being pre-empted: slots 0 to 10 stop (R366). -/
  frozen : Bool := false
  widths : List Nat := []
  block : Bool := false
  quota : Nat := 0
  /-- Entry, priority and attributes of ch0 and ch1 from the launch header. -/
  ch0 : Handler := {}
  ch1 : Handler := {}
  rrClass : Map Nat := []
  rrHelper : Nat := 0
  rrControl : Nat := 0
  divUntil : Nat := 0
  accUntil : Nat := 0
  accSlot : Nat := 0
  grant : Option Grant := none
  /-- A grant that takes effect when the one before it has been revoked (R199). -/
  nextGrant : Option Grant := none
  parked : List Parked := []
  revoking : Bool := false
  halt : HaltState := .none
  breaks : Map Word := []
  counters : Map Word := []
  thyme : List Word := []
  released : Nat := 0
  accepted : Nat := 0
  /-- Idle throughout the present 64-cycle round (R218). -/
  idle : Bool := false
  horizon : Nat := 0
  firmware : Bool := false
  /-- Cycles of the pipeline errors that firmware counts (R405). -/
  pipeErrors : List Nat := []
  /-- A track or near-SRAM block written since the wake (R368). -/
  dirty : List Nat := []
  /-- Number in the order of acceptance of messages. -/
  seq : Nat := 0
  /-- RELs of activations that have sent their scope-miss message (R277). -/
  missed : List (Nat × Nat) := []
  /-- Banks that the cycle `takenAt` has used, the cycle of an unaligned vector access's second half, and the cycles in which
  ring-rotate rows move (R256, R265). -/
  taken : Nat := 0
  takenAt : Nat := 0
  secondAt : Nat := 0
  rotFrom : Nat := 0
  rotUntil : Nat := 0
  strided : List Strided := []
  /-- Local stores of the last cycles, with the bytes they replaced (R23). -/
  recent : List (Nat × Nat × List Byte) := []
  /-- Words whose tags TAGS or LDF.take has set, with the cycle (R60). -/
  tagged : List (Nat × Nat) := []
  /-- A scan of the core runs (R208). -/
  scanning : Bool := false
  dead : Bool := false
  /-- A checker finds a mismatch in the next group that issues: an input, with TRAPAUX of 0x1E0 (R404). -/
  mismatch : Option Nat := none
  /-- Track blocks not written since a pre-empted launch's save: the launch and track × 16 + position / 16 (R368). -/
  deferred : List (Nat × Nat) := []
  /-- Thyme: the state of the present run and the cycle from which its unrecorded part counts (R418). -/
  thymeState : Nat := 3
  thymeFrom : Nat := 0
  /-- What the core has done in the present cycle, for the trace and for Thyme: a row byte and a state (R412, R418). -/
  didRow : Nat := 0
  didState : Nat := 3
  /-- The core's hold buffer's highest level (R419, event 21). -/
  holdMax : Nat := 0
  /-- Revocation began in this cycle (R377). -/
  revokeAt : Nat := 0
  /-- The power-fail stop has struck (R429). -/
  failed : Bool := false
  /-- Words of the hold buffer and of the input buffer that the next read of each finds with an error that can be corrected: inputs
  (R402). -/
  softHeld : Nat := 0
  softInput : Nat := 0
deriving DecidableEq, Repr

/-! ## What is under way -/

/-- A destination word that a long-latency producer will fill (R58): where it stands (none for a discarded result), the
bytes gathered, the parts outstanding, and the record of the lowest-numbered element that faulted. -/
structure Fill where
  core : Nat
  slot : Nat
  act : Nat
  dst : Option Nat
  val : Word := 0
  left : Nat := 0
  record : Option (Nat × Word) := none
  /-- Bytes of a scalar load and its sign extension. -/
  size : Nat := 8
  sx : Bool := false
  /-- The global load it belongs to, of the core's 64 (R148). -/
  load : Option Nat := none
  /-- A load or an atomic's return, which FENCE, REL and ACQ wait for (R160). -/
  mem : Bool := false
  /-- The fill takes its value when it lands: a core and its barrier (R192), or 256 and more, a group-table entry (R198). -/
  probe : Option (Nat × Nat) := none
  /-- XWAIT's fill waits for the copy with this transfer ID (R188). -/
  xid : Option Nat := none
  /-- The activation has gone: no context waits for the fill (R204, R306, R407). -/
  dropped : Bool := false
deriving DecidableEq, Repr

/-- Where a remote read or effect goes once its address is read. -/
inductive Place where
  | near (core off : Nat)
  | bstore (array off : Nat)
  | virt (va : Nat)
  | phys (pa : Nat)
  | away (device pa : Nat)
  | chan (core : Nat)
  | unit
deriving DecidableEq, Repr

/-- What travels: an effect after its release, or one part of a read. -/
inductive Cargo where
  | effect (e : Effect)
  /-- `n` bytes for byte `at` of a fill; `fwd` gives the bytes forwarded from the hold buffer (R150). -/
  | read (fill : Nat) (at_ n elem : Nat) (fwd : List (Option Byte))
  /-- A word of a block read on its way to a channel (R156). -/
  | block (bread : Nat) (idx n : Nat)
  /-- `m` elements of a copy from linear index `n`, `bytes` in all: to be read, or read and to be written; each with its cause and bytes. -/
  | copyRead (copy n m bytes : Nat)
  | copyWrite (copy n : Nat) (data : List (Nat × List Byte))
deriving DecidableEq, Repr

/-- An effect or a read between its core and its home (R234, R266, R274). `cross` is the cycle in which it leaves the
cluster; `tracked` says that a speculative activation reads (R302). -/
structure Flight where
  org : Origin
  cargo : Cargo
  place : Place
  cross : Nat := 0
  /-- Cycle of its release. -/
  sent : Nat := 0
  tracked : Bool := false
  write : Bool := false
  /-- The effective address that a report of it names, or the target of a message (R408). -/
  ea : Nat := 0
  /-- It has reached its home: locks have been looked at (R282). -/
  home : Bool := false
  /-- The access that it is a part of; a report or an event of that access has been made for this part too (R146, R355, R408). -/
  grp : Option Nat := none
  told : Bool := false
  seen : Bool := false
  /-- The key material that the leaf of its translation names (R353). -/
  key : List Word := []
  /-- Cycles that it has waited for its bank (R256). -/
  waited : Nat := 0
  /-- Its number in the order in which accesses came to their homes, and in the order in which they came to stations; 0 before (R159,
  R256, R351). -/
  came : Nat := 0
  stood : Nat := 0
  /-- The virtual address that a station has translated (R268). -/
  va : Option Nat := none
  /-- It has left through the Wharf, or the port, of this device, and is unanswered (R267, R280). -/
  gone : Bool := false
  /-- It came from another device, which awaits the answer (R280). -/
  from_ : Option Nat := none
  /-- Its release mark has been stripped on the way to a station, and the scope-miss message waits for its place (R277). -/
  miss : Bool := false
  /-- Elements of a copy's request that have been read, with their causes (R263). -/
  got : Map (Nat × List Byte) := []
  /-- The message's words that hold an uncorrectable error (R402). -/
  bad : Map Nat := []
deriving DecidableEq, Repr

/-- A block read in progress (R156). -/
structure Bread where
  org : Origin
  core : Nat
  chan : Nat
  total : Nat
  unit : Nat
  got : List (Nat × Word × Bool)
  sent : Nat := 0
deriving DecidableEq, Repr

/-- Particulars of an event, as plain numbers: which event of its kind it is, and what the outside gives with it. -/
structure Arg where
  a : Nat := 0
  b : Nat := 0
  c : Nat := 0
  words : List Word := []
  /-- The cycle in which an event that is tried again was first due; 0 for one that has not been tried (R60, R256). -/
  since : Nat := 0
deriving DecidableEq, Repr

/-- An event that waits for its cycle. -/
structure Due where
  at_ : Nat
  ev : Instr
  arg : Arg := {}
deriving DecidableEq, Repr

/-- What may still happen in the present cycle. -/
inductive Turn where
  | issue (core : Nat)
  | elements (core : Nat)
  | finish (core slot : Nat)
  | bindHelper (core : Nat)
  | bindControl (core : Nat)
  /-- Fixed-latency results that the next cycle may read are written (R55). -/
  | land
deriving DecidableEq, Repr

/-- What the last presented group or event did. -/
inductive Last where
  | ran | waits (w : Wait) | traps (t : Trap)
  /-- The group has issued and is performed later (R171). -/
  | starts
deriving DecidableEq, Repr

/-- The group being presented: its core, slot, address and size (R18), and the word of it that is being run. -/
structure Cur where
  core : Nat := 0
  slot : Nat := 0
  addr : Word := 0
  size : Nat := 4
  word : Nat := 0
  second : Bool := false
deriving DecidableEq, Repr

/-! ## Clusters -/

/-- A barrier object (R189). -/
structure Barrier where
  parties : Nat := 0
  arrived : Nat := 0
  epoch : Nat := 0
deriving DecidableEq, Repr

/-- A registered range (R281): the byte ranges of flat storage it covers, first byte and length, the table entries it takes
and whether it locks against reads too. -/
structure Lock where
  owner : Nat
  write : Bool
  ranges : List (Nat × Nat)
  entry : Nat := 0
deriving DecidableEq, Repr

/-- One participant's arrival at a ring rotation (R185). -/
structure Arrival where
  core : Nat
  slot : Nat
  act : Nat
  base : Nat
  len : Nat
  hops : Nat
deriving DecidableEq, Repr

/-- An entry of a commit-queue slice (R312). -/
structure CommitEntry where
  ts : Nat
  logical : Nat
  slot : Nat
  core : Nat
  act : Nat
  busy : Bool := false
deriving DecidableEq, Repr

/-- A cluster: its barriers, ring-rotate sequencer, range-lock table and commit-queue slice. -/
structure Cluster where
  barriers : Map Barrier := []
  arrivals : List Arrival := []
  rotating : Option Nat := none
  rotated : Nat := 0
  locks : List Lock := []
  commits : List CommitEntry := []
  tenant : Option Nat := none
  pending : List Nat := []
  gated : Bool := false
deriving DecidableEq, Repr

/-! ## Matrix arrays -/

/-- A command accepted in q0, with the FSX captured at its push (R71, R180). -/
structure Cmd where
  word : Word
  fsx : Bool
  /-- The domain and the timestamp that it was released with (R309). -/
  dom : Nat := 0
  ts : Nat := 0
  /-- Its chunk-rows consumed and the cycle it started (R289). -/
  start : Nat := 0
  rows : Nat := 0
deriving DecidableEq, Repr

/-- A vector of q2: due to enter, then ready from the cycle after (R289); a poisoned one carries its record (R293). -/
structure ResultVec where
  due : Nat
  entered : Bool := false
  words : List Word
  poison : Option Word := none
deriving DecidableEq, Repr

/-- A request for an array (R177). -/
structure Request where
  core : Nat
  slot : Nat
  act : Nat
  prio : Nat
  ring : Nat
  cnt : Nat
  fill : Nat
  /-- It asks for the array that a pre-empted lease had (R184). -/
  resume : Bool := false
deriving DecidableEq, Repr

/-- A matrix array (R177 to R184, R289 to R294). -/
structure MArray where
  /-- Core, slot and activation of the holder, or of the last holder while its results stand unpopped. -/
  holder : Option (Nat × Nat × Nat) := none
  leased : Bool := false
  serial : Nat := 0
  since : Nat := 0
  cnt : Nat := 0
  completed : Nat := 0
  /-- Cycle in which the last lease ended. -/
  endedAt : Nat := 0
  /-- The lease ends with this reason once the accepted commands have completed (R177). -/
  ending : Option Nat := none
  /-- Its activation has ended, and the pushes that this released are still taken (R291). -/
  closing : Bool := false
  /-- The holder's domain of timestamps: its launch. -/
  dom : Nat := 0
  requests : List Request := []
  lastRing : Nat := 0
  q0 : List Cmd := []
  running : Option Cmd := none
  feed : List (List Word × Word) := []
  q2 : List ResultVec := []
  acc : Map (BitVec 32) := []
  /-- Poisoned rows: 0 a checker's mismatch, n + 1 an uncorrectable B-store word at key n (R293). -/
  poisoned : Map Nat := []
  gated : Bool := false
  /-- The array's checker finds a mismatch in the next chunk-row: an input (R293). -/
  mismatch : Bool := false
  /-- Cycle in which the previous command consumed its last chunk-row. -/
  lastRow : Option Nat := none
deriving DecidableEq, Repr

/-! ## Launches -/

/-- Where a launch stands (R362, R366, R370). -/
inductive Phase where
  | queued | running | stopping | saving | saved | restoring | faulting
deriving DecidableEq, Repr

/-- A kernel image as the dispatcher has read it (R361): the bytes for near SRAM, the track items (track, position, data) and
the descriptors of channels 3 to 63. -/
structure Image where
  code : List Byte
  items : List (Nat × Nat × List Byte)
  descs : List Word
deriving DecidableEq, Repr

/-- A launch: its eight record words (R359), its producer (0 the host, 1 a Wharf, 2 a graph engine, 3 management) with the
frame, packet, instance or node it stands for, its order of arrival, its domain and the timestamp of its wake (R296, R297,
R326), its device barriers (R189), and what the dispatcher keeps about its end (R218), its victims and its save (R366, R370). -/
structure Launch where
  words : List Word := []
  producer : Nat := 0
  who : Nat := 0
  node : Nat := 0
  phase : Phase := .queued
  seq : Nat := 0
  dom : Nat := 0
  ts : Nat := 0
  early : Bool := false
  barriers : Map Barrier := []
  sums : Option (Nat × Nat) := none
  victims : List Nat := []
  /-- Logical cores that have accepted the wake, and those that have stopped for a pre-emption; a management command has
  pre-empted it, and it waits for another to resume it. -/
  woken : List Nat := []
  stops : List Nat := []
  held : Bool := false
  fault : Option Trap := none
  img : Option Image := none
deriving DecidableEq, Repr

/-! ## Copies (R332 to R344) -/

/-- A copy that has been released: its snapshot, its engine, and how far it has come. -/
structure Copy where
  org : Origin
  core : Nat
  xid : Nat
  words : List Word
  engine : Nat
  /-- Its locks stand and it runs (R339). -/
  started : Bool := false
  /-- Next linear index to request; runs to be written, with the cycle they come back. -/
  next : Nat := 0
  ready : List (Nat × Nat × List (Nat × List Byte)) := []
  /-- Elements performed, and the highest index that has written a byte (R341). -/
  done : Nat := 0
  wrote : Map Nat := []
  /-- Lowest linear index that faulted, with its cause; words that end POISON (R337). -/
  fault : Option (Nat × Nat) := none
  bads : Map Word := []
  cancelled : Bool := false
  /-- Its completion message has been accepted (R344). -/
  accepted : Bool := false
  /-- Linear indices below this one count as written after a save; no new request is made (R367). -/
  restart : Nat := 0
  paused : Bool := false
  /-- Its requests whose data has not all returned: first element and number (R340). -/
  reqs : List (Nat × Nat) := []
  /-- The engine's address path goes wrong at the next element that it requests: an input (R404). -/
  mismatch : Bool := false
deriving DecidableEq, Repr

/-! ## Translation (R347 to R353) -/

/-- A cached leaf: the tenant, PID and page it serves. -/
structure Trans where
  tenant : Nat
  pid : Nat
  /-- Page size, as a power of two. -/
  size : Nat
  page : Nat
  leaf : Word
deriving DecidableEq, Repr

/-- A walk: its level (5 for the PID entry), the table it reads next, and the flights that wait for it. -/
structure Walk where
  station : Nat
  tenant : Nat
  pid : Nat
  unit : Nat
  level : Nat := 5
  table : Nat := 0
  /-- The level-4 table that the PID entry named. -/
  root : Nat := 0
  running : Bool := false
  again : Bool := false
  waiters : List Nat := []
deriving DecidableEq, Repr

/-! ## Graphs (R323 to R330) -/

/-- A graph instance: the table, its issuer, the generation, and the nodes dispatched, dispatched early and done. -/
structure Instance where
  table : Nat
  core : Nat
  slot : Nat
  tenant : Nat
  pid : Nat
  gen : Nat := 0
  fill : Nat := 0
  begun : Bool := false
  dispatched : List Nat := []
  /-- Nodes whose total has still to be read before they are dispatched (R329). -/
  totals : List Nat := []
  early : List Nat := []
  done : List Nat := []
  corrupt : Option Nat := none
  /-- Nodes that have not come to run and will not: their entries or records were refused (R327, R330). -/
  refused : List Nat := []
deriving DecidableEq, Repr

/-! ## Tenants, fabric and host (R363, R380 to R392) -/

/-- A tenant's table entry, its translation configuration and invocation table, its packet queues by level, the count of its
drained packets, and the ports and VLANs bound to it. -/
structure Tenant where
  entry : List Word := [0, 0, 0, 0]
  pidTable : Nat := 0
  pidn : Nat := 0
  table : Map (List Word) := []
  levels : Map (List (List Word)) := []
  lid : Nat := 1
  ports : List (Nat × Nat) := []
  /-- Ring indices of harvest entries that have been put back once after an error (R406). -/
  requeued : List Nat := []
deriving DecidableEq, Repr

/-- A packet sent by this device's Wharf without a reply yet (R386, R387). -/
structure Packet where
  words : List Word
  fill : Nat
  rank : Nat
  chip : Nat
  /-- Attempts of `.retry` still allowed, retries made, resends after a NACK, and the number of the present send. -/
  retries : Nat := 0
  tried : Nat := 0
  resends : Nat := 0
  send : Nat := 0
  waiting : Bool := false
deriving DecidableEq, Repr

/-! ## Power, trace and service (R412 to R434) -/

/-- Sluice, Weir's budgets, and the power-fail path. -/
structure Power where
  /-- What the board drives on PSTEP (an input), the accepted value, and the last sample. -/
  pins : Nat := 0
  pin : Nat := 0
  pinSample : Nat := 0
  cmd : Nat := 0
  /-- Present target in hundredths of a watt, the last ten estimates in watts, and the ramp rate in percent a millisecond. -/
  target : Nat := 313500
  recent : List Nat := []
  ramp : Nat := 5
  /-- Actions in force, in the order of R427: each is one step of a stage. -/
  actions : Nat := 0
  /-- The level has become less restrictive since it last became more so: actions are undone (R428). -/
  rising : Bool := false
  /-- Caps of Weir's activities in thousandths of a percent of the resource, and what the present period has used. -/
  caps : Map Nat := []
  usedCaps : Map Nat := []
  /-- Weir's 24-hour, hourly and 7-day clocks: the periods of each activity's present round, and how many of the round's parts it has
  begun. -/
  clocks : Map Nat := []
  begun : Map Nat := []
  /-- What suspensions have kept from each activity and it has not caught up, in thousandths of a percent of the resource. -/
  owed : Map Nat := []
  /-- The replace request, and the level of the board pin REPLACE_N (R424). -/
  replace : Bool := false
  replaceN : Bool := true
  /-- PFAIL_N is asserted, since this cycle; the package is down. -/
  fail : Option Nat := none
  returned : Bool := false
  down : Bool := false
  /-- In recovery: only status reads and firmware staging are answered (R433). -/
  recovery : Bool := false
deriving DecidableEq, Repr

/-- The trace of a die (R412 to R415): its state (0 off, 1 armed, 2 recording, 3 dump written, 4 refused), the block that
armed it, and its rows with their cycle. -/
structure Trace where
  state : Nat := 0
  block : List Word := []
  armedAt : Nat := 0
  rows : List (Nat × List Nat) := []
  began : Nat := 0
  /-- The last cycle to be recorded, once a stop trigger has been true. -/
  stop : Option Nat := none
  starts : Nat := 0
  /-- Events of the present cycle that triggers look at: kind and value. -/
  seen : List (Nat × Nat) := []
  /-- Start records of the activations bound in the present cycle, but for their ROW (R415). -/
  bound : List (Word × Word) := []
deriving DecidableEq, Repr

/-- An abort notice on its way: the activation to abort, and the write that caused it (R307). -/
structure Notice where
  core : Nat
  slot : Nat
  act : Nat
  writer : Origin
deriving DecidableEq, Repr

/-- The device record in board flash (R431): launches with what the dispatcher knows of them, the tables, Weir's budgets, and the
cores drained; `sound` says that its CRC holds. (DESIGN CHOICE, log entry 92.) -/
structure DeviceRecord where
  launches : Map Launch := []
  nextLaunch : Nat := 0
  groups : Map Word := []
  ranks : Map Word := []
  coreMap : Map (Nat × Bool) := []
  tenants : Map Tenant := []
  caps : Map Nat := []
  clocks : Map Nat := []
  begun : Map Nat := []
  drained : List (Nat × Nat) := []
  sound : Bool := true
deriving DecidableEq, Repr

/-- The save of a pre-empted launch: its cores, their near SRAM, reserve banks and the track blocks copied, its clusters'
barriers and commit entries, its arrays with their B-stores, and its copies (R368). -/
structure Saved where
  cores : Map Core := []
  mem : List Host.Cell := []
  tags : List (Nat × Tag) := []
  clusters : Map Cluster := []
  arrays : Map MArray := []
  copies : Map Copy := []
  /-- Track blocks that stand in the save: core × 1024 + track × 16 + position / 16. -/
  blocks : List Nat := []
  /-- B-store words that hold an uncorrectable error (R402). -/
  bad : List Nat := []
  /-- Towpath vectors under way to cores that had not accepted the wake: the core, and its queues from the west and the east (R216). -/
  tows : List (Nat × List Tow × List Tow) := []
deriving DecidableEq, Repr

/-! ## The device -/

/-- Everything but the storage. -/
structure Dev where
  now : Nat := 0
  turn : List Turn := []
  agenda : List Due := []
  arg : Arg := {}
  cur : Cur := {}
  last : Last := .ran
  /-- Counter of free values (R435) and of the numbers of bindings, fills, flights and notices. -/
  fresh : Nat := 0
  booted : Bool := false
  cores : Map Core := []
  clusters : Map Cluster := []
  coreMap : Map (Nat × Bool) := []
  coreMapNext : Map (Nat × Bool) := []
  fills : Map Fill := []
  flights : Map Flight := []
  breads : Map Bread := []
  notices : Map Notice := []
  /-- Range locks of device-memory lines, at the home slices (R281). -/
  sliceLocks : List Lock := []
  tracker : Map (List Reader) := []
  arrays : Map MArray := []
  launches : Map Launch := []
  /-- Number of the last launch. -/
  nextLaunch : Nat := 0
  /-- Released copies in release order, and each engine's round-robin pointers for requests and for writes, and pending event (R339,
  R340). -/
  copies : Map Copy := []
  engineRr : Map Nat := []
  engineWr : Map Nat := []
  engineDue : List Nat := []
  /-- Operations that wait to register their locks, in the order they first tried (R281). -/
  lockWait : List Nat := []
  /-- Cached translations of each station, and walks (R351). -/
  cached : Map (List Trans) := []
  walks : Map Walk := []
  /-- Valid key slots with their key material, and the key material under which a line is stored (R211, R353). -/
  keys : Map (List Word) := []
  lineKeys : Map (List Word) := []
  /-- Capacity recorded for each CXL port, in bytes (R345). -/
  cxl : Map Nat := []
  graphs : Map Instance := []
  tenants : Map Tenant := []
  /-- This device's number, the rank map, the group tables (group × 1024 + index), and unanswered packets. -/
  chip : Nat := 0
  ranks : Map Word := []
  groups : Map Word := []
  packets : Map Packet := []
  /-- Cycle of the last heartbeat of each group-table entry (R392). -/
  beats : Map Nat := []
  /-- What the device has sent through its Ethernet and fabric ports: a destination and words, oldest first. -/
  sent : List (Nat × List Word) := []
  /-- The number of the next frame that the host port sends (R388). -/
  frameSeq : Nat := 0
  udpPort : Nat := 0
  /-- The Ethernet port over which the management configuration sends host-tier elements (R356), and the Wharf's route table: the fabric
  port that leads to a device (R381). -/
  rdmaPort : Nat := 0
  routes : Map Nat := []
  /-- Accesses that other devices' Wharfs have sent here: an input, oldest first (R280). -/
  inbound : List Flight := []
  drops : Nat := 0
  /-- Management keys, each with one more than the last sequence number accepted under it (R391). -/
  mgmt : Map (List Word × Nat) := []
  /-- The error log, oldest first (R411). -/
  log : List (List Word) := []
  /-- The service cluster's 16 MiB SRAM beside the error log's ring, byte by byte where not zero: no rule gives a way to it (R8). -/
  serviceSram : List Host.Cell := []
  /-- Physical cores for which an in-field scan is scheduled (R405). -/
  scans : List Nat := []
  power : Power := {}
  traces : Map Trace := []
  /-- Board flash: the firmware images in slots 0 and 1, and the device record. -/
  flash : Map (List Word) := []
  record : Option DeviceRecord := none
  /-- Fused data, the measurements of the last boot, and the identity's two key pairs (R433, R434). -/
  fused : List Word := []
  measured : List Word := []
  identity : List (List Word) := []
  /-- The last attestation report, and the number of the ephemeral key in it (R434). -/
  report : List Word := []
  ephemeral : Nat := 0
  /-- What the context-save engine has saved, by launch (R368). -/
  saves : Map Saved := []
  /-- The arrays of restored contexts that wait for their regrant, by activation (R184). -/
  regrants : Map MArray := []
  /-- Commit-queue and horizon reports: the horizon last broadcast in each domain (R309). -/
  horizons : Map Nat := []
  /-- Abort notices that cancel or release a tag are messages too: sender core, slot, tag and whether it releases (R322). -/
  tagNotices : Map (Nat × Nat × Nat × Bool × Nat) := []
deriving DecidableEq, Repr

/-! ## Storage and the whole state -/

/-- The operand snapshot of a pair: what both of its instructions read (R21). -/
structure Snap where
  mem : List Host.Cell
  tags : List (Nat × Tag)
  ctx : Ctx
  hold : List Held
  /-- The fills pending when the pair was presented have lower numbers. -/
  fresh : Nat := 0
deriving DecidableEq, Repr

/-- The state of the machine. `mem` is all byte storage under one flat numbering (Ops.lean), `tags` the tags that are not
FULL, `bad` the words that hold an uncorrectable error (R402). -/
structure State where
  mem : List Host.Cell := []
  tags : List (Nat × Tag) := []
  bad : List Nat := []
  /-- Words of near SRAM and of reserve banks with an error that can be corrected: an input (R402). -/
  soft : List Nat := []
  snap : Option Snap := none
  dev : Dev := {}
deriving DecidableEq, Repr

/-- The machine right after reset: near SRAM zero and FULL (R56), every register at the value its field's default gives,
no context live, nothing under way. (DESIGN CHOICE, log entries 3, 4.) -/
def State.reset : State := {}

end Sys2Proof.Machine
end

