-- ==== Sys2Proof/Machine/Ops.lean ====
section
/-!
DEFINITION. The named operations over storage, registers and units: the flat numbering of storage, the geometry of the
device, reads and writes of words and tags, the checks of addresses and range locks, tracked reads, the hold buffer, what a
group may do (`State.issue`) and what an event may do (`State.occur`), taking a trap and returning from it.
-/

namespace Sys2Proof.Machine

/-! ## Plain maps -/

/-- The value at a key, or the default. (DESIGN CHOICE, log entry 1.) -/
def kget {α : Type} (d : α) : List (Nat × α) → Nat → α
  | [], _ => d
  | (a, v) :: m, k => if a = k then v else kget d m k

/-- Put a value at a key, in rising order of keys; the default value removes the entry. -/
def kput {α : Type} [DecidableEq α] (d : α) : List (Nat × α) → Nat → α → List (Nat × α)
  | [], k, v => if v = d then [] else [(k, v)]
  | (a, w) :: m, k, v =>
    if k < a then (if v = d then (a, w) :: m else (k, v) :: (a, w) :: m)
    else if k = a then (if v = d then m else (k, v) :: m)
    else (a, w) :: kput d m k v

/-- Rising keys, and no entry equal to the default: the canonical form of `kput`'s lists. -/
abbrev kwf {α : Type} (d : α) (m : List (Nat × α)) : Prop :=
  m.Pairwise (fun p q => p.1 < q.1) ∧ ∀ p ∈ m, p.2 ≠ d

/-- Look a key up. -/
def Map.find {α : Type} : Map α → Nat → Option α
  | [], _ => none
  | (a, v) :: m, k => if a = k then some v else Map.find m k

/-- The record at a key, or the default record. -/
def Map.get {α : Type} (m : Map α) (d : α) (k : Nat) : α := (m.find k).getD d

/-- Put a record at a key, in rising order of keys. -/
def Map.set {α : Type} : Map α → Nat → α → Map α
  | [], k, v => [(k, v)]
  | (a, w) :: m, k, v =>
    if k < a then (k, v) :: (a, w) :: m else if k = a then (k, v) :: m else (a, w) :: Map.set m k v

/-- Remove a key. -/
def Map.drop {α : Type} (m : Map α) (k : Nat) : Map α := m.filter (fun p => p.1 != k)

/-- Change the record at a key. -/
def Map.upd {α : Type} (m : Map α) (d : α) (k : Nat) (f : α → α) : Map α := m.set k (f (m.get d k))

/-! ## Bytes and words, least significant byte first (R67) -/

/-- The number that bytes spell. -/
def leNat : List Byte → Nat
  | [] => 0
  | b :: bs => b.toNat + 256 * leNat bs

/-- The `n` bytes of a number. -/
def natBytes : Nat → Nat → List Byte
  | 0, _ => []
  | n + 1, x => BitVec.ofNat 8 x :: natBytes n (x / 256)

def wordBytes (w : Word) : List Byte := natBytes 8 w.toNat
def bytesWord (bs : List Byte) : Word := BitVec.ofNat 64 (leNat bs)
def vecBytes (v : Vec) : List Byte := natBytes 256 v.toNat
def bytesVec (bs : List Byte) : Vec := BitVec.ofNat 2048 (leNat bs)
/-- Word `i` of a vector. -/
def vecWord (v : Vec) (i : Nat) : Word := v.extractLsb' (64 * i) 64
/-- The vector of 32 words. -/
def wordsVec (ws : List Word) : Vec := bytesVec (ws.flatMap wordBytes)
/-- The 32 words of a vector. -/
def vecWords (v : Vec) : List Word := (List.range 32).map (vecWord v)
/-- A field of a word: `n` bits from bit `lo`. -/
def bits (w : Word) (lo n : Nat) : Nat := w.toNat / 2 ^ lo % 2 ^ n
/-- Sign extension of an `n`-bit number to 64 bits (R50). -/
def sext (n x : Nat) : Word := if x % 2 ^ n < 2 ^ (n - 1) then BitVec.ofNat 64 (x % 2 ^ n) else BitVec.ofInt 64 ((x % 2 ^ n : Nat) - (2 ^ n : Nat) : Int)
/-- Cut a list into runs of `n`. -/
def chunks {α : Type} (n : Nat) : Nat → List α → List (List α)
  | 0, _ => []
  | k + 1, l => l.take n :: chunks n k (l.drop n)

/-! ## The flat numbering of storage

Device-memory byte PA stands at PA itself (R345); the storage on the package stands above 2^48. A word's tag key is its
byte key divided by 8. -/

def nearBase : Nat := 2 ^ 48
def trackBase : Nat := 2 ^ 49
def bstoreBase : Nat := 2 ^ 50
def reserveBase : Nat := 2 ^ 51
/-- Byte `a` of the near SRAM of physical core `p` (R51). (DESIGN CHOICE, log entry 109.) -/
def nearKey (p a : Nat) : Nat := nearBase + p * 262144 + a
/-- Byte `b` of position `q` of track `t` of core `p` (R239). -/
def trackKey (p t q b : Nat) : Nat := trackBase + p * 2097152 + t * 65536 + q * 256 + b
/-- Byte `o` of the B-store of array `r`, the arrays of the device numbered 8 to a cluster (R260). -/
def bstoreKey (r o : Nat) : Nat := bstoreBase + r * 8388608 + o
/-- Byte `o` of the reserve bank of harvest slot `sl` (R54). -/
def reserveKey (p sl o : Nat) : Nat := reserveBase + p * 32768 + (sl - 11) * 8192 + o
/-- Storage with tags: everything on the package but the B-stores. -/
def tagged (k : Nat) : Bool := decide (nearBase ≤ k) && !(decide (bstoreBase ≤ k) && decide (k < reserveBase))

/-! ## Changes of storage -/

/-- One change of storage: bytes at a key, the tag of a word, bytes cleared to zero and words set FULL over a range (a reset
of the range), the mark of an uncorrectable word, and a word's error corrected. -/
inductive StoreOp where
  | bytes (k : Nat) (bs : List Byte)
  | tag (w : Nat) (t : Tag)
  | wipe (k n : Nat)
  | bad (w : Nat) (b : Bool)
  | fixed (w : Nat)
deriving DecidableEq, Repr

/-- What a group or an event does: the new units and the changes of storage, in order. -/
structure Change where
  dev : Dev
  ops : List StoreOp := []
deriving DecidableEq, Repr

def putBytes (m : List Host.Cell) (k : Nat) : List Byte → List Host.Cell
  | [] => m
  | b :: bs => putBytes (kput 0 m k b) (k + 1) bs

def StoreOp.onMem : StoreOp → List Host.Cell → List Host.Cell
  | .bytes k bs, m => putBytes m k bs
  | .wipe k n, m => m.filter (fun c => !(decide (k ≤ c.1) && decide (c.1 < k + n)))
  | _, m => m

def StoreOp.onTags : StoreOp → List (Nat × Tag) → List (Nat × Tag)
  | .tag w t, m => kput .full m w t
  | .wipe k n, m => m.filter (fun c => !(decide (k ≤ c.1 * 8) && decide (c.1 * 8 < k + n)))
  | _, m => m

def StoreOp.onBad : StoreOp → List Nat → List Nat
  | .bad w true, m => if m.contains w then m else w :: m
  | .bad w false, m => m.filter (· != w)
  | _, m => m

def StoreOp.onSoft : StoreOp → List Nat → List Nat
  | .bad w false, m => m.filter (· != w)
  | .fixed w, m => m.filter (· != w)
  | .wipe k n, m => m.filter fun w => !(decide (k ≤ w * 8) && decide (w * 8 < k + n))
  | _, m => m

def applyMem (ops : List StoreOp) (m : List Host.Cell) : List Host.Cell := ops.foldl (fun m o => o.onMem m) m
def applyTags (ops : List StoreOp) (m : List (Nat × Tag)) : List (Nat × Tag) := ops.foldl (fun m o => o.onTags m) m
def applyBad (ops : List StoreOp) (m : List Nat) : List Nat := ops.foldl (fun m o => o.onBad m) m
def applySoft (ops : List StoreOp) (m : List Nat) : List Nat := ops.foldl (fun m o => o.onSoft m) m

/-- Make a change. -/
def State.apply (s : State) (c : Change) : State :=
  { s with mem := applyMem c.ops s.mem, tags := applyTags c.ops s.tags, bad := applyBad c.ops s.bad, soft := applySoft c.ops s.soft
           dev := c.dev }

/-- The empty change. -/
def State.keep (s : State) : Change := { dev := s.dev }

/-- One change after another, the second computed on the state that the first leaves. -/
def Change.andThen (c : Change) (s : State) (f : State → Change) : Change :=
  let d := f (s.apply c)
  { dev := d.dev, ops := c.ops ++ d.ops }

/-- Storage in canonical form: memory lists no zero byte and tags no FULL word, in rising order. -/
abbrev Memory.wf (s : State) : Prop := kwf (0 : Byte) s.mem ∧ kwf Tag.full s.tags

/-- The handler table's entry of a channel. -/
def Core.handler (k : Core) (ch : Nat) : Handler := k.handlers.get k.unset ch
def Change.dv (c : Change) (f : Dev → Dev) : Change := { c with dev := f c.dev }
def Change.op (c : Change) (o : StoreOp) : Change := { c with ops := c.ops ++ [o] }
def Change.core (c : Change) (p : Nat) (f : Core → Core) : Change :=
  { c with dev := { c.dev with cores := c.dev.cores.upd {} p f } }
def Change.ctx (c : Change) (p sl : Nat) (f : Ctx → Ctx) : Change :=
  c.core p fun k => { k with ctxs := k.ctxs.upd {} sl f }
/-- Change the context whose group is being run. -/
def Change.me (c : Change) (f : Ctx → Ctx) : Change := c.ctx c.dev.cur.core c.dev.cur.slot f
/-- Change the core whose group is being run. -/
def Change.mine (c : Change) (f : Core → Core) : Change := c.core c.dev.cur.core f
def Change.arr (c : Change) (r : Nat) (f : MArray → MArray) : Change :=
  { c with dev := { c.dev with arrays := c.dev.arrays.upd {} r f } }
def Change.clu (c : Change) (n : Nat) (f : Cluster → Cluster) : Change :=
  { c with dev := { c.dev with clusters := c.dev.clusters.upd {} n f } }
/-- Add to one of a core's event counters (R419). -/
def Change.count (c : Change) (p ev : Nat) (n : Nat := 1) : Change :=
  c.core p fun k => { k with counters := k.counters.upd 0 ev (· + BitVec.ofNat 64 n) }
/-- Draw a number that no other binding, fill, flight or free value has. -/
def Change.tick (c : Change) : Change := { c with dev := { c.dev with fresh := c.dev.fresh + 1 } }

/-- The place of an event among those of its cycle: fills, then other arrivals, then deposits (R60), then the arrays (R289), and at
the end the trace, which sees the whole cycle (R414). -/
def rankOf : Instr → Nat
  | .fill => 0
  | .deposit => 2
  | .commandStart => 3
  | .chunkRow => 3
  | .resultVector => 3
  | .traceTrigger => 4
  | _ => 1
/-- The cycle in which an event was first due: one that had to wait keeps its place in the order of arrival (R60, R256). -/
def Due.first (e : Due) : Nat := if e.arg.since = 0 then e.at_ else e.arg.since
/-- `e` happens before `x`: by cycle, by the order of R60, and accesses, deposits and messages by their first arrival. -/
def Due.before (e x : Due) : Bool :=
  decide (e.at_ < x.at_) || (e.at_ == x.at_ && (decide (rankOf e.ev < rankOf x.ev) ||
    (rankOf e.ev == rankOf x.ev && decide (rankOf e.ev ≤ 2) && decide (e.first < x.first))))
/-- Put an event on the agenda, behind every event that does not come after it. -/
def later (e : Due) : List Due → List Due
  | [] => [e]
  | x :: l => if e.before x then e :: x :: l else x :: later e l
def Change.sched (c : Change) (at_ : Nat) (ev : Instr) (arg : Arg := {}) : Change :=
  { c with dev := { c.dev with agenda := later { at_ := at_, ev := ev, arg := arg } c.dev.agenda } }
/-- Schedule an event after a duration that the manual leaves open, at least one cycle (R435).
(DESIGN CHOICE, log entry 2.) -/
def Change.soon (c : Change) (ev : Instr) (arg : Arg := {}) : Change :=
  (c.sched (c.dev.now + 1 + Config.delay c.dev.fresh) ev arg).tick

/-- Try the present event again in the next cycle, before those that arrive after it. -/
def State.retry (s : State) (c : Change) (ev : Instr) : Change :=
  c.sched (s.dev.now + 1) ev { s.dev.arg with since := if s.dev.arg.since = 0 then s.dev.now else s.dev.arg.since }
def State.again (s : State) (ev : Instr) : Change := s.retry s.keep ev

/-! ## Reading -/

def State.core (s : State) (p : Nat) : Core := s.dev.cores.get {} p
def State.ctx (s : State) (p sl : Nat) : Ctx := (s.core p).ctxs.get {} sl
def State.arr (s : State) (r : Nat) : MArray := s.dev.arrays.get {} r
def State.clu (s : State) (n : Nat) : Cluster := s.dev.clusters.get {} n
/-- The core and the context whose group is being run. -/
def State.my (s : State) : Core := s.core s.dev.cur.core
def State.me (s : State) : Ctx := s.ctx s.dev.cur.core s.dev.cur.slot
def Core.ctx (c : Core) (sl : Nat) : Ctx := c.ctxs.get {} sl

def State.byte (s : State) (k : Nat) : Byte := kget 0 s.mem k
def State.tagOf (s : State) (w : Nat) : Tag := kget .full s.tags w
def State.bytesAt (s : State) (k n : Nat) : List Byte := (List.range n).map fun i => s.byte (k + i)
def State.wordAt (s : State) (k : Nat) : Word := bytesWord (s.bytesAt k 8)
def State.vecAt (s : State) (k : Nat) : Vec := bytesVec (s.bytesAt k 256)

/-! ## Writing -/

/-- Write bytes; every word of tagged storage they touch becomes FULL (R57), and a word written whole loses its
uncorrectable mark (R402). -/
def Change.write (c : Change) (k : Nat) (bs : List Byte) : Change :=
  let words := (List.range ((k + bs.length + 7) / 8 - k / 8)).map (k / 8 + ·)
  let whole := words.filter fun w => decide (k ≤ w * 8) && decide (w * 8 + 8 ≤ k + bs.length)
  if bs.isEmpty then c
  else { c with ops := c.ops ++ (StoreOp.bytes k bs :: (if tagged k then words.map fun w => StoreOp.tag w .full else []))
      ++ whole.map fun w => StoreOp.bad w false }
def Change.setTag (c : Change) (w : Nat) (t : Tag) : Change := c.op (.tag w t)
/-- Write a word with a tag: a value FULL, or a fault record POISON (R56, R58). -/
def Change.putWord (c : Change) (k : Nat) (v : Word) (t : Tag) : Change := (c.op (.bytes k (wordBytes v))).op (.tag (k / 8) t)

/-! ## Geometry (R10 to R15, R40) -/

def logicalX (l : Nat) : Nat := l % 192
def logicalY (l : Nat) : Nat := l / 192
def clusterOf (l : Nat) : Nat := logicalY l / 12 * 12 + logicalX l / 16
/-- The index of a logical core in its cluster, ly×16 + lx (R145). -/
def indexOf (l : Nat) : Nat := logicalY l % 12 * 16 + logicalX l % 16
/-- The logical core of an index in a cluster. -/
def logicalAt (clu i : Nat) : Nat := (clu / 12 * 12 + i / 16) * 192 + (clu % 12 * 16 + i % 16)
/-- Ring position in a cluster (R10). -/
def ringOf (l : Nat) : Nat :=
  let lx := logicalX l % 16
  let ly := logicalY l % 12
  ly * 16 + (if ly % 2 = 0 then lx else 15 - lx)
/-- The logical core at a ring position of a cluster. -/
def logicalRing (clu r : Nat) : Nat :=
  let ly := r / 16
  logicalAt clu (ly * 16 + (if ly % 2 = 0 then r % 16 else 15 - r % 16))
/-- The physical core that the reset map gives a logical core (R12). -/
def defaultPhys (l : Nat) : Nat := logicalY l * 204 + logicalX l / 16 * 17 + logicalX l % 16
/-- The physical core of a logical core (R12). -/
def State.phys (s : State) (l : Nat) : Nat := (s.dev.coreMap.get (defaultPhys l, false) l).1
/-- The logical core is marked retired, or is no core at all. -/
def State.retired (s : State) (l : Nat) : Bool := (s.dev.coreMap.get (defaultPhys l, false) l).2 || decide (18432 ≤ l)
/-- The eight service cores stand after the compute cores in the model's numbering (R8). -/
def serviceCore (p : Nat) : Bool := decide (19584 ≤ p) && decide (p < 19592)
/-- The cluster whose columns hold a physical core (R11); the service cluster is number 96. It holds no arrays and no copy engines.
(DESIGN CHOICE, log entry 125.) -/
def physCluster (p : Nat) : Nat := p / 204 / 12 * 12 + p % 204 / 17
/-- The logical core that maps to a physical core. -/
def State.logical (s : State) (p : Nat) : Option Nat :=
  match s.dev.coreMap.find? (fun e => e.2.1 == p && !e.2.2) with
  | some e => some e.1
  | none =>
    if p % 204 % 17 < 16 && decide (p < 19584) then
      let l := p / 204 * 192 + (p % 204 / 17 * 16 + p % 204 % 17)
      if (s.dev.coreMap.find l).isNone then some l else none
    else none
/-- The logical number of the core whose group is being run. -/
def State.myLogical (s : State) : Nat := (s.logical s.dev.cur.core).getD 0
def State.myCluster (s : State) : Nat := physCluster s.dev.cur.core
/-- The live cores of a cluster in ring order (R40). -/
def State.ring (s : State) (clu : Nat) : List Nat := ((List.range 192).map (logicalRing clu)).filter fun l => !s.retired l
/-- The cores of a ring after a core, itself last. -/
def ringFrom (ring : List Nat) (l : Nat) : List Nat :=
  (ring.dropWhile (· != l)).drop 1 ++ ring.takeWhile (· != l) ++ [l]
/-- East and west neighbours on the Towpath, as physical cores (R40). -/
def State.east (s : State) (l : Nat) : Nat := s.phys ((ringFrom (s.ring (clusterOf l)) l).headD l)
def State.west (s : State) (l : Nat) : Nat :=
  s.phys ((ringFrom (s.ring (clusterOf l)) l).dropLast.getLastD l)
/-- The die of a cluster, one quarter of the columns and rows each (R9). The service cluster, and what comes from outside, is served by
the stations, the graph engine and the trace of die D0. (DESIGN CHOICE, log entry 125.) -/
def dieOf (clu : Nat) : Nat := if clu < 96 then clu / 12 / 4 * 2 + clu % 12 / 6 else 0

/-! ## The running context -/

def State.here (s : State) : Nat := s.dev.cur.core
def State.slot (s : State) : Nat := s.dev.cur.slot
/-- The context as the group's instructions see it: neither word of a pair sees what the other does, and an MTC or a SETWP of it
takes effect from the next group (R21, R53, R63). -/
def State.opCtx (s : State) : Ctx :=
  match s.snap with
  | some n => n.ctx
  | none => s.me
def State.act (s : State) : Act := s.opCtx.act
def State.speculative (s : State) : Bool := s.opCtx.shadow.isSome
def State.contained (s : State) : Bool := !s.act.open_
/-- Effects go to the hold buffer: the activation is contained, or speculative (R233, R301). -/
def State.holding (s : State) : Bool := s.contained || s.speculative
/-- A harvest context: slots 11 to 14 (R16). -/
def State.harvest (s : State) : Bool := decide (11 ≤ s.slot ∧ s.slot ≤ 14)
/-- Privileged mode (R32). -/
def State.privileged (s : State) : Bool :=
  serviceCore s.here || (s.slot == 15 && s.my.firmware) || (s.harvest && s.me.service)
/-- Slot 15 while it handles a trap (R32). -/
def State.handlingTrap (s : State) : Bool := s.slot == 15 && s.my.handling.isSome
def State.fsx (s : State) : Bool := s.opCtx.mode.getLsbD 1
def State.groupAddr (s : State) : Word := s.dev.cur.addr
def State.nextGroup (s : State) : Word := s.dev.cur.addr + BitVec.ofNat 64 s.dev.cur.size

/-- The speculation tag of a speculative activation: its core, its slot and the low bits of the slot's binding count (R318). -/
def tagNum (logical slot count : Nat) : Nat := 1 + logical * 2 ^ 22 + slot * 2 ^ 18 + count % 2 ^ 18
def State.specTag (s : State) : Nat := tagNum s.myLogical s.slot (s.my.bindCount.get 0 s.slot)
/-- The graph node whose launch a core runs. -/
def Dev.nodeOf (d : Dev) (p : Nat) : Option Nat :=
  match (d.cores.get {} p).launch with
  | none => none
  | some n => match d.launches.find n with
    | some l => if l.producer = 2 then some l.node else none
    | none => none
/-- The origin that an effect of the running group carries. -/
def State.origin (s : State) : Origin :=
  let a := s.act
  { core := s.here, slot := s.slot, act := a.num, tenant := s.opCtx.tenant, pid := s.opCtx.pid, dom := a.dom, ts := a.ts,
    fsx := s.fsx, mark := a.mark.map fun sc => (sc, a.rels), markTs := a.relTs, chan := a.chan, rep := a.rep && !a.open_, entry := a.entry,
    report := a.report, harvest := s.harvest, tag := if s.speculative then s.specTag else 0, node := s.dev.nodeOf s.here }

/-! ## Registers (R51 to R57) -/

/-- The key of a byte of a context's workspace. -/
def State.wsKey (s : State) (p sl off : Nat) : Nat :=
  if 11 ≤ sl ∧ sl ≤ 14 then reserveKey p sl off else nearKey p ((s.ctx p sl).wp + off)
/-- The key of a byte of the running context's workspace: the next group after a SETWP is the first to use the new WP (R53). -/
def State.wk (s : State) (off : Nat) : Nat :=
  if 11 ≤ s.slot ∧ s.slot ≤ 14 then reserveKey s.here s.slot off else nearKey s.here (s.opCtx.wp + off)
/-- Keys of the registers of the running context. -/
def State.wKey (s : State) (i : Reg) : Nat := s.wk (8 * i.toNat)
def State.mKey (s : State) (i : BitVec 3) : Nat := s.wk (0x100 + 8 * i.toNat)
def State.pKey (s : State) : Nat := s.wk 0x140
def State.vKey (s : State) (i : Reg) : Nat := s.wk (0x200 + 256 * i.toNat)

/-- The storage that operands are read from: the snapshot of a pair, or the state itself (R21). -/
def State.view (s : State) : State :=
  match s.snap with
  | some n => { s with mem := n.mem, tags := n.tags, snap := none }
  | none => s

/-- Register reads: w0 is 0, m0 all ones and p0 one (R52). -/
def State.w (s : State) (i : Reg) : Word := if i = 0 then 0 else s.view.wordAt (s.wKey i)
def State.m (s : State) (i : BitVec 3) : Word := if i = 0 then BitVec.allOnes 64 else s.view.wordAt (s.mKey i)
def State.p (s : State) (i : BitVec 3) : Bool := if i = 0 then true else (s.view.byte s.pKey).getLsbD i.toNat
def State.v (s : State) (i : Reg) : Vec := s.view.vecAt (s.vKey i)

/-- Words that an operand reads: none for a constant. -/
def State.srcW (s : State) (i : Reg) : List Nat := if i = 0 then [] else [s.wKey i / 8]
def State.srcM (s : State) (i : BitVec 3) : List Nat := if i = 0 then [] else [s.mKey i / 8]
def State.srcP (s : State) (i : BitVec 3) : List Nat := if i = 0 then [] else [s.pKey / 8]
def State.srcV (s : State) (i : Reg) : List Nat := (List.range 32).map (s.vKey i / 8 + ·)

/-- What a group reads and writes, for the tag rules and the scoreboard (R26, R57, R58): register words read, written whole and
written in part, and words that a memory access reads and writes in part, which the scoreboard does not cover (R27). -/
structure Foot where
  src : List Nat := []
  dst : List Nat := []
  part : List Nat := []
  mem : List Nat := []
  memPart : List Nat := []
deriving DecidableEq, Repr

/-! ## Traps -/

/-- A trap of the running group: TRAPPC is the group address. -/
def State.trap (s : State) (cause : Nat) (addr aux : Word) : Trap :=
  { cause := cause, pc := s.groupAddr, addr := addr, aux := aux, slot := s.slot }
/-- A trap whose TRAPADDR is the group address. -/
def State.trapHere (s : State) (cause : Nat) (aux : Word) : Trap := s.trap cause s.groupAddr aux

/-- Illegal encoding of the word being run, with its reason (R29, R30). -/
def State.illegal (s : State) (reason : Nat) : Trap :=
  s.trap 0x001 (s.groupAddr + (if s.dev.cur.second then 4 else 0))
    (BitVec.ofNat 64 (s.dev.cur.word * 2 ^ 32 + (if s.dev.cur.second then 256 else 0) + reason))

/-- The local address of a word of storage, for TRAPADDR (R397). -/
def localAddr (k : Nat) : Word :=
  BitVec.ofNat 64 (if trackBase ≤ k ∧ k < bstoreBase then 0x40000 + (k - trackBase) % 2097152
    else if nearBase ≤ k ∧ k < trackBase then (k - nearBase) % 262144
    else if reserveBase ≤ k then (k - reserveBase) % 32768
    else k)

/-- The trap that a fault record raises: its cause, the word's address and the record (R57); an array's result names the array
and the row (R293), an INVOKE's outcome the rank and the index (R215; DEDUCED, log entry 22). Where TAGS has made the record, its cause
is raised as R57 says, be it one that R396 does not list. (DESIGN CHOICE, log entry 130.) -/
def State.recordTrap (s : State) (r addr : Word) : Trap :=
  let cause := r.toNat % 512
  if cause = 0x145 ∨ cause = 0x146 then s.trap cause (BitVec.ofNat 64 (bits r 39 3)) (BitVec.ofNat 64 (bits r 16 23))
  else if cause = 0x1C1 then s.trap cause (BitVec.ofNat 64 (bits r 16 12)) (BitVec.ofNat 64 (bits r 56 8))
  else s.trap cause addr r
/-- The trap for reading a POISON or reserved-tag word, or for writing part of one (R57). -/
def State.poisonTrap (s : State) (w : Nat) : Option Trap :=
  match s.view.tagOf w with
  | .poison => let r := s.view.wordAt (w * 8); some (s.recordTrap r (localAddr (w * 8)))
  | .res => some (s.trap 0x0A1 (localAddr (w * 8)) (localAddr (w * 8)))
  | _ => none
/-- A near-SRAM or reserve-bank word with an uncorrectable error becomes POISON with this record when it is read (R402). -/
def addrRecord (a : Nat) : Word := BitVec.ofNat 64 (0x0A2 + a % 2 ^ 18 * 65536)
def sramRecord (w : Nat) : Word := addrRecord (localAddr (w * 8)).toNat
/-- A message's words as they are delivered: one with an uncorrectable error POISON with its record (R402). -/
def Msg.delivered (m : Msg) : List (Word × Bool) := m.words.zipIdx.map fun w => match m.bad.find w.2 with
  | some a => (addrRecord a, true)
  | none => w.1
/-- The core whose near SRAM or reserve bank holds a key. -/
def coreOfKey (k : Nat) : Nat := if reserveBase ≤ k then (k - reserveBase) / 32768 else (k - nearBase) / 262144
/-- An uncorrectable word becomes POISON and is counted (R402, R419). -/
def Change.sramPoison (c : Change) (w : Nat) : Change :=
  ((c.putWord (w * 8) (sramRecord w) .poison).op (.bad w false)).count (coreOfKey (w * 8)) 33
/-- A word of near SRAM or of a reserve bank. -/
def inSram (w : Nat) : Bool := (decide (nearBase ≤ w * 8) && decide (w * 8 < trackBase)) || decide (reserveBase ≤ w * 8)
def State.sramBad (s : State) (w : Nat) : Bool := s.bad.contains w && inSram w
/-- A word with an error that the next read or scrub corrects, counts and writes back (R402, R419). -/
def State.sramSoft (s : State) (w : Nat) : Bool := s.soft.contains w && !s.bad.contains w && inSram w
def Change.sramFix (c : Change) (w : Nat) : Change := (c.op (.fixed w)).count (coreOfKey (w * 8)) 32
/-- The hold buffer or the input buffer of a core is read: the errors in it that can be corrected are. (DESIGN CHOICE, log entry 143.) -/
def Change.heldRead (c : Change) (p : Nat) : Change :=
  let n := (c.dev.cores.get {} p).softHeld
  if n = 0 then c else (c.core p fun k => { k with softHeld := 0 }).count p 32 n
def Change.inputRead (c : Change) (p : Nat) : Change :=
  let n := (c.dev.cores.get {} p).softInput
  if n = 0 then c else (c.core p fun k => { k with softInput := 0 }).count p 32 n
/-- Words that an access touches, by key, and those that it covers only in part. -/
def wordsOf (k n : Nat) : List Nat := (List.range ((k + n + 7) / 8 - k / 8)).map (k / 8 + ·)
def partialWords (k n : Nat) : List Nat := (wordsOf k n).filter fun w => !(decide (k ≤ 8 * w) && decide (8 * w + 8 ≤ k + n))
/-- Correct those of some words that can be. -/
def State.fixWords (s : State) (c : Change) (ws : List Nat) : Change := (ws.filter s.sramSoft).eraseDups.foldl Change.sramFix c

/-! ## Presenting a group (R21, R26, R31, R57, R58) -/

/-- A pending fill of the running context on a word (R58). -/
def State.fillPending (s : State) (w : Nat) : Bool :=
  s.dev.fills.any fun f => f.2.core == s.here && f.2.slot == s.slot && f.2.dst == some (w * 8)
/-- Any pending fill of a context; neither word of a pair sees a fill that the other begins (R21). -/
def State.anyFill (s : State) (p sl : Nat) : Bool :=
  s.dev.fills.any fun f => f.2.core == p && f.2.slot == sl && !f.2.dropped && match s.snap with
    | some n => decide (f.1 < n.fresh)
    | none => true
/-- The context whose pending results the scoreboard holds, as the pair read it. -/
def State.board (s : State) : List Pipe := s.opCtx.pipe
/-- Cycles until a word's pending fixed-latency result is readable (R26). -/
def State.notReady (s : State) (w : Nat) : Nat :=
  (s.board.filter fun e => e.words.contains w).foldl (fun n e => max n (e.due - s.dev.now)) 0
/-- The offset of a word in the running context's workspace. -/
def State.wsOffset (s : State) (w : Nat) : Nat := w * 8 - s.wk 0

/-- What a presented group comes to: it waits, it traps, it changes the state, or it starts work that ends in a later cycle, in
which the group is performed. What a waiting or trapping group leaves beside its trap is its `c`. -/
inductive Verdict where
  | waits (w : Wait) (c : Change)
  | traps (t : Trap) (c : Change)
  | runs (c : Change)
  | starts (c : Change)
deriving DecidableEq, Repr

/-- A verdict whose group has read some words with errors that can be corrected (R402). -/
def Verdict.fixing (ws : List Nat) : Verdict → Verdict
  | .waits w c => .waits w (ws.foldl Change.sramFix c)
  | .traps t c => .traps t (ws.foldl Change.sramFix c)
  | .runs c => .runs (ws.foldl Change.sramFix c)
  | .starts c => .starts (ws.foldl Change.sramFix c)
/-- A body's result as a verdict. -/
def State.verdict (s : State) : Except Trap Change → Verdict
  | .ok c => .runs c
  | .error t => .traps t s.keep

/-- The trap of a word that a group reads or writes in part, with what it leaves: an uncorrectable word becomes POISON (R57, R402). -/
def State.wordTrap (s : State) (w : Nat) : Option (Trap × Change) :=
  if s.sramBad w then
    some (s.recordTrap (sramRecord w) (localAddr (w * 8)), s.keep.sramPoison w)
  else (s.poisonTrap w).map fun t => (t, s.keep)
/-- The order of R31 within one instruction: it waits on an EMPTY source, on what it needs, or on a pending fill of its
destination; then the scoreboard; then POISON sources, and its own faults. Where several words are not yet readable, TRAPAUX of 0x004
names the first of the sources and then of the destinations, with bits 11:0 of its offset. (DESIGN CHOICE, log entry 115.) -/
def State.judge (s : State) (fp : Foot) (wait : Option Wait) (body : Verdict) : Verdict :=
  if (fp.src ++ fp.mem).any fun w => s.view.tagOf w == .empty then .waits .tag s.keep
  else match wait with
  | some w => .waits w s.keep
  | none =>
    if (fp.dst ++ fp.part).any s.fillPending then .waits .fill s.keep
    else match (fp.src ++ fp.dst ++ fp.part).find? fun w => decide (0 < s.notReady w) with
    | some w =>
      if s.opCtx.mode.getLsbD 0 then
        .traps (s.trapHere 0x004 (BitVec.ofNat 64 (s.wsOffset w % 4096 + s.notReady w % 16 * 4096))) s.keep
      else .waits .interlock s.keep
    | none =>
      let ws := fp.src ++ fp.part ++ fp.mem ++ fp.memPart
      match ws.findSome? s.wordTrap with
      | some (t, c) => .traps t c
      | none => body.fixing (ws.filter s.sramSoft).eraseDups

/-- Make a change and note what the group or event did. -/
def State.note (s : State) (c : Change) (l : Last) : State :=
  let t := s.apply c
  { t with dev := { t.dev with last := l } }

/-- The state that a verdict leaves. -/
def State.settle (s : State) : Verdict → State
  | .waits w c => s.note c (.waits w)
  | .traps t c => s.note c (.traps t)
  | .runs c => s.note c .ran
  | .starts c => s.note c .starts

/-- Present an instruction as a group's operation. -/
def State.present (s : State) (fp : Foot) (wait : Option Wait) (body : Verdict) : Host.Outcome State Fault Refusal :=
  .next (s.settle (s.judge fp wait body))
/-- The meaning of an instruction whose own faults leave nothing behind (R21). -/
def State.issue (s : State) (fp : Foot) (wait : Option Wait) (body : Except Trap Change) :
    Host.Outcome State Fault Refusal := s.present fp wait (s.verdict body)

/-- The meaning of an event: it happens. -/
def State.occur (s : State) (c : Change) : Host.Outcome State Fault Refusal := .next (s.note c .ran)

/-! ## Results -/

/-- Write bytes of registers with a latency: at once when the next cycle may read them, else through the scoreboard
(R25, R26, R55). Each pair is a key and the bytes that go there. -/
def Change.result (c : Change) (lat : Nat) (rs : List (Nat × List Byte)) : Change :=
  if lat ≤ 1 then rs.foldl (fun c r => c.write r.1 r.2) c
  else
    let words := rs.flatMap fun r => (List.range ((r.1 + r.2.length + 7) / 8 - r.1 / 8)).map (r.1 / 8 + ·)
    if rs.isEmpty then c
    else c.me fun x => { x with pipe := x.pipe ++ [{ due := c.dev.now + lat, words := words, bytes := rs }] }

/-- Scalar, mask, predicate and vector results; w0, m0 and p0 take none (R52). -/
def State.setW (s : State) (c : Change) (lat : Nat) (i : Reg) (v : Word) : Change :=
  if i = 0 then c else c.result lat [(s.wKey i, wordBytes v)]
def State.setM (s : State) (c : Change) (lat : Nat) (i : BitVec 3) (v : Word) : Change :=
  if i = 0 then c else c.result lat [(s.mKey i, wordBytes v)]
def State.dstW (s : State) (i : Reg) : List Nat := s.srcW i
def State.dstM (s : State) (i : BitVec 3) : List Nat := s.srcM i
def State.dstP (s : State) (i : BitVec 3) : List Nat := s.srcP i

/-! ## Addresses (R145, R146, R375) -/

def AddrMode.num : AddrMode → Nat
  | .l => 0 | .cd => 1 | .ci => 2 | .g => 3

/-- The fault of byte `v` under a mode, for a core of cluster `clu`, with the index that 0x084 reports (R145). -/
def State.badByte (s : State) (clu : Nat) (md : AddrMode) (v : Nat) : Option (Nat × Nat) :=
  match md with
  | .l => if v < 0x40000 then none else if v < 0x240000 then some (0x082, 0) else some (0x081, 0)
  | .cd =>
    let sel := v / 8388608
    let o := v % 8388608
    if 2147483648 ≤ v then some (0x083, 0)
    else if 192 ≤ sel ∧ sel ≤ 199 then (if clu < 96 then none else some (0x083, 0))
    else if 199 < sel ∨ 0x40000 ≤ o then some (0x083, 0)
    else if s.retired (logicalAt clu sel) then some (0x084, sel) else none
  | .ci =>
    if 0x3000000 ≤ v then some (0x085, 0)
    else if s.retired (logicalAt clu (v / 8 % 192)) then some (0x084, v / 8 % 192) else none
  | .g => if v < 2 ^ 57 then none else some (0x086, 0)

/-- The region that a byte lies in, which an access may not leave (R146). -/
def regionOf (md : AddrMode) (v : Nat) : Nat :=
  match md with
  | .cd => v / 8388608 + 1
  | _ => 0

/-- The fault of an access of `n` bytes, the first word that does not qualify deciding (R145, R146). -/
def State.badRange (s : State) (clu : Nat) (md : AddrMode) (v n : Nat) : Option (Nat × Nat) :=
  (List.range ((n + 7) / 8)).findSome? fun i =>
    let a := v + 8 * i
    match s.badByte clu md a with
    | some f => some f
    | none => if regionOf md a = regionOf md v then none else some (0x083, 0)

/-- TRAPAUX of the address causes (R163); of a BREAD longer than 256 bytes it holds the size less one modulo 256. (DESIGN CHOICE, log
entry 140.) -/
def accessAux (md : AddrMode) (n : Nat) (wr : Bool) : Word :=
  BitVec.ofNat 64 (AddrMode.num md + (n - 1) % 256 * 4 + (if wr then 1024 else 0))

/-- Every byte lies in one granted range of the core (R375). -/
def granted (g : Option Grant) (v n : Nat) : Bool :=
  match g with
  | none => false
  | some g => (List.range n).all fun i =>
      (decide (g.base0 ≤ v + i) && decide (v + i < g.base0 + g.len0)) ||
      (decide (g.base1 ≤ v + i) && decide (v + i < g.base1 + g.len1))

/-- Check an access of `n` bytes that must be aligned to `al`: alignment, the harvest ranges, then the window and the
regions. -/
def State.checkAccess (s : State) (md : AddrMode) (v : Word) (n al : Nat) (wr : Bool) : Option Trap :=
  let a := v.toNat
  if a % al ≠ 0 then some (s.trap 0x080 v (accessAux md n wr))
  else if s.harvest && (md == .cd || md == .ci) then some (s.trap 0x08A v (accessAux md n wr))
  else match s.badRange s.myCluster md a n with
  | some (0x084, i) => some (s.trap 0x084 v (BitVec.ofNat 64 i))
  | some (c, _) => some (s.trap c v (accessAux md n wr))
  | none =>
    if s.harvest && md == .l && !granted s.my.grant a n then some (s.trap 0x08A v (accessAux md n wr)) else none

/-- Where a valid address of a core leads: a byte of near SRAM or of a B-store, or a virtual address. -/
def State.place (s : State) (p : Nat) (md : AddrMode) (v : Nat) : Place :=
  let clu := physCluster p
  match md with
  | .l => .near p v
  | .cd =>
    if 192 ≤ v / 8388608 then .bstore (clu * 8 + (v / 8388608 - 192)) (v % 8388608)
    else .near (s.phys (logicalAt clu (v / 8388608))) (v % 8388608)
  | .ci => .near (s.phys (logicalAt clu (v / 8 % 192))) (v / 8 / 192 * 8 + v % 8)
  | .g => .virt v

/-- The flat key of a place whose address is read. -/
def Place.key : Place → Nat
  | .near p o => nearKey p o
  | .bstore r o => bstoreKey r o
  | .phys a => a
  | _ => 0

/-! ## Range locks (R151, R281) -/

def overlaps (a n b m : Nat) : Bool := decide (a < b + m) && decide (b < a + n) && decide (0 < n) && decide (0 < m)

/-- The registered lock that an access to a key range hits: a write lock against anything, a read lock against a write. -/
def lockHit (ls : List Lock) (k n : Nat) (wr : Bool) : Option Lock :=
  ls.find? fun l => (l.write || wr) && l.ranges.any fun r => overlaps k n r.1 r.2

/-- The locks that guard a key: those of its cluster, or those of the home slices. -/
def State.locksAt (s : State) (k : Nat) : List Lock :=
  if k < nearBase then s.dev.sliceLocks
  else if k < trackBase then (s.clu (physCluster ((k - nearBase) / 262144))).locks
  else if k < bstoreBase then (s.clu (physCluster ((k - trackBase) / 2097152))).locks
  else if k < reserveBase then (s.clu ((k - bstoreBase) / 8388608 / 8)).locks
  else []

/-- The trap of a local access that hits a lock (R151, R163). -/
def State.lockTrap (s : State) (ea n : Nat) (wr : Bool) : Option Trap :=
  match lockHit (s.clu s.myCluster).locks (nearKey s.here ea) n wr with
  | some l => some (s.trap 0x0B0 (BitVec.ofNat 64 ea)
      (BitVec.ofNat 64 ((if wr then 1024 else 0) + l.entry % 32 * 2048)))
  | none => none

/-! ## Tracked reads and conflicts (R302 to R307) -/

/-- The home slice of a line (R346). -/
def sliceOf (pa : Nat) : Nat :=
  (pa / 64 % 128) ^^^ (pa / 8192 % 128) ^^^ (pa / 1048576 % 128) ^^^ (pa / 2 ^ 27 % 128) ^^^ (pa / 2 ^ 34 % 128) ^^^ (pa / 2 ^ 41 % 128)
/-- The home of a key, with its tracker's lines: a core, a cluster unit or a home slice (R302, R303). -/
def homeOf (k : Nat) : Nat × Nat × Nat :=
  if k < nearBase then (2, sliceOf k, 16384)
  else if k < trackBase then (0, (k - nearBase) / 262144, 512)
  else if k < bstoreBase then (0, (k - trackBase) / 2097152, 512)
  else (1, (k - bstoreBase) / 8388608 / 8, 256)

/-- The lines that an access to a key range touches. -/
def linesOf (k n : Nat) : List Nat := (List.range ((k + n + 63) / 64 - k / 64)).map (k / 64 + ·)

/-- The lines of a tracker that stand at a home. -/
def State.linesAt (s : State) (h : Nat × Nat × Nat) : Nat := (s.dev.tracker.filter fun e => homeOf (e.1 * 64) == h).length
/-- The new lines of an access have no room in their homes' trackers (R304). -/
def State.linesFull (s : State) (lines : List Nat) : Bool :=
  let new := (lines.filter fun l => (s.dev.tracker.find l).isNone).map fun l => homeOf (l * 64)
  new.any fun h => decide (h.2.2 < s.linesAt h + (new.filter (· == h)).length)
def State.trackerFull (s : State) (k n : Nat) : Bool := s.linesFull (linesOf k n)

def Reader.fold : Reader → Reader
  | .one c _ _ d ts => .cluster (physCluster c) d ts ts
  | r => r
/-- Join a folded reader to the slots of its cluster and domain. -/
def joinReader (r : Reader) : List Reader → List Reader
  | [] => [r]
  | x :: l =>
    match x, r with
    | .cluster c d lo hi, .cluster c' d' lo' hi' =>
      if c = c' ∧ d = d' then .cluster c d (min lo lo') (max hi hi') :: l else x :: joinReader r l
    | .domain d lo hi, .cluster _ d' lo' hi' =>
      if d = d' then .domain d (min lo lo') (max hi hi') :: l else x :: joinReader r l
    | .domain d lo hi, .domain d' lo' hi' =>
      if d = d' then .domain d (min lo lo') (max hi hi') :: l else x :: joinReader r l
    | _, _ => x :: joinReader r l
def Reader.widen : Reader → Reader
  | .cluster _ d lo hi => .domain d lo hi
  | .one _ _ _ d ts => .domain d ts ts
  | r => r
/-- Add a reader to a line's eight slots, folding them when a ninth arrives (R303). -/
def addReader (l : List Reader) (r : Reader) : List Reader :=
  if l.contains r then l
  else if l.length < 8 && l.all (fun x => match x with | .one .. => true | _ => false) then l ++ [r]
  else
    let f := (l ++ [r]).foldl (fun acc x => joinReader x.fold acc) []
    if f.length ≤ 8 then f else f.foldl (fun acc x => joinReader x.widen acc) []

/-- Record a read by a speculative activation (R302). -/
def Change.track (c : Change) (o : Origin) (k n : Nat) : Change :=
  { c with dev := { c.dev with
    tracker := (linesOf k n).foldl (fun t l => t.upd [] l fun rs => addReader rs (.one o.core o.slot o.act o.dom o.ts))
      c.dev.tracker } }
/-- Remove every tracked read of an activation (R306, R311). -/
def untrack (t : Map (List Reader)) (core slot act : Nat) : Map (List Reader) :=
  (t.map fun e => (e.1, e.2.filter fun r => match r with
    | .one c s a _ _ => !(c == core && s == slot && a == act)
    | _ => true)).filter fun e => !e.2.isEmpty

/-- Every speculative activation of a domain above a timestamp, of one cluster or of all. -/
def Dev.specAbove (d : Dev) (clu : Option Nat) (dom ts : Nat) : List (Nat × Nat × Nat) :=
  d.cores.flatMap fun c => c.2.ctxs.filterMap fun x =>
    if x.2.shadow.isSome && x.2.act.dom == dom && decide (ts < x.2.act.ts)
      && (match clu with | some n => physCluster c.1 == n | none => true)
    then some (c.1, x.1, x.2.act.num) else none

/-- The activations that a write aborts. `w` is the writer's domain and timestamp; a write without them aborts every reader
of the line (R305). -/
def Dev.victims (d : Dev) (k n : Nat) (w : Option (Nat × Nat)) : List (Nat × Nat × Nat) :=
  (linesOf k n).flatMap fun l => (d.tracker.get [] l).flatMap fun r =>
    let hits (dom ts : Nat) : Bool := match w with
      | some (wd, wt) => dom != wd || decide (wt < ts)
      | none => true
    let floor (dom : Nat) : Nat := match w with
      | some (wd, wt) => if dom = wd then wt else 0
      | none => 0
    match r with
    | .one c s a dom ts => if hits dom ts then [(c, s, a)] else []
    | .cluster clu dom _ hi => if hits dom hi then d.specAbove (some clu) dom (floor dom) else []
    | .domain dom _ hi => if hits dom hi then d.specAbove none dom (floor dom) else []

/-- Send the abort notices of a write that is performed (R305, R307). -/
def Change.conflict (c : Change) (o : Origin) (stamped : Bool) (k n : Nat) : Change :=
  (c.dev.victims k n (if stamped then some (o.dom, o.ts) else none)).foldl (fun c v =>
    let id := c.dev.fresh
    (c.dv fun d => { d with notices := d.notices.set id { core := v.1, slot := v.2.1, act := v.2.2, writer := o } }).soon
      .abort { a := id }) c

/-! ## Owner touches (R376) -/

/-- A trigger reaches a core in `d` cycles, and its revocation starts there unless an earlier one has (R377). -/
def Change.revokeIn (c : Change) (p d : Nat) : Change :=
  let k := c.dev.cores.get {} p
  let at_ := c.dev.now + d
  if k.grant.isSome && (!k.revoking || decide (at_ < k.revokeAt)) then
    (c.core p fun k => { k with revoking := true, revokeAt := at_ }).sched (at_ + 9) .revocation { a := p, b := 9, c := at_ }
  else c
/-- A trigger at the core itself: an access by other than a harvest context to a granted range or track, HREVOKE, a new grant, a
wake, a stop. -/
def Change.revoke (c : Change) (p : Nat) : Change := c.revokeIn p 0
/-- A trigger of another unit reaches the core within 52 cycles. -/
def Change.revokeFrom (c : Change) (p : Nat) : Change := (c.revokeIn p (Config.delay c.dev.fresh % 53)).tick
def Change.touch (c : Change) (p ea n : Nat) : Change :=
  match (c.dev.cores.get {} p).grant with
  | some g => if overlaps ea n g.base0 g.len0 || overlaps ea n g.base1 g.len1 then c.revoke p else c
  | none => c
def Change.touchTrack (c : Change) (p t : Nat) : Change :=
  match (c.dev.cores.get {} p).grant with
  | some g => if g.tmask / 2 ^ t % 2 = 1 then c.revoke p else c
  | none => c

/-! ## The hold buffer (R233, R236, R301) -/

/-- Bytes that an effect occupies. -/
def Effect.cost : Effect → Nat
  | .store _ _ bs => if bs.length ≤ 8 then 16 else bs.length + 16
  | .send _ _ _ v => if v then 272 else 16
  | .task .. => 48
  | .fence _ => 8
  | .localStore _ bs => if bs.length ≤ 8 then 16 else (bs.length + 16 + 7) / 8 * 8
  | .trackWrite .. => 272
  | .feed .. => 272
  | .copy .. => 112
  | _ => 16

def heldBytes (l : List Held) : Nat := l.foldl (fun n h => n + h.bytes) 0
def State.ownHeld (s : State) : Nat := heldBytes (s.my.hold.filter fun h => h.org.act == s.act.num)

/-- The effects of a group go to the hold buffer: the activation is contained, or a local write is speculative. -/
def State.noRoom (s : State) (need : Nat) : Option Wait :=
  if s.holding && decide (16384 < heldBytes s.my.hold + heldBytes s.my.relq + need) &&
      (s.speculative || decide (s.ownHeld + need ≤ 16384)) then some .hold else none
/-- Hold buffer overflow (R236). -/
def State.overflow (s : State) (need : Nat) : Option Trap :=
  if s.holding && decide (16384 < s.ownHeld + need) then
    some (s.trapHere 0x194 (BitVec.ofNat 64 (s.ownHeld % 65536 + need % 65536 * 65536)))
  else none

/-- The event in which an effect reaches its home or its unit. -/
def Effect.arrival : Effect → Instr
  | .store md _ _ => if md = .g then .translation else .arrivingAccess
  | .deposit .. => .deposit
  | .atomic sc _ _ _ _ _ => if sc = .dev ∨ sc = .sys then .translation else .atomicExecution
  | .send .. => .messageAccept
  | .spawn .. => .messageAccept
  | .task .. => .taskEntry
  | .command .. => .arrayPush
  | .feed .. => .arrayPush
  | .mset .. => .msetAtArray
  | .mfree .. => .mfreeAtArray
  | .copy .. => .copyStart
  | .gdone _ => .nodeDone
  | .glaunch .. => .graphInstance
  | .invoke .. => .retryWait
  | .fence _ => .release
  | .localStore .. => .deposit
  | .trackWrite .. => .deposit

/-- An effect is a message. -/
def Effect.isMessage : Effect → Bool
  | .send .. => true
  | .spawn .. => true
  | .task .. => true
  | _ => false
/-- A released effect carries to its home the timestamp that its activation has at the release, and a report of it says whether the
activation was repeatable and not open then; a message carries the timestamp of its sending group (R297, R305, R309, R408).
(DEDUCED, log entry 128.) -/
def Held.stamped (a : Act) (h : Held) : Held :=
  if h.eff.isMessage then h else { h with org := { h.org with ts := a.ts, rep := a.rep && !a.open_ } }
/-- Held effects of an activation are released, behind those that its core released before (R234). -/
def Change.releaseHeld (c : Change) (p : Nat) (a : Act) (pick : Held → Bool) : Change :=
  c.core p fun k => { k with hold := k.hold.filter (fun h => !pick h), relq := k.relq ++ (k.hold.filter pick).map (Held.stamped a) }

/-- Where an effect is bound for. -/
def State.bound (s : State) (p : Nat) : Effect → Place
  | .store md ea _ => s.place p md ea
  | .deposit md ea _ => s.place p md ea
  | .atomic sc _ ea _ _ _ => s.place p (match sc with | .core => .l | .clu => .cd | _ => .g) ea
  | .send t _ _ _ => .chan (s.phys t)
  | .spawn t _ _ _ => .chan (s.phys t)
  | .task t _ => .chan (s.phys t)
  | _ => .unit

/-- The narrowest scope that contains a place, seen from a core (R267, R277). -/
def scopeOf (p : Nat) : Place → Scope
  | .near q _ => if q = p then .core else if physCluster q = physCluster p then .clu else .dev
  | .bstore r _ => if r / 8 = physCluster p then .clu else .dev
  | .chan q => if q = p then .core else if physCluster q = physCluster p then .clu else .dev
  | .away .. => .sys
  | .unit => .clu
  | _ => .dev

def Scope.num : Scope → Nat
  | .core => 0 | .clu => 1 | .dev => 2 | .sys => 3

/-- The scope that contains an effect's place; a GDONE's is the device (R160). -/
def Effect.scope (e : Effect) (p : Nat) (pl : Place) : Scope :=
  match e with
  | .gdone _ => .dev
  | .glaunch .. => .dev
  | .invoke .. => .sys
  | _ => scopeOf p pl

/-- The parts in which an effect travels: a store of more than a word goes word by word (R146, R272).
(DEDUCED, log entry 47.) -/
def Effect.parts : Effect → List Effect
  | .store md ea bs =>
    if bs.length ≤ 8 then [.store md ea bs]
    else (chunks 8 (bs.length / 8) bs).zipIdx.map fun w => .store md (ea + 8 * w.2) w.1
  | e => [e]

/-- The kind, channel and target of an effect in a scope-miss message; none for one that sends no message (R277).
(DEDUCED, log entry 67.) -/
def Effect.missed : Effect → Option (Nat × Nat × Nat)
  | .store _ ea _ => some (0, 0, ea)
  | .deposit _ ea _ => some (0, 0, ea)
  | .atomic _ _ ea _ _ none => some (1, 0, ea)
  | .send t ch _ _ => some (2, ch, t)
  | .spawn t _ _ _ => some (2, 1, t)
  | .task t _ => some (2, 0, t)
  | .copy .. => some (3, 0, 0)
  | .gdone _ => some (3, 0, 0)
  | _ => none
/-- A router strips the mark of an effect whose place lies outside the mark's scope, the first of the marks of its REL (R277). -/
def Change.strips (c : Change) (o : Origin) (what : Option (Nat × Nat × Nat)) (need : Scope) : Bool :=
  match o.mark, what with
  | some (have_, rser), some _ => Scope.num have_ < Scope.num need && !(c.dev.cores.get {} o.core).missed.contains (o.act, rser)
  | _, _ => false
/-- No later effect of the REL makes a message. -/
def Change.stripped (c : Change) (o : Origin) : Change :=
  c.core o.core fun k => { k with missed := (o.act, (o.mark.map fun m => m.2).getD 0) :: k.missed }
/-- Send the scope-miss message at a cycle: `need` is the narrowest scope that contains the place. -/
def Change.tellMiss (c : Change) (o : Origin) (what : Option (Nat × Nat × Nat)) (need : Scope) (at_ : Nat) : Change :=
  match o.mark, what with
  | some (have_, rser), some (kind, chan, target) =>
    let w0 := rser % 2 ^ 32 * 2 ^ 32 + o.slot * 2 ^ 16 + Scope.num have_ * 2 ^ 14 + Scope.num need * 2 ^ 12 + chan * 64 + kind * 16
    c.sched at_ .scopeMiss { a := o.core, b := o.markTs, c := o.dom, words := [BitVec.ofNat 64 w0, BitVec.ofNat 64 target] }
  | _, _ => c
def Change.scopeMiss (c : Change) (o : Origin) (what : Option (Nat × Nat × Nat)) (need : Scope) (at_ : Nat) : Change :=
  if c.strips o what need then (c.stripped o).tellMiss o what need at_ else c
/-- One part of an effect leaves: it becomes a flight, and reaches its home after a time the manual leaves open, `lag` cycles and
more from now. The scope-miss message of one that goes to a station waits for its translation, which says what scope holds its place
(R277). (DEDUCED, log entry 67.) -/
def State.launchPart (s : State) (o : Origin) (whole : Effect) (grp lag : Nat) (bad : Map Nat) (c : Change) (e : Effect) : Change :=
  let id := c.dev.fresh
  let pl := s.bound o.core e
  let cross := c.dev.now + lag + Config.delay (id + 1)
  let virt := match pl with
    | .virt _ => true
    | _ => false
  let miss := virt && c.strips o whole.missed .dev
  let f : Flight := {
    org := o, cargo := .effect e, place := pl, cross := cross, sent := c.dev.now, write := true
    ea := (whole.missed.getD (0, 0, 0)).2.2, grp := some grp, miss := miss, bad := bad }
  let c := (c.tick.tick).dv fun d => { d with flights := d.flights.set id f }
  let c := if virt then (if miss then c.stripped o else c) else c.scopeMiss o whole.missed (e.scope o.core pl) (cross + 1)
  c.sched (cross + 1) e.arrival { a := id, c := cross + 1 }

/-- An effect leaves its core (R234). -/
def State.depart (s : State) (c : Change) (o : Origin) (e : Effect) (lag : Nat := 0) (bad : Map Nat := []) (again : Bool := false) : Change :=
  let released : Change :=
    let c := c.core o.core fun k => { k with released := k.released + 1 }
    if again then c else c.count o.core 18
  let c := match e with
    | .send .. => released
    | .task .. => released
    | .spawn .. => released
    | .store .. => c.count o.core 28
    | _ => c
  e.parts.foldl (s.launchPart o e c.dev.fresh lag bad) c

/-- Start the release queue when it stands still: one effect a cycle (R234). -/
def Change.pump (c : Change) (p : Nat) : Change :=
  let k := c.dev.cores.get {} p
  if k.relDue || k.relq.isEmpty then c
  else (c.core p fun k => { k with relDue := true }).sched (c.dev.now + 1) .release { a := p }

/-- An effect that is not held: it leaves at once, or behind what its activation has still to release (R235). -/
def State.leave (s : State) (c : Change) (e : Effect) (lag : Nat := 0) : Change :=
  let o := s.origin
  if (c.dev.cores.get {} o.core).relq.any fun h => h.org.act == o.act then
    (c.core o.core fun k => { k with
      relq := k.relq ++ [{ org := o, eff := e, bytes := e.cost, ready := c.dev.now + lag }] }).pump o.core
  else s.depart c o e lag

/-- Hold(e) of R50: into the hold buffer of a contained or speculative activation, else at once. An effect of the second word of a
pair whose first word has opened or ended the activation leaves behind what that released. Its value is ready after `lag` cycles. -/
def State.emit (s : State) (c : Change) (e : Effect) (lag : Nat := 0) : Change :=
  let x := (c.dev.cores.get {} s.here).ctx s.slot
  let gone := (s.opCtx.live && !x.live) || (x.act.open_ && x.shadow.isNone)
  if s.holding && !gone then
    c.mine fun k => { k with
      hold := k.hold ++ [{ org := s.origin, eff := e, bytes := e.cost, after := s.speculative, ready := c.dev.now + lag }] }
  else s.leave c e lag

/-- OpenActivation() of R50 and R235: every held effect of the activation goes to the release queue, and the context is held
until the last of them has left. -/
def State.opened (s : State) (c : Change) : Change :=
  if s.contained then
    let own (h : Held) : Bool := h.org.act == s.act.num
    let c := c.releaseHeld s.here { s.act with open_ := true } own
    let c := c.me fun x => { x with act := { x.act with open_ := true, trig := none, kept := [] }
                                    holds := if s.my.hold.any own then .released :: x.holds else x.holds }
    c.pump s.here
  else c

/-! ## Fills (R58) and remote reads (R148) -/

/-- A pending fill of the running context: its destination is set EMPTY (none for w0), and `left` parts are awaited. Its
number is `c.dev.fresh`. -/
def State.fill (s : State) (c : Change) (dst : Option Nat) (left : Nat) (load : Option Nat := none)
    (size : Nat := 8) (sx : Bool := false) (mem : Bool := false) : Change :=
  let f : Fill := { core := s.here, slot := s.slot, act := s.act.num, dst := dst, left := left, load := load, size := size
                    sx := sx, mem := mem }
  let c := (c.dv fun d => { d with fills := d.fills.set d.fresh f }).tick
  match dst with
  | some k => c.setTag (k / 8) .empty
  | none => c

/-- Change a fill that is pending. -/
def Change.updFill (c : Change) (id : Nat) (f : Fill → Fill) : Change :=
  match c.dev.fills.find id with
  | none => c
  | some x => { c with dev := { c.dev with fills := c.dev.fills.set id (f x) } }
/-- A fill that needs nothing but time: its value is known and it lands at a given cycle. -/
def State.fillAt (s : State) (c : Change) (dst : Option Nat) (cycle : Nat) (v : Word) : Change :=
  let id := c.dev.fresh
  let c := s.fill c dst 0
  (c.updFill id fun f => { f with val := v }).sched
    cycle .fill { a := id }

/-- A fill whose value or record is known, that lands after a time the manual leaves open. -/
def State.fillSoon (s : State) (c : Change) (dst : Option Nat) (v : Word) : Change :=
  let id := c.dev.fresh
  let c := s.fill c dst 0
  (c.updFill id fun f => { f with val := v }).soon
    .fill { a := id }
/-- A fill of a word that is known and may be a fault record, landing at a given cycle. -/
def State.fillWord (s : State) (c : Change) (dst : Option Nat) (cycle : Nat) (v : Word) (poison : Bool) : Change :=
  let id := c.dev.fresh
  let c := s.fillAt c dst cycle v
  if poison then
    c.updFill id fun f => { f with record := some (0, v) }
  else c
/-- Give an awaited fill its value: it lands after a time the manual leaves open. -/
def Change.answer (c : Change) (id : Nat) (v : Word) (poison : Bool := false) : Change :=
  match c.dev.fills.find id with
  | none => c
  | some f => (c.dv fun d => { d with fills := d.fills.set id { f with left := 0, val := v
                                                                       record := if poison then some (0, v) else none } }).soon
      .fill { a := id }

/-- The destination of a fill into a scalar register: none for w0 (R52). -/
def State.fillW (s : State) (i : Reg) : Option Nat := if i = 0 then none else some (s.wKey i)

/-- The pending global loads of the running core (R148). -/
def State.loads (s : State) : Nat :=
  ((s.dev.fills.filterMap fun f => if f.2.core == s.here then f.2.load else none).eraseDups).length
def State.loadRoom (s : State) : Option Wait := if 64 ≤ s.loads then some .loads else none

/-- The byte that a load of the running activation takes from its own held stores (R150). -/
def State.forward (s : State) (md : AddrMode) (ea : Nat) : Option Byte :=
  s.my.hold.foldl (fun acc h =>
    if h.org.act == s.act.num then
      match h.eff with
      | .store m a bs => if m == md && decide (a ≤ ea) && decide (ea < a + bs.length) then bs[ea - a]? else acc
      | .localStore a bs => if md == .l && decide (a ≤ ea) && decide (ea < a + bs.length) then bs[ea - a]? else acc
      | _ => acc
    else acc) none

/-- One part of a remote read: `n` bytes from `ea`, for byte `at_` of the fill. -/
def State.readPart (s : State) (c : Change) (md : AddrMode) (ea : Nat) (fill at_ n elem : Nat) (grp : Option Nat := none) : Change :=
  let o := s.origin
  let id := c.dev.fresh
  let fwd := (List.range n).map fun i => s.forward md (ea + i)
  let f : Flight := { org := o, cargo := .read fill at_ n elem fwd, place := s.place o.core md ea
                      tracked := s.speculative && !(fwd.all Option.isSome), grp := grp }
  (c.tick.dv fun d => { d with flights := d.flights.set id f }).soon (if md = .g then .translation else .arrivingAccess) { a := id }

end Sys2Proof.Machine
end

