-- ==== Sys2Proof/Machine/Aes.lean ====
section
/-!
DEFINITION. AES-256-XTS over the 64-byte lines of device memory (R353): the block cipher of FIPS 197 under a 256-bit key, and the
tweaked mode of IEEE 1619 with four blocks to a data unit. A block is 16 bytes, column by column.
-/

namespace Sys2Proof.Machine

/-! ## The field of 256 elements -/

/-- Twice an element: the field's polynomial is x^8 + x^4 + x^3 + x + 1. -/
def gfDouble (a : Byte) : Byte := (a <<< 1) ^^^ (if a.getLsbD 7 then 0x1B else 0)
/-- The product, one bit of the second factor after another. -/
def gfMul (a b : Byte) : Byte :=
  ((List.range 8).foldl (fun (x : Byte × Byte) i => (if b.getLsbD i then x.1 ^^^ x.2 else x.1, gfDouble x.2)) (0, a)).1
/-- The inverse, as the 254th power; 0 for 0. -/
def gfInv (a : Byte) : Byte := (List.range 6).foldl (fun x _ => gfMul (gfMul x x) a) a |> fun x => gfMul x x

/-! ## Rounds -/

def subByte (a : Byte) : Byte :=
  let b := gfInv a
  b ^^^ b.rotateLeft 1 ^^^ b.rotateLeft 2 ^^^ b.rotateLeft 3 ^^^ b.rotateLeft 4 ^^^ 0x63
def unsubByte (a : Byte) : Byte := gfInv (a.rotateLeft 1 ^^^ a.rotateLeft 3 ^^^ a.rotateLeft 6 ^^^ 0x05)
def xorBytes (x y : List Byte) : List Byte := (x.zip y).map fun p => p.1 ^^^ p.2
/-- Row r of the block turns left by r places, or right. -/
def shiftRows (b : List Byte) : List Byte := (List.range 16).map fun i => b.getD (i % 4 + 4 * ((i / 4 + i % 4) % 4)) 0
def unshiftRows (b : List Byte) : List Byte := (List.range 16).map fun i => b.getD (i % 4 + 4 * ((i / 4 + 4 - i % 4) % 4)) 0
/-- Each column is multiplied by the circulant matrix of four coefficients. -/
def mixWith (m : List Byte) (b : List Byte) : List Byte :=
  (List.range 16).map fun i => (List.range 4).foldl (fun x j => x ^^^ gfMul (m.getD ((j + 4 - i % 4) % 4) 0) (b.getD (i / 4 * 4 + j) 0)) 0
def mixColumns (b : List Byte) : List Byte := mixWith [2, 3, 1, 1] b
def unmixColumns (b : List Byte) : List Byte := mixWith [14, 11, 13, 9] b

/-! ## The key schedule -/

/-- The next four-byte word of the schedule. -/
def nextKeyWord (ws : List (List Byte)) : List Byte :=
  let i := ws.length
  let t := ws.getD (i - 1) []
  let t := if i % 8 = 0 then
      xorBytes ((t.drop 1 ++ t.take 1).map subByte) [(List.range (i / 8 - 1)).foldl (fun x _ => gfDouble x) 1, 0, 0, 0]
    else if i % 8 = 4 then t.map subByte else t
  xorBytes (ws.getD (i - 8) []) t
def expandKey : Nat → List (List Byte) → List (List Byte)
  | 0, ws => ws
  | n + 1, ws => expandKey n (ws ++ [nextKeyWord ws])
/-- The fifteen round keys of a 32-byte key. -/
def roundKeys (key : List Byte) : List (List Byte) := chunks 16 15 (expandKey 52 (chunks 4 8 key)).flatten

/-! ## The cipher and its inverse -/

def aesBlock (rks : List (List Byte)) (b : List Byte) : List Byte :=
  let rk (i : Nat) : List Byte := rks.getD i []
  let mid := (List.range 13).foldl (fun x i => xorBytes (mixColumns (shiftRows (x.map subByte))) (rk (i + 1))) (xorBytes b (rk 0))
  xorBytes (shiftRows (mid.map subByte)) (rk 14)
def unaesBlock (rks : List (List Byte)) (b : List Byte) : List Byte :=
  let rk (i : Nat) : List Byte := rks.getD i []
  let mid := (List.range 13).foldl (fun x i => unmixColumns (xorBytes ((unshiftRows x).map unsubByte) (rk (13 - i)))) (xorBytes b (rk 14))
  xorBytes ((unshiftRows mid).map unsubByte) (rk 0)

/-! ## The mode (R211, R353) -/

/-- The next block's mask: the one before it times x, in the field of 2^128 elements. -/
def nextMask (t : List Byte) : List Byte :=
  let n := leNat t
  natBytes 16 (n * 2 % 2 ^ 128 ^^^ (if 2 ^ 127 ≤ n then 0x87 else 0))
/-- Each 16-byte block of a data unit goes through `f` between its masks. -/
def xtsBlocks (f : List Byte → List Byte) : List Byte → List (List Byte) → List (List Byte)
  | _, [] => []
  | t, b :: bs => xorBytes (f (xorBytes b t)) t :: xtsBlocks f (nextMask t) bs
/-- The mask of a line's first block: its number, PA[47:6], under the tweak key, which stands in bytes 32 to 63 of the key material. -/
def lineMask (line : Nat) (key : List Byte) : List Byte := aesBlock (roundKeys (key.drop 32)) (natBytes 16 line)
/-- A line as it is stored under key material, and as it reads: bytes 0 to 31 of the material are the data key. -/
def sealLine (line : Nat) (key bs : List Byte) : List Byte :=
  (xtsBlocks (aesBlock (roundKeys (key.take 32))) (lineMask line key) (chunks 16 4 bs)).flatten
def openLine (line : Nat) (key bs : List Byte) : List Byte :=
  (xtsBlocks (unaesBlock (roundKeys (key.take 32))) (lineMask line key) (chunks 16 4 bs)).flatten

end Sys2Proof.Machine
end

