-- ==== Sys2Proof/Machine/Number.lean ====
section
/-!
DEFINITION. Numbers (R67 to R85): exact values, decoding and rounding of the twenty formats, stochastic rounding, exact
FP32 arithmetic rounded once, the transcendental functions, and the wide accumulator.
-/

namespace Sys2Proof.Machine

/-! ## Exact values -/

/-- An exact value: a NaN, an infinity, or ±m×2^e. `more` says that the magnitude lies strictly between m×2^e and
(m+1)×2^e, for results that no dyadic number gives exactly. -/
inductive Num where
  | nan
  | inf (neg : Bool)
  | fin (neg : Bool) (m : Nat) (e : Int) (more : Bool := false)
deriving DecidableEq, Repr

def Num.zero (neg : Bool) : Num := .fin neg 0 0
/-- The bits in a number: 0 for 0. -/
def bitLen (n : Nat) : Nat := if n = 0 then 0 else n.log2 + 1
/-- Shift a magnitude left by a possibly negative count, dropping bits. -/
def shl (m : Nat) (k : Int) : Nat := if 0 ≤ k then m * 2 ^ k.toNat else m / 2 ^ (-k).toNat
/-- Trailing zero bits below a limit. -/
def ctz : Nat → Nat → Nat
  | 0, _ => 0
  | k + 1, n => if n % 2 = 1 then 0 else 1 + ctz k (n / 2)

def Num.neg : Num → Num
  | .nan => .nan
  | .inf n => .inf (!n)
  | .fin n m e t => .fin (!n) m e t

/-- Exact product (R81): 0 × ∞ is invalid. -/
def Num.mul : Num → Num → Num
  | .nan, _ => .nan
  | _, .nan => .nan
  | .inf n, .inf k => .inf (n != k)
  | .inf n, .fin k m _ _ => if m = 0 then .nan else .inf (n != k)
  | .fin k m _ _, .inf n => if m = 0 then .nan else .inf (n != k)
  | .fin n m e _, .fin k p f _ => .fin (n != k) (m * p) (e + f)

/-- A signed integer multiple of 2^e, as a value; an exact zero sum of nonzero terms is +0 (R81). -/
def Num.ofInt (x : Int) (e : Int) : Num := .fin (decide (x < 0)) x.natAbs e

/-- Exact sum (R81): ∞ − ∞ is invalid; two zeros of one sign keep it. (DEDUCED, log entry 19.) -/
def Num.add : Num → Num → Num
  | .nan, _ => .nan
  | _, .nan => .nan
  | .inf n, .inf k => if n = k then .inf n else .nan
  | .inf n, _ => .inf n
  | _, .inf n => .inf n
  | .fin n m e _, .fin k p f _ =>
    if m = 0 ∧ p = 0 then .zero (n && k)
    else
      let g := if e ≤ f then e else f
      let a : Int := (m * 2 ^ (e - g).toNat : Nat)
      let b : Int := (p * 2 ^ (f - g).toNat : Nat)
      .ofInt ((if n then -a else a) + (if k then -b else b)) g

/-- Compare two finite magnitudes and signs: the value of a − b has this sign. -/
def Num.cmp : Num → Num → Option Ordering
  | .nan, _ => none
  | _, .nan => none
  | .inf n, .inf k => some (compare (!n).toNat (!k).toNat)
  | .inf n, _ => some (if n then .lt else .gt)
  | _, .inf n => some (if n then .gt else .lt)
  | a, b =>
    match Num.add a b.neg with
    | .fin n m _ _ => some (if m = 0 then .eq else if n then .lt else .gt)
    | _ => none

/-- A value times 2^k. -/
def Num.scale (k : Int) : Num → Num
  | .fin n m e t => .fin n m (e + k) t
  | x => x

/-! ## Formats (R68 to R74) -/

/-- A floating format: its exponent and fraction widths and bias, and the value of its largest finite code. -/
structure FloatFmt where
  ebits : Nat
  fbits : Nat
  bias : Int
  maxM : Nat
  maxE : Int
  hasInf : Bool
  nan : Option Nat
deriving DecidableEq, Repr

/-- The floating formats under the reading FSX (R69, R71). -/
def floatFmt (fsx : Bool) : Fmt → Option FloatFmt
  | .f32 => some ⟨8, 23, 127, 0xFFFFFF, 104, true, some 0x7FC00000⟩
  | .bf16 => some ⟨8, 7, 127, 0xFF, 120, true, some 0x7FC0⟩
  | .f16 => some ⟨5, 10, 15, 0x7FF, 5, true, some 0x7E00⟩
  | .e4m3 => if fsx then some ⟨4, 3, 7, 15, 4, true, some 0x7F⟩ else some ⟨4, 3, 7, 14, 5, false, some 0x7F⟩
  | .e5m2 => if fsx then some ⟨5, 2, 15, 7, 13, true, some 0x7F⟩ else some ⟨5, 2, 15, 6, 14, false, some 0x7F⟩
  | .e2m3 => some ⟨2, 3, 1, 15, -1, false, none⟩
  | .e3m2 => some ⟨3, 2, 3, 7, 2, false, none⟩
  | .e2m1 => some ⟨2, 1, 1, 3, 1, false, none⟩
  | _ => none

/-- Width of a format's code in bits (R43). -/
def fmtBits : Fmt → Nat
  | .f32 => 32 | .bf16 => 16 | .f16 => 16 | .e4m3 => 8 | .e5m2 => 8 | .e2m3 => 6 | .e3m2 => 6 | .e2m1 => 4
  | .tap8 => 8 | .tap6 => 6 | .i8 => 8 | .n8 => 8 | .i4 => 4 | .n4 => 4 | .lut1 => 1 | .lut2 => 2
  | .i16 => 16 | .n16 => 16 | .i32 => 32 | .n32 => 32

/-- Signedness of an integer format. -/
def intFmt : Fmt → Option Bool
  | .i8 | .i4 | .i16 | .i32 => some true
  | .n8 | .n4 | .n16 | .n32 => some false
  | _ => none

/-- Whether a floating code is a NaN or an infinity (R69). -/
def floatDecode (g : FloatFmt) (fsx : Bool) (f : Fmt) (c : Nat) : Num :=
  let s := decide (c / 2 ^ (g.ebits + g.fbits) % 2 = 1)
  let E := c / 2 ^ g.fbits % 2 ^ g.ebits
  let fr := c % 2 ^ g.fbits
  let top := decide (E = 2 ^ g.ebits - 1)
  let special : Option Num :=
    match f with
    | .f32 | .bf16 | .f16 => if top then some (if fr = 0 then .inf s else .nan) else none
    | .e4m3 | .e5m2 =>
      if fsx then (if top then some (if fr = 0 then .inf s else .nan) else none)
      else if top && decide (fr = 2 ^ g.fbits - 1) then some .nan else none
    | _ => none
  match special with
  | some v => v
  | none =>
    if E = 0 then .fin s fr (1 - g.bias - g.fbits) else .fin s (2 ^ g.fbits + fr) (E - g.bias - g.fbits)

/-- The run of equal bits at the top of a tapered body (R73). -/
def runLen (body : Nat) (r : Nat) : Nat → Nat
  | 0 => 0
  | k + 1 => if body / 2 ^ k % 2 = r then 1 + runLen body r k else 0

/-- TapDecode of R73. -/
def tapDecode (n code : Nat) : Num :=
  let s := decide (code / 2 ^ (n - 1) % 2 = 1)
  let b := n - 1
  let body := code % 2 ^ b
  if body = 0 then (if s then .nan else .zero false)
  else
    let r := body / 2 ^ (b - 1) % 2
    let m := runLen body r b
    let k : Int := if r = 1 then (m : Int) - 1 else -(m : Int)
    let left := if m = b then 0 else b - m - 1
    if left = 0 then .fin s 1 (2 * k)
    else
      let e := body / 2 ^ (left - 1) % 2
      let fw := left - 1
      .fin s (2 ^ fw + body % 2 ^ fw) (2 * k + e - fw)

/-- Decode(bits, f) of R50 under FSX; LUT weights as R75. -/
def decodeNum (fsx : Bool) (f : Fmt) (c : Nat) : Num :=
  match floatFmt fsx f with
  | some g => floatDecode g fsx f c
  | none =>
    match intFmt f with
    | some true =>
      let n := fmtBits f
      let x := c % 2 ^ n
      .ofInt (if x < 2 ^ (n - 1) then (x : Int) else (x : Int) - (2 ^ n : Nat)) 0
    | some false => .fin false (c % 2 ^ fmtBits f) 0
    | none =>
      match f with
      | .tap8 => tapDecode 8 c
      | .tap6 => tapDecode 6 c
      | .lut1 => .ofInt (if c % 2 = 1 then 1 else -1) 0
      | _ => .ofInt (2 * (c % 4 : Nat) - 3) 0

/-! ## Rounding (R77 to R79) -/

/-- One step of SRSEED (R79). -/
def srStep (s : Word) : Word :=
  let a := s ^^^ (s <<< 13)
  let b := a ^^^ (a >>> 7)
  b ^^^ (b <<< 17)
/-- The value r of R79 drawn from the stepped seed. -/
def srDraw (s : Word) : Nat := s.toNat / 2 ^ 32

/-- The neighbours of m×2^e in units of 2^q: the lower one, and the part above it as a number over 2^k. -/
def splitAt (m : Nat) (e q : Int) : Nat × Nat × Nat :=
  if q ≤ e then (m * 2 ^ (e - q).toNat, 0, 0)
  else (m / 2 ^ (q - e).toNat, m % 2 ^ (q - e).toNat, (q - e).toNat)

/-- Whether a magnitude n + (part [+ more])/2^k goes up to n + 1 (R77); `even` says that n's code has bit 0 = 0. -/
def roundsUp (c : Rnd) (neg even : Bool) (part k : Nat) (more : Bool) (r : Nat) : Bool :=
  let exact := part == 0 && !more
  match c with
  | .rne => decide (2 ^ k < 2 * part) || (decide (2 * part = 2 ^ k) && decide (0 < k) && (more || !even))
  | .rz => false
  | .ru => !exact && !neg
  | .rd => !exact && neg
  | .sr => !exact && decide (r < 2 ^ 32 * part / 2 ^ k)

/-- The code of the largest finite value, without its sign (R77). -/
def maxCode (g : FloatFmt) : Nat := ((g.maxE + g.fbits + g.bias).toNat * 2 ^ g.fbits) + g.maxM - 2 ^ g.fbits

/-- Round a value into a floating format (R77, R78). -/
def roundFloat (g : FloatFmt) (c : Rnd) (r : Nat) (x : Num) : Nat :=
  let sgn (n : Bool) : Nat := if n then 2 ^ (g.ebits + g.fbits) else 0
  let infCode := (2 ^ g.ebits - 1) * 2 ^ g.fbits
  match x with
  | .nan => g.nan.getD 0
  | .inf n => sgn n + (if g.hasInf then infCode else maxCode g)
  | .fin n m e more =>
    if m = 0 then sgn n
    else
      let qmin : Int := 1 - g.bias - g.fbits
      let qn : Int := (bitLen m : Int) - 1 + e - g.fbits
      let q := if qn < qmin then qmin else qn
      let (lo, part, k) := splitAt m e q
      let up := roundsUp c n (lo % 2 == 0) part k more r
      let v := if up then lo + 1 else lo
      -- v×2^q exceeds the largest finite magnitude
      let isOver := match Num.cmp (.fin false v q) (.fin false g.maxM g.maxE) with
        | some .gt => true
        | _ => false
      if isOver then
        if g.hasInf then
          match c with
          | .rne => sgn n + infCode
          | .rz => sgn n + maxCode g
          | .ru => if n then sgn n + maxCode g else infCode
          | .rd => if n then sgn n + infCode else maxCode g
          | .sr => sgn n + maxCode g
        else sgn n + maxCode g
      else if v = 0 then sgn n
      else sgn n + ((q + g.fbits + g.bias).toNat * 2 ^ g.fbits + v - 2 ^ g.fbits)

/-- Round a value into an integer format, saturating (R77, R78). -/
def roundInt (signed : Bool) (w : Nat) (c : Rnd) (r : Nat) (x : Num) : Nat :=
  let hi : Int := if signed then (2 ^ (w - 1) : Nat) - 1 else (2 ^ w : Nat) - 1
  let lo : Int := if signed then -(2 ^ (w - 1) : Nat) else 0
  let v : Int := match x with
    | .nan => 0
    | .inf n => if n then lo else hi
    | .fin n m e more =>
      let (a, part, k) := splitAt m e 0
      let b := if roundsUp c n (a % 2 == 0) part k more r then a + 1 else a
      if n then -(b : Int) else b
  let y := if v < lo then lo else if hi < v then hi else v
  (y % (2 ^ w : Nat)).toNat

/-- The largest body below 2^(n−1) whose value is at most the magnitude, among the next `k` candidates. -/
def tapFloor (n : Nat) (x : Num) : Nat → Nat
  | 0 => 0
  | k + 1 =>
    match Num.cmp (tapDecode n (k + 1)) x with
    | some .gt => tapFloor n x k
    | _ => k + 1

/-- Round a value into a tapered format of `n` bits (R74). -/
def roundTap (n : Nat) (c : Rnd) (r : Nat) (x : Num) : Nat :=
  match x with
  | .fin s m e more =>
    if m = 0 then 0
    else
      let sgn := if s then 2 ^ (n - 1) else 0
      let top := 2 ^ (n - 1) - 1
      let lo := tapFloor n (.fin false m e) top
      if lo = 0 then sgn + 1
      else if lo = top then sgn + top
      else
        match tapDecode n lo, tapDecode n (lo + 1) with
        | .fin _ a ea _, .fin _ b eb _ =>
          -- everything over 2^g: a ≤ x < b
          let g := min (min ea eb) e
          let A := a * 2 ^ (ea - g).toNat
          let B := b * 2 ^ (eb - g).toNat
          let X := m * 2 ^ (e - g).toNat
          let exact := X == A && !more
          let up := match c with
            | .rne => decide (B - A < 2 * (X - A)) || (decide (2 * (X - A) = B - A) && (more || decide (lo % 2 = 1)))
            | .rz => false
            | .ru => !exact && !s
            | .rd => !exact && s
            | .sr => !exact && decide (r < 2 ^ 32 * (X - A) / (B - A))
          sgn + (if up then lo + 1 else lo)
        | _, _ => 0
  | _ => 2 ^ (n - 1)

/-- Round(x, f, c) of R50, as a code; `r` is the draw of R79. -/
def roundNum (fsx : Bool) (f : Fmt) (c : Rnd) (r : Nat) (x : Num) : Nat :=
  match floatFmt fsx f with
  | some g => roundFloat g c r x
  | none =>
    match intFmt f with
    | some sg => roundInt sg (fmtBits f) c r x
    | none =>
      match f with
      | .tap8 => roundTap 8 c r x
      | _ => roundTap 6 c r x

/-- FP32 in and out, under `.rne` (R81). -/
def f32 (w : Nat) : Num := decodeNum false .f32 (w % 2 ^ 32)
def toF32 (x : Num) : Nat := roundNum false .f32 .rne 0 x

/-! ## FP32 operations (R120, R133) -/

def isNan (w : Nat) : Bool := f32 w == .nan
def fadd (a b : Nat) : Nat := toF32 (Num.add (f32 a) (f32 b))
def fsub (a b : Nat) : Nat := toF32 (Num.add (f32 a) (f32 b).neg)
def fmul (a b : Nat) : Nat := toF32 (Num.mul (f32 a) (f32 b))
def ffma (a b d : Nat) : Nat := toF32 (Num.add (Num.mul (f32 a) (f32 b)) (f32 d))
/-- The order of FMIN and FMAX: −0 below +0 (R120). -/
def fless (a b : Nat) : Bool :=
  match Num.cmp (f32 a) (f32 b) with
  | some .lt => true
  | some .eq => decide (a / 2 ^ 31 % 2 = 1) && decide (b / 2 ^ 31 % 2 = 0)
  | _ => false
def fmin (a b : Nat) : Nat := if isNan a || isNan b then 0x7FC00000 else if fless b a then b % 2 ^ 32 else a % 2 ^ 32
def fmax (a b : Nat) : Nat := if isNan a || isNan b then 0x7FC00000 else if fless a b then b % 2 ^ 32 else a % 2 ^ 32
def fabs (a : Nat) : Nat := if isNan a then 0x7FC00000 else a % 2 ^ 31
def fneg (a : Nat) : Nat := if isNan a then 0x7FC00000 else if a / 2 ^ 31 % 2 = 1 then a % 2 ^ 31 else a % 2 ^ 31 + 2 ^ 31

/-- Exact quotient to 64 bits and more (R81). -/
def Num.div : Num → Num → Num
  | .nan, _ => .nan
  | _, .nan => .nan
  | .inf _, .inf _ => .nan
  | .inf n, .fin k _ _ _ => .inf (n != k)
  | .fin n _ _ _, .inf k => .zero (n != k)
  | .fin n m e _, .fin k p f _ =>
    if p = 0 then (if m = 0 then .nan else .inf (n != k))
    else if m = 0 then .zero (n != k)
    else
      let sh := 64 + bitLen p
      let q := m * 2 ^ sh / p
      .fin (n != k) q (e - f - sh) (m * 2 ^ sh % p != 0)
def fdiv (a b : Nat) : Nat := toF32 (Num.div (f32 a) (f32 b))

/-- Newton's integer square root from above. -/
def isqrtGo : Nat → Nat → Nat → Nat
  | 0, _, x => x
  | k + 1, n, x => let y := (x + n / x) / 2; if y < x then isqrtGo k n y else x
def isqrt (n : Nat) : Nat := if n = 0 then 0 else isqrtGo 400 n (2 ^ ((bitLen n + 1) / 2))

/-- Square root of a nonnegative dyadic number to at least 64 bits. -/
def sqrtDyadic (m : Nat) (e : Int) : Num :=
  let e' := if e % 2 = 0 then e else e - 1
  let m' := if e % 2 = 0 then m else 2 * m
  let n := m' * 2 ^ 128
  let q := isqrt n
  .fin false q (e' / 2 - 64) (q * q != n)
def Num.sqrt : Num → Num
  | .nan => .nan
  | .inf n => if n then .nan else .inf false
  | .fin n m e _ => if m = 0 then .zero n else if n then .nan else sqrtDyadic m e
def fsqrt (a : Nat) : Nat := toF32 (f32 a).sqrt

/-- FCLASS (R122). -/
def fclass (a : Nat) : Nat :=
  match f32 a with
  | .nan => 256
  | .inf n => if n then 1 else 128
  | .fin n m _ _ =>
    let normal := decide (2 ^ 23 ≤ m)
    if m = 0 then (if n then 8 else 16)
    else if n then (if normal then 2 else 4) else (if normal then 64 else 32)

/-! ## Transcendental functions, correctly rounded (R134) -/

/-- ⌊ln 2 × 2^256⌋. -/
def ln2 : Nat := 0xB17217F7D1CF79ABC9E3B39803F2F6AF40F343267298B62D8A0D175B8BAAFA2B

/-- Σ z^n / n! in units of 2^−256, from a term on. -/
def expSum : Nat → Nat → Nat → Nat → Nat
  | 0, _, _, acc => acc
  | k + 1, z, term, acc =>
    let n := 61 - (k + 1)
    expSum k z (term * z / 2 ^ 256 / (n + 1)) (acc + term)
/-- 2^f for 0 ≤ f < 1, both in units of 2^−256. -/
def exp2Frac (f : Nat) : Nat := expSum 61 (f * ln2 / 2 ^ 256) (2 ^ 256) 0

/-- 2^A (R134). (DEDUCED, log entry 18.) -/
def Num.exp2 : Num → Num
  | .nan => .nan
  | .inf n => if n then .zero false else .inf false
  | .fin n m e _ =>
    if m = 0 then .fin false 1 0
    else if decide (0 ≤ e) || decide (m % 2 ^ (-e).toNat = 0) then
      -- an integer
      let i := shl m e
      if 2000 < i then (if n then .fin false 1 (-2000) else .fin false 1 2000)
      else .fin false 1 (if n then -(i : Int) else i)
    else
      let i := shl m e
      if 2000 < i then (if n then .fin false 1 (-2000) true else .fin false 1 2000)
      else
        let frac := m % 2 ^ (-e).toNat
        let y := exp2Frac (frac * 2 ^ 256 / 2 ^ (-e).toNat)
        if n then .fin false (2 ^ 512 / y - 1) (-256 - (i : Int)) true
        else .fin false y (i - 256) true

/-- Fractional bits of log2 m for m in [1, 2), m in units of 2^−320. -/
def log2Bits : Nat → Nat → Nat → Nat
  | 0, _, acc => acc
  | k + 1, m, acc =>
    let q := m * m / 2 ^ 320
    if 2 ^ 321 ≤ q then log2Bits k (q / 2) (2 * acc + 1) else log2Bits k q (2 * acc)

/-- log2 A (R134). -/
def Num.log2 : Num → Num
  | .nan => .nan
  | .inf n => if n then .nan else .inf false
  | .fin n m e _ =>
    if m = 0 then .inf true
    else if n then .nan
    else
      let b := bitLen m - 1
      let ex : Int := e + b
      if m = 2 ^ b then .ofInt ex 0
      else
        -- log2 A = ex + fr, 0 < fr < 1, fr in units of 2^−128
        let fr := log2Bits 128 (m * 2 ^ (320 - b)) 0
        let t : Int := ex * (2 ^ 128 : Nat) + fr
        if 0 ≤ t then .fin false t.toNat (-128) true
        else .fin true ((-t).toNat - 1) (-128) true

def Num.rcp : Num → Num
  | .nan => .nan
  | .inf n => .zero n
  | x => Num.div (.fin false 1 0) x
def Num.rsq : Num → Num
  | .nan => .nan
  | .inf n => if n then .nan else .zero false
  | .fin n m e _ =>
    if m = 0 then .inf n
    else if n then .nan
    else
      -- √(1/x): the quotient to an even power of two, then its root
      let sh : Nat := 2 * (64 + bitLen m)
      let q := 2 ^ sh / m
      let e' := if e % 2 = 0 then e else e + 1
      let q' := if e % 2 = 0 then q else (2 ^ (sh + 1)) / m
      let rem := if e % 2 = 0 then 2 ^ sh % m else 2 ^ (sh + 1) % m
      let r := isqrt q'
      .fin false r (-(e' / 2) - (sh / 2 : Nat)) (r * r != q' || rem != 0)
def fexp2 (a : Nat) : Nat := toF32 (f32 a).exp2
def flog2 (a : Nat) : Nat := toF32 (f32 a).log2
def frcp (a : Nat) : Nat := toF32 (f32 a).rcp
def frsq (a : Nat) : Nat := toF32 (f32 a).rsq

/-! ## The wide accumulator (R84, R85, R143) -/

/-- The states of X. -/
def wideX (a : BitVec 2) : Num → BitVec 2
  | .nan => 3
  | .inf n =>
    let b : BitVec 2 := if n then 2 else 1
    if a = 0 ∨ a = b then b else 3
  | .fin .. => a

/-- The exact addend as an integer multiple of 2^−300. -/
def wideTerm : Num → Nat
  | .fin _ m e _ => shl m (e + 300)
  | _ => 0

/-- The highest 64-bit word in which two accumulator values differ, among words below `k`. -/
def topDiff (a b : Nat) : Nat → Nat
  | 0 => 0
  | k + 1 => if a / 2 ^ (64 * k) % 2 ^ 64 = b / 2 ^ (64 * k) % 2 ^ 64 then topDiff a b k else k

/-- Add an exact value: the accumulator after, and the span (R85, R143). -/
def wideAdd (w : Wide) (x : Num) : Wide × Nat :=
  match x with
  | .fin n m _ _ =>
    if m = 0 then (w, 1)
    else
      let t := wideTerm x
      let v := if n then w.v - BitVec.ofNat 640 t else w.v + BitVec.ofNat 640 t
      let low := ctz 640 t / 64
      let top := max ((bitLen t - 1) / 64) (topDiff w.v.toNat v.toNat 10)
      ({ w with v := v }, top - low + 1)
  | _ => ({ w with x := wideX w.x x }, 1)

/-- The rounded read (R85). -/
def wideRead (w : Wide) (c : Rnd) (r : Nat) : Nat :=
  roundNum false .f32 c r (if w.x = 0 then .ofInt w.v.toInt (-300) else if w.x = 1 then .inf false
    else if w.x = 2 then .inf true else .nan)

end Sys2Proof.Machine
end

