-- ==== Sys2Proof/Machine/Flags.lean ====
section
/-!
DEFINITION. Conditions: this hardware has no flags register; its comparisons write predicates and masks (R44, R118, R121,
R132), which its branches and selects read.
-/

namespace Sys2Proof.Machine

/-- CMP's conditions on two words (R118). -/
def Cond.eval (c : Cond) (a b : Word) : Bool :=
  match c with
  | .eq => a == b
  | .ne => a != b
  | .lt => a.slt b
  | .ge => !a.slt b
  | .ltu => a.ult b
  | .geu => !a.ult b
  | .le => !b.slt a
  | .gt => b.slt a
  | .leu => !b.ult a
  | .gtu => b.ult a

/-- FCMP's conditions on two FP32 values: with a NaN only `ne` and `un` hold (R121). -/
def FCond.eval (c : FCond) (a b : Nat) : Bool :=
  match Num.cmp (f32 a) (f32 b) with
  | none => c == .ne || c == .un
  | some o =>
    match c with
    | .eq => o == .eq
    | .ne => o != .eq
    | .lt => o == .lt
    | .le => o != .gt
    | .gt => o == .gt
    | .ge => o != .lt
    | .un => false

/-- VCMP's conditions on two integers, already read signed or unsigned (R132). -/
def VCond.eval (c : VCond) (a b : Int) : Bool :=
  match c with
  | .eq => a == b
  | .ne => a != b
  | .lt => decide (a < b)
  | .le => decide (a ≤ b)
  | .gt => decide (b < a)
  | .ge => decide (b ≤ a)

/-- The predicate word's low byte with bit D set to a value (R51, R118). -/
def predByte (old : Byte) (d : BitVec 3) (v : Bool) : Byte :=
  let bit : Byte := 1#8 <<< d.toNat
  if v then old ||| bit else old &&& ~~~bit

/-- Write a predicate: one bit of the predicate word, the others as they stand when it is written; p0 takes none (R52, R118). The bits
63:8 read zero. -/
def State.setP (s : State) (c : Change) (lat : Nat) (d : BitVec 3) (v : Bool) : Change :=
  if d = 0 then c
  else if lat ≤ 1 then c.write s.pKey [predByte (s.view.byte s.pKey) d v]
  else c.me fun x => { x with
    pipe := x.pipe ++ [{ due := c.dev.now + lat, words := [s.pKey / 8], bytes := [], preds := [(s.pKey, d, v)] }] }

end Sys2Proof.Machine
end

