-- ==== Sys2Proof/Machine/Operands.lean ====
section
/-!
DEFINITION. Operand forms: vector sources and destinations with their queues (R37, R38, R61), execution masks and elements
(R50, R124, R125), and the checks that queue operands bring (R72, R126, R128, R182).
-/

namespace Sys2Proof.Machine

/-! ## Elements (R50, R67) -/

def EW.bits : EW → Nat
  | .w32 => 32 | .w16 => 16 | .w8 => 8
/-- Elements of a vector at width `w` bits, element 0 first. -/
def lanesOf (w : Nat) (v : Vec) : List Nat := (List.range (2048 / w)).map fun k => (v.extractLsb' (k * w) w).toNat
/-- The vector whose elements at width `w` these are. -/
def ofLanes (w : Nat) (l : List Nat) : Vec := BitVec.ofNat 2048 (l.foldr (fun x acc => x % 2 ^ w + 2 ^ w * acc) 0)
def lane (w : Nat) (v : Vec) (k : Nat) : Nat := (v.extractLsb' (k * w) w).toNat
/-- An element read signed. -/
def sgn (w x : Nat) : Int := if x < 2 ^ (w - 1) then (x : Int) else (x : Int) - (2 ^ w : Nat)
/-- An integer modulo 2^w. -/
def wrap (w : Nat) (x : Int) : Nat := (x % (2 ^ w : Nat)).toNat
/-- Sat of R50. -/
def clamp (lo hi x : Int) : Int := if x < lo then lo else if hi < x then hi else x
/-- The ranges of INTw and UINTw (R68). -/
def rangeLo (signed : Bool) (w : Nat) : Int := if signed then -(2 ^ (w - 1) : Nat) else 0
def rangeHi (signed : Bool) (w : Nat) : Int := if signed then (2 ^ (w - 1) : Nat) - 1 else (2 ^ w : Nat) - 1
def readAs (signed : Bool) (w x : Nat) : Int := if signed then sgn w x else x

/-! ## Vector sources -/

/-- A vector source: the words it reads, what it waits for, the trap of its pop, its value, and the pop itself. -/
structure VSrc where
  words : List Nat := []
  wait : Option Wait := none
  trap : Option Trap := none
  val : Vec := 0
  pop : Change → Change := id

/-- The lease check of a push: no lease is 0x140 with bit 0 set (R180, R181, R215). -/
def State.noLease (s : State) (push : Bool) : Option Trap :=
  if s.opCtx.lease.held then none else some (s.trapHere 0x140 (if push then 1 else 0))
/-- The array of the cluster that the running context's lease names. -/
def State.myArray (s : State) : Nat := s.myCluster * 8 + s.opCtx.lease.array
/-- The hold buffer as the group's instructions see it (R21). -/
def State.opHold (s : State) : List Held := match s.snap with
  | some n => n.hold
  | none => s.my.hold
/-- The activation holds an unreleased push to its leased array, under that lease (R182). -/
def State.heldPush (s : State) : Bool :=
  let l := s.opCtx.lease
  s.opHold.any fun h => h.org.act == s.act.num && match h.eff with
    | .command _ _ n serial => n == l.array && serial == l.serial
    | .feed _ _ n serial => n == l.array && serial == l.serial
    | _ => false
/-- The context has results of its array to pop: under its lease, or left from an ended one (R182). -/
def State.ownsResults (s : State) : Bool :=
  (s.arr s.myArray).holder == some (s.here, s.slot, s.act.num) &&
    (s.opCtx.lease.held || !(s.arr s.myArray).q2.isEmpty)

/-- Pop the oldest result of the leased array: without a lease and results there is none to wait for, and the group blocks; a pop
behind a held push is 0x143, although R128 lists it not (R38, R182, R293). (DESIGN CHOICE, log entry 116.) -/
def State.popResult (s : State) : VSrc :=
  let r := (s.arr s.myArray).q2.head?
  let ready := match r with
    | some v => v.entered && decide (v.due < s.dev.now)
    | none => false
  if !s.ownsResults then { wait := some .queue }
  else if s.holding && s.heldPush then { trap := some (s.trapHere 0x143 (BitVec.ofNat 64 s.opCtx.lease.array)) }
  else if !ready then { wait := some .queue }
  else match r with
  | none => { wait := some .queue }
  | some v =>
    { trap := match v.poison with
        | some p => some (s.recordTrap p s.groupAddr)
        | none => none
      val := wordsVec v.words
      pop := fun c =>
        let c := c.arr s.myArray fun a => { a with q2 := a.q2.drop 1 }
        let a := c.dev.arrays.get {} s.myArray
        if a.q2.isEmpty && !a.leased then c.sched (c.dev.now + 1) .leaseGrant { a := s.myArray } else c }

/-- The FSX check of a message of which the activation first reads a word, whoever read the words before it (R72, R107).
(DEDUCED, log entry 117.) -/
def State.fsxTrap (s : State) (m : Msg) : Option Trap :=
  if m.device || m.readers.contains s.act.num || m.org.fsx == s.fsx then none
  else some (s.trap 0x040 (BitVec.ofNat 64 ((s.logical m.org.core).getD 0))
    (BitVec.ofNat 64 ((if m.org.fsx then 256 else 0) + m.chan)))

/-- Keep a popped message with a contained activation, once, for redelivery (R237). -/
def Change.keepMsg (c : Change) (m : Msg) : Change :=
  c.me fun x => if x.act.open_ || x.act.kept.any (fun k => k.seq == m.seq && k.chan == m.chan) then x
    else { x with act := { x.act with kept := x.act.kept ++ [m] } }

/-- Pop the oldest vector of channel `ch` (R38). (DEDUCED, log entry 16.) -/
def State.popChan (s : State) (ch : Nat) : VSrc :=
  match s.my.chans.get [] ch with
  | [] => { wait := some .channel }
  | m :: rest =>
    { trap := match s.fsxTrap m with
        | some t => some t
        | none => (m.delivered.find? fun w => w.2).map fun w => s.trapHere (w.1.toNat % 512) w.1
      val := wordsVec (m.delivered.map fun w => w.1)
      pop := fun c => (c.mine fun k => { k with chans := k.chans.set ch rest }).keepMsg m }

/-- Pop the oldest delivered vector of a Towpath queue (R40). -/
def State.popTow (s : State) (west : Bool) : VSrc :=
  match if west then s.my.fromWest else s.my.fromEast with
  | [] => { wait := some .towpath }
  | t :: rest =>
    if t.ready then
      { val := t.v
        pop := fun c => c.mine fun k => if west then { k with fromWest := rest } else { k with fromEast := rest } }
    else { wait := some .towpath }

/-- A vector source by its code (R37). -/
def State.vsrc (s : State) (code : Reg) : VSrc :=
  let n := code.toNat
  if n < 16 then { words := s.srcV code, val := s.v code }
  else if n ≤ 27 then s.popChan (n - 12)
  else if n = 28 then s.popTow true
  else if n = 29 then s.popTow false
  else if n = 30 then s.popResult
  else {}

/-- Codes that pop and codes that push (R126). -/
def pops (code : Reg) : Bool := decide (16 ≤ code.toNat ∧ code.toNat ≤ 30)
def pushes (code : Reg) : Bool := decide (16 ≤ code.toNat ∧ code.toNat ≤ 18)

/-! ## Vector destinations -/

/-- The bytes that a mask leaves active: byte b of lane b/4 (R124). -/
def maskBytes (m : Word) : Nat → Bool := fun b => m.getLsbD (b / 4)

/-- The words of a vector register written whole, and in part, when the active bytes are given (R57, R124). -/
def wholeWords (act : Nat → Bool) : List Nat := (List.range 32).filter fun i => (List.range 8).all fun b => act (8 * i + b)
def partWords (act : Nat → Bool) : List Nat :=
  (List.range 32).filter fun i => ((List.range 8).any fun b => act (8 * i + b)) && !((List.range 8).all fun b => act (8 * i + b))

/-- The writes of the active bytes of a vector to a register at key `k`. -/
def vecWrites (k : Nat) (act : Nat → Bool) (v : Vec) : List (Nat × List Byte) :=
  (wholeWords act).map (fun i => (k + 8 * i, wordBytes (vecWord v i))) ++
  (partWords act).flatMap fun i => (List.range 8).filterMap fun b =>
    if act (8 * i + b) then some (k + 8 * i + b, [v.extractLsb' (8 * (8 * i + b)) 8]) else none

/-- Pushes in the neighbour's queue, delivered or on their way (R40). -/
def State.towRoom (s : State) (east : Bool) : Bool :=
  let n := s.core (if east then s.east s.myLogical else s.west s.myLogical)
  decide ((if east then n.fromWest else n.fromEast).length < 8)

/-- Chunks pushed under the context's lease that have left the hold buffer and have not reached the array (R38). -/
def State.feedsAway (s : State) : Nat :=
  let l := s.opCtx.lease
  let mine (o : Origin) (e : Effect) : Bool := o.core == s.here && o.act == s.act.num && match e with
    | .feed _ _ n serial => n == l.array && serial == l.serial
    | _ => false
  (s.dev.flights.filter fun f => match f.2.cargo with
    | .effect e => mine f.2.org e
    | _ => false).length + (s.my.relq.filter fun h => mine h.org h.eff).length
/-- Free places of the leased array's feed: a push that has issued has its place (R38, R61). -/
def State.feedPlaces (s : State) : Nat := 8 - ((s.arr s.myArray).feed.length + s.feedsAway)
def State.feedRoom (s : State) : Bool := s.holding || decide (0 < s.feedPlaces)

def State.vdstWait (s : State) (d : Reg) : Option Wait :=
  if d.toNat = 16 then (if s.opCtx.lease.held && !s.feedRoom then some .queue else s.noRoom 272)
  else if d.toNat = 17 then (if s.towRoom true then none else some .towpath)
  else if d.toNat = 18 then (if s.towRoom false then none else some .towpath)
  else none
/-- A push through code 16 meets the lease check of R180 and the hold buffer's limit, although R128 lists neither cause.
(DESIGN CHOICE, log entry 116.) -/
def State.vdstTrap (s : State) (d : Reg) : Option Trap :=
  if d.toNat = 16 then (match s.noLease true with
    | some t => some t
    | none => s.overflow 272) else none

/-- The scale word of a push through code 16 (R181). -/
def unitScales : Word := 0x7F7F7F7F7F7F7F7F

/-- Reserve a place in a neighbour's queue, to be delivered when the result is ready (R38, R40). -/
def State.pushTow (s : State) (c : Change) (east : Bool) (lat : Nat) (v : Vec) : Change :=
  let q := if east then s.east s.myLogical else s.west s.myLogical
  let t : Tow := { id := c.dev.fresh, v := v }
  (c.tick.core q fun k => if east then { k with fromWest := k.fromWest ++ [t] } else { k with fromEast := k.fromEast ++ [t] }).sched
    (c.dev.now + lat) .towpathDelivery { a := q, b := t.id }

/-- Write or push a vector result; a pushed vector carries zero in its inactive bytes (R124). -/
def State.setV (s : State) (c : Change) (lat : Nat) (d : Reg) (act : Nat → Bool) (v : Vec) : Change :=
  if d.toNat < 16 then c.result lat (vecWrites (s.vKey d) act v)
  else
    let z := bytesVec ((List.range 256).map fun b => if act b then v.extractLsb' (8 * b) 8 else 0)
    if d.toNat = 16 then s.emit c (.feed (vecWords z) unitScales s.opCtx.lease.array s.opCtx.lease.serial) (lat - 1)
    else s.pushTow c (d.toNat = 17) lat z

/-! ## The common frame of vector instructions (R124 to R126) -/

/-- Traps and waits of the queue operands of a group (R126, R128). In a harvest context a queue operand is 0x042 at once, whatever the
queue holds, and TRAPAUX names the first such source in field order, else the destination. (DESIGN CHOICE, log entry 116.) -/
def State.queueTrap (s : State) (srcs : List Reg) (d : Option Reg) : Option Trap :=
  if s.harvest then
    match srcs.find? pops with
    | some c => some (s.trapHere 0x042 (BitVec.ofNat 64 c.toNat))
    | none =>
      match d with
      | some d => if pushes d then some (s.trapHere 0x042 (BitVec.ofNat 64 (32 + d.toNat))) else none
      | none => none
  else none
def State.queueWait (s : State) (srcs : List Reg) (d : Option Reg) : Option Wait :=
  if s.harvest then none
  else if s.speculative && (srcs.any pops || (match d with | some d => pushes d | none => false)) then some .spec
  else
    match srcs.findSome? fun c => (s.vsrc c).wait with
    | some w => some w
    | none => match d with
      | some d => s.vdstWait d
      | none => none

/-- Pop each popping code once (R38). -/
def State.popAll (s : State) (c : Change) (srcs : List Reg) : Change :=
  (srcs.filter pops).eraseDups.foldl (fun c r => (s.vsrc r).pop c) c
def State.srcTrap (s : State) (srcs : List Reg) (d : Option Reg) : Option Trap :=
  match s.queueTrap srcs d with
  | some t => some t
  | none =>
    match srcs.findSome? fun c => (s.vsrc c).trap with
    | some t => some t
    | none => match d with
      | some d => s.vdstTrap d
      | none => none

/-- The words of the destination that hold an active element, read by VMAC, VDOT, VFFMA and VCLAMP (R125). -/
def State.readsDst (s : State) (d : Reg) (act : Nat → Bool) : List Nat :=
  ((List.range 32).filter fun i => (List.range 8).any fun b => act (8 * i + b)).map (s.vKey d / 8 + ·)

/-- A vector instruction with a vector destination. `words` are its further source words (mask, scalars), `srcs` its vector
sources, `act` the active bytes, `readsD` whether it reads its destination, and `r` the result. -/
def State.vectorOp (s : State) (lat : Nat) (d : Reg) (srcs : List Reg) (words : List Nat) (act : Nat → Bool)
    (readsD : Bool) (r : List Vec → Vec → Vec) : Host.Outcome State Fault Refusal :=
  let reg := decide (d.toNat < 16)
  let fp : Foot :=
    { src := words ++ (srcs.flatMap fun c => (s.vsrc c).words) ++ (if readsD then s.readsDst d act else [])
      dst := if reg then (wholeWords act).map (s.vKey d / 8 + ·) else []
      part := if reg then (partWords act).map (s.vKey d / 8 + ·) else [] }
  s.issue fp (s.queueWait srcs (some d)) <|
    match s.srcTrap srcs (some d) with
    | some t => .error t
    | none => .ok (s.setV (s.popAll s.keep srcs) lat d act (r (srcs.map fun c => (s.vsrc c).val) (if readsD then s.v d else 0)))

/-- Element-wise operation at width `w` on two sources and the old destination. -/
def mapLanes (w : Nat) (f : Nat → Nat → Nat → Nat) (a b d : Vec) : Vec :=
  ofLanes w ((List.range (2048 / w)).map fun k => f (lane w a k) (lane w b k) (lane w d k))

end Sys2Proof.Machine
end

