-- ==== Sys2Proof/Machine/Scalar.lean ====
section
/-!
DEFINITION. Scalar integer, immediate, compare and predicate instructions (R111 to R119).
-/

namespace Sys2Proof.Machine

abbrev Out := Host.Outcome State Fault Refusal

/-! ## Shapes -/

/-- d ← f(a, b) with a latency. -/
def State.scalar2 (s : State) (lat : Nat) (d a b : Reg) (f : Word → Word → Word) : Out :=
  s.issue { src := s.srcW a ++ s.srcW b, dst := s.dstW d } none (.ok (s.setW s.keep lat d (f (s.w a) (s.w b))))
/-- d ← f(a). -/
def State.scalar1 (s : State) (lat : Nat) (d a : Reg) (f : Word → Word) : Out :=
  s.issue { src := s.srcW a, dst := s.dstW d } none (.ok (s.setW s.keep lat d (f (s.w a))))
/-- d ← f(a, b, d): the destination is a source (R26). -/
def State.scalar3 (s : State) (lat : Nat) (d a b : Reg) (f : Word → Word → Word → Word) : Out :=
  s.issue { src := s.srcW a ++ s.srcW b ++ s.srcW d, dst := s.dstW d } none
    (.ok (s.setW s.keep lat d (f (s.w a) (s.w b) (s.w d))))
/-- pD ← f(a, b). -/
def State.toPred (s : State) (lat : Nat) (d : BitVec 3) (a b : Reg) (f : Word → Word → Bool) : Out :=
  s.issue { src := s.srcW a ++ s.srcW b, part := s.dstP d } none (.ok (s.setP s.keep lat d (f (s.w a) (s.w b))))
/-- pD ← f(pA, pB). -/
def State.pred2 (s : State) (d a b : BitVec 3) (f : Bool → Bool → Bool) : Out :=
  s.issue { src := s.srcP a ++ s.srcP b, part := s.dstP d } none (.ok (s.setP s.keep 1 d (f (s.p a) (s.p b))))
/-- The shared divider (R113): the group waits while it is busy, empties d, and d fills after `cycles`. -/
def State.divide (s : State) (d : Reg) (src : List Nat) (cycles : Nat) (v : Word) : Out :=
  s.issue { src := src, dst := s.dstW d } (if s.dev.now < s.my.divUntil then some .divider else none)
    (.ok (s.fillAt (s.keep.mine fun k => { k with divUntil := s.dev.now + cycles }) (s.fillW d) (s.dev.now + cycles) v))

/-! ## Integer operations on words (R111 to R114) -/

def minS (a b : Word) : Word := if b.slt a then b else a
def maxS (a b : Word) : Word := if a.slt b then b else a
def minU (a b : Word) : Word := if b.ult a then b else a
def maxU (a b : Word) : Word := if a.ult b then b else a
/-- The shift count, b[5:0]. -/
def sh (b : Word) : Nat := b.toNat % 64
def sat64 (x : Int) : Word := BitVec.ofInt 64 (clamp (-(2 ^ 63 : Nat)) ((2 ^ 63 : Nat) - 1) x)
/-- Number of leading zero bits of a 64-bit word. -/
def clz64 (a : Word) : Nat := 64 - bitLen a.toNat
/-- Number of 1 bits. -/
def popCount : Nat → Nat → Nat
  | 0, _ => 0
  | k + 1, n => n % 2 + popCount k (n / 2)
/-- BFX (R114). -/
def bfx (sx : Bool) (a b : Word) : Word :=
  let l := b.toNat % 64
  let w := b.toNat / 256 % 64 + 1
  let f := a.toNat / 2 ^ l % 2 ^ (min w (64 - l))
  if sx then sext w f else BitVec.ofNat 64 f
/-- BFI (R114). -/
def bfi (a b d : Word) : Word :=
  let l := b.toNat % 64
  let w := b.toNat / 256 % 64 + 1
  let mask : Word := BitVec.ofNat 64 ((2 ^ w - 1) * 2 ^ l)
  (d &&& ~~~mask) ||| ((a <<< l) &&& mask)
def signedDiv (a b : Word) : Word := if b = 0 then BitVec.allOnes 64 else a.sdiv b
def signedRem (a b : Word) : Word := if b = 0 then a else a.srem b
def unsignedDiv (a b : Word) : Word := if b = 0 then BitVec.allOnes 64 else a / b
def unsignedRem (a b : Word) : Word := if b = 0 then a else a % b
/-- Significant bits of the quotient's magnitude (R113). -/
def quotBits (signed : Bool) (a b : Word) : Nat :=
  if b = 0 then 64
  else if signed then bitLen (a.toInt.natAbs / b.toInt.natAbs)
  else bitLen (a.toNat / b.toNat)
/-- Cycles from issue to the fill of a division (R113). -/
def divCycles (signed : Bool) (a b : Word) : Nat := 4 + (quotBits signed a b + 1) / 2
/-- The immediate of an AI form (R115). -/
def imm10 (i : BitVec 10) : Word := i.signExtend 64

/-! ## Two-operand group, major 0x01 (R111) -/

def execAdd (d a b : Reg) (s : State) : Out := s.scalar2 1 d a b (· + ·)
def execSub (d a b : Reg) (s : State) : Out := s.scalar2 1 d a b (· - ·)
def execAnd (d a b : Reg) (s : State) : Out := s.scalar2 1 d a b (· &&& ·)
def execOr (d a b : Reg) (s : State) : Out := s.scalar2 1 d a b (· ||| ·)
def execXor (d a b : Reg) (s : State) : Out := s.scalar2 1 d a b (· ^^^ ·)
def execAndn (d a b : Reg) (s : State) : Out := s.scalar2 1 d a b fun x y => x &&& ~~~y
def execShl (d a b : Reg) (s : State) : Out := s.scalar2 1 d a b fun x y => x <<< sh y
def execShr (d a b : Reg) (s : State) : Out := s.scalar2 1 d a b fun x y => x >>> sh y
def execSra (d a b : Reg) (s : State) : Out := s.scalar2 1 d a b fun x y => x.sshiftRight (sh y)
def execRot (d a b : Reg) (s : State) : Out := s.scalar2 1 d a b fun x y => x.rotateLeft (sh y)
def execMin (d a b : Reg) (s : State) : Out := s.scalar2 1 d a b minS
def execMax (d a b : Reg) (s : State) : Out := s.scalar2 1 d a b maxS
def execMinu (d a b : Reg) (s : State) : Out := s.scalar2 1 d a b minU
def execMaxu (d a b : Reg) (s : State) : Out := s.scalar2 1 d a b maxU
def execAddsat (d a b : Reg) (s : State) : Out := s.scalar2 1 d a b fun x y => sat64 (x.toInt + y.toInt)
def execSubsat (d a b : Reg) (s : State) : Out := s.scalar2 1 d a b fun x y => sat64 (x.toInt - y.toInt)

/-! ## One-operand group, major 0x02 (R112) -/

def execMov (d a : Reg) (s : State) : Out := s.scalar1 1 d a id
def execAbs (d a : Reg) (s : State) : Out := s.scalar1 1 d a fun x => if x.msb then -x else x
def execClz (d a : Reg) (s : State) : Out := s.scalar1 1 d a fun x => BitVec.ofNat 64 (clz64 x)
def execCtz (d a : Reg) (s : State) : Out := s.scalar1 1 d a fun x => BitVec.ofNat 64 (ctz 64 x.toNat)
def execPopc (d a : Reg) (s : State) : Out := s.scalar1 1 d a fun x => BitVec.ofNat 64 (popCount 64 x.toNat)
/-- Width in bits of SEXT's and ZEXT's width code. -/
def Size.bits : Size → Nat
  | .b => 8 | .h => 16 | .s => 32 | .w => 64
def execSext (d a : Reg) (w : Size) (s : State) : Out := s.scalar1 1 d a fun x => sext (Size.bits w) x.toNat
def execZext (d a : Reg) (w : Size) (s : State) : Out :=
  s.scalar1 1 d a fun x => BitVec.ofNat 64 (x.toNat % 2 ^ Size.bits w)

/-! ## Multiply and divide group, major 0x03 (R113) -/

def execMul (d a b : Reg) (s : State) : Out := s.scalar2 3 d a b (· * ·)
def execMulh (d a b : Reg) (s : State) : Out :=
  s.scalar2 3 d a b fun x y => BitVec.ofInt 64 (x.toInt * y.toInt / (2 ^ 64 : Nat))
def execMulhu (d a b : Reg) (s : State) : Out :=
  s.scalar2 3 d a b fun x y => BitVec.ofNat 64 (x.toNat * y.toNat / 2 ^ 64)
def execDiv (d a b : Reg) (s : State) : Out :=
  s.divide d (s.srcW a ++ s.srcW b) (divCycles true (s.w a) (s.w b)) (signedDiv (s.w a) (s.w b))
def execDivu (d a b : Reg) (s : State) : Out :=
  s.divide d (s.srcW a ++ s.srcW b) (divCycles false (s.w a) (s.w b)) (unsignedDiv (s.w a) (s.w b))
def execRem (d a b : Reg) (s : State) : Out :=
  s.divide d (s.srcW a ++ s.srcW b) (divCycles true (s.w a) (s.w b)) (signedRem (s.w a) (s.w b))
def execRemu (d a b : Reg) (s : State) : Out :=
  s.divide d (s.srcW a ++ s.srcW b) (divCycles false (s.w a) (s.w b)) (unsignedRem (s.w a) (s.w b))

/-! ## Select, bit fields, shifted add (R114) -/

def execSel (d a b : Reg) (p : BitVec 3) (s : State) : Out :=
  s.issue { src := s.srcP p ++ s.srcW a ++ s.srcW b, dst := s.dstW d } none
    (.ok (s.setW s.keep 1 d (if s.p p then s.w a else s.w b)))
def execBfx (d a b : Reg) (s : State) : Out := s.scalar2 1 d a b (bfx false)
def execBfxSx (d a b : Reg) (s : State) : Out := s.scalar2 1 d a b (bfx true)
def execBfi (d a b : Reg) (s : State) : Out := s.scalar3 1 d a b bfi
def execAdds (d a b : Reg) (h : BitVec 3) (s : State) : Out := s.scalar2 1 d a b fun x y => x + (y <<< h.toNat)

/-! ## Immediate forms (R115 to R117) -/

def execAddImm (d a : Reg) (i : BitVec 10) (s : State) : Out := s.scalar1 1 d a fun x => x + imm10 i
def execAndImm (d a : Reg) (i : BitVec 10) (s : State) : Out := s.scalar1 1 d a fun x => x &&& imm10 i
def execOrImm (d a : Reg) (i : BitVec 10) (s : State) : Out := s.scalar1 1 d a fun x => x ||| imm10 i
def execXorImm (d a : Reg) (i : BitVec 10) (s : State) : Out := s.scalar1 1 d a fun x => x ^^^ imm10 i
def execShlImm (d a : Reg) (i : BitVec 10) (s : State) : Out := s.scalar1 1 d a fun x => x <<< sh (imm10 i)
def execShrImm (d a : Reg) (i : BitVec 10) (s : State) : Out := s.scalar1 1 d a fun x => x >>> sh (imm10 i)
def execSraImm (d a : Reg) (i : BitVec 10) (s : State) : Out := s.scalar1 1 d a fun x => x.sshiftRight (sh (imm10 i))
def execRotImm (d a : Reg) (i : BitVec 10) (s : State) : Out := s.scalar1 1 d a fun x => x.rotateLeft (sh (imm10 i))
def execMinImm (d a : Reg) (i : BitVec 10) (s : State) : Out := s.scalar1 1 d a fun x => minS x (imm10 i)
def execMaxImm (d a : Reg) (i : BitVec 10) (s : State) : Out := s.scalar1 1 d a fun x => maxS x (imm10 i)
def execMulImm (d a : Reg) (i : BitVec 10) (s : State) : Out := s.scalar1 3 d a fun x => x * imm10 i
/-- Field k of a work ID under the launch's widths (R117, R219). -/
def workField (widths : List Nat) (k : Nat) (a : Word) : Word :=
  let o := (widths.take k).foldl (· + ·) 0
  BitVec.ofNat 64 (a.toNat / 2 ^ o % 2 ^ widths.getD k 0)
def execWidx (d a : Reg) (i : BitVec 10) (s : State) : Out := s.scalar1 1 d a (workField s.my.widths i.toNat)
def execMovi (d : Reg) (i : BitVec 15) (s : State) : Out :=
  s.issue { dst := s.dstW d } none (.ok (s.setW s.keep 1 d (i.signExtend 64)))
def execMovh (d : Reg) (i : BitVec 15) (s : State) : Out :=
  s.issue { src := s.srcW d, dst := s.dstW d } none
    (.ok (s.setW s.keep 1 d ((s.w d <<< 15) ||| i.setWidth 64)))

/-! ## Compare and predicates (R118, R119) -/

def execCmp (d : BitVec 3) (a b : Reg) (c : Cond) (s : State) : Out := s.toPred 1 d a b (Cond.eval c)
def execPand (d a b : BitVec 3) (s : State) : Out := s.pred2 d a b and
def execPor (d a b : BitVec 3) (s : State) : Out := s.pred2 d a b or
def execPxor (d a b : BitVec 3) (s : State) : Out := s.pred2 d a b xor
def execPnot (d a : BitVec 3) (s : State) : Out := s.pred2 d a a fun x _ => !x
def execPmov (d a : BitVec 3) (s : State) : Out := s.pred2 d a a fun x _ => x

end Sys2Proof.Machine
end

