-- ==== Sys2Proof/Machine/Local.lean ====
section
/-!
DEFINITION. Near SRAM as accesses meet it: its banks (R255 to R257), the predicate words' unwritable bits (R51), local reads
and writes of the running context (R57, R149 to R151, R271), and the destinations of long-latency loads (R58, R148, R153).
-/

namespace Sys2Proof.Machine

/-! ## Banks -/

/-- The banks that `n` bytes from `a` lie in, as a bit mask (R255). -/
def bankBits (a n : Nat) : Nat :=
  if 241 ≤ n then 0xFFFF
  else (List.range ((a + n + 15) / 16 - a / 16)).foldl (fun m i => m ||| 2 ^ ((a / 16 + i) % 16)) 0

/-- Width of an atomic in bytes (R157). -/
def AtomicOp.width : AtomicOp → Nat
  | .fadd | .fmin | .fmax => 4
  | _ => 8
/-- Bytes that an arriving access reads or writes. -/
def Cargo.size : Cargo → Nat
  | .effect (.store _ _ bs) => bs.length
  | .effect (.atomic _ op ..) => op.width
  | .effect _ => 8
  | .read _ _ n _ _ => n
  | .block _ _ n => n
  | .copyRead _ _ _ b => b
  | .copyWrite _ _ data => data.foldl (fun n d => n + d.2.length) 0

/-- Banks of a core that a ring-rotate row or the second cycle of an unaligned access has in this cycle (R256, items 1 and 4). -/
def State.shutBanks (s : State) (p : Nat) : Nat :=
  let k := s.core p
  if (k.rotFrom ≤ s.dev.now ∧ s.dev.now < k.rotUntil) ∨ (k.secondAt = s.dev.now ∧ 0 < s.dev.now) then 0xFFFF else 0
/-- Banks of a core that flights which meet a test need. -/
def State.flightBanks (s : State) (p : Nat) (q : Nat → Flight → Bool) : Nat :=
  s.dev.flights.foldl (fun m f =>
    match f.2.place with
    | .near c o => if c = p ∧ q f.1 f.2 then m ||| bankBits o f.2.cargo.size else m
    | _ => m) 0
/-- Banks that arriving accesses which have waited 8 cycles reserve (R256, item 2). -/
def State.lateBanks (s : State) (p : Nat) : Nat := s.flightBanks p fun _ f => decide (8 ≤ f.waited)
/-- The bank that the oldest local strided or indexed instruction reserves (R256, item 3). -/
def State.elementBank (s : State) (p : Nat) : Nat :=
  match (s.core p).strided.head? with
  | some t => (match t.elems.head? with
    | some e => bankBits e.off t.size
    | none => 0)
  | none => 0
/-- Banks that accesses of this cycle have used. -/
def State.used (s : State) (p : Nat) : Nat := if (s.core p).takenAt = s.dev.now then (s.core p).taken else 0
/-- Banks that a new access of the core itself finds taken. -/
def State.takenBanks (s : State) (p : Nat) : Nat := s.shutBanks p ||| s.lateBanks p ||| s.elementBank p ||| s.used p
/-- The path of an access: 0 local, 1 cluster, 2 device, 3 none (R268). -/
def Flight.path (f : Flight) : Nat :=
  match f.place with
  | .near .. => (match f.cargo with
    | .read .. => if f.grp.isNone then 0 else 1
    | .effect (.atomic sc ..) => if sc = .core then 0 else 1
    | _ => 1)
  | .bstore .. => 1
  | .virt _ => 2
  | .phys _ => 2
  | .away .. => 2
  | _ => 3
/-- An earlier local access of the running context to some of these bytes is not yet performed: an element of its own, or an access
that waits for its word (R268). -/
def State.localBehind (s : State) (ea n : Nat) : Bool :=
  (s.my.strided.any fun t => t.org.slot == s.slot && t.org.act == s.act.num && t.elems.any fun e => overlaps e.off t.size ea n) ||
    s.dev.flights.any fun f => f.2.org.core == s.here && f.2.org.slot == s.slot && f.2.path == 0 && match f.2.place with
      | .near p o => p == s.here && overlaps o f.2.cargo.size ea n
      | _ => false
/-- A local access waits for what its context has still to do at its bytes (R268), or finds a bank of its taken: its group is not
ready in this cycle (R256, item 5). -/
def State.bankWait (s : State) (ea n : Nat) : Option Wait :=
  if s.localBehind ea n then some .loads
  else if bankBits ea n &&& s.takenBanks s.here ≠ 0 then some .bank
  else none
/-- Use banks of a core in this cycle; an unaligned local vector access takes all of them in the next one too (R146). -/
def Change.useBanks (c : Change) (p mask : Nat) (twice : Bool := false) : Change :=
  c.core p fun k => { k with taken := (if k.takenAt = c.dev.now then k.taken else 0) ||| mask, takenAt := c.dev.now
                             secondAt := if twice then c.dev.now + 1 else k.secondAt }

/-! ## Near SRAM bytes -/

/-- A byte of a predicate word's bits 63:8, of a context that has its workspace in near SRAM (R51).
(DEDUCED, log entry 20.) -/
def State.predHole (s : State) (p off : Nat) : Bool :=
  (s.core p).ctxs.any fun x => x.2.live && !(decide (11 ≤ x.1) && decide (x.1 ≤ 14)) &&
    decide (x.2.wp + 0x141 ≤ off) && decide (off < x.2.wp + 0x148)
/-- Read near SRAM: those bits read zero. -/
def State.nearBytes (s : State) (p off n : Nat) : List Byte :=
  (List.range n).map fun i => if s.predHole p (off + i) then 0 else s.byte (nearKey p (off + i))
/-- Write near SRAM: those bits ignore writes. -/
def State.nearWrite (s : State) (c : Change) (p off : Nat) (bs : List Byte) : Change :=
  if (List.range bs.length).any fun i => s.predHole p (off + i) then
    (List.range bs.length).foldl (fun c i =>
      if s.predHole p (off + i) then c else c.write (nearKey p (off + i)) [bs.getD i 0]) c
  else c.write (nearKey p off) bs

/-! ## Local accesses of the running context -/

/-- Every register word of a list is readable now, so that an address formed from it can be looked at (R27). -/
def State.regsReady (s : State) (ws : List Nat) : Bool := ws.all fun w => s.view.tagOf w == .full && s.notReady w == 0
/-- The traps of a local access: its address, then the range locks. -/
def State.localTrap (s : State) (ea : Word) (n al : Nat) (wr : Bool) : Option Trap :=
  match s.checkAccess .l ea n al wr with
  | some t => some t
  | none => s.lockTrap ea.toNat n wr
/-- The address of a local access can be looked at, and it leads somewhere: what the group waits for there, it waits for before it raises
anything (R31). -/
def State.reaches (s : State) (regs : List Nat) (ea : Word) (n al : Nat) (wr : Bool) : Bool :=
  (s.checkAccess .l ea n al wr).isNone && s.regsReady regs
/-- Bytes that the running activation forwards to itself (R150). -/
def State.forwards (s : State) (md : AddrMode) (ea n : Nat) : List (Option Byte) :=
  (List.range n).map fun i => s.forward md (ea + i)
/-- Words of the running core's near SRAM that an access touches, by key. -/
def State.nearWords (s : State) (ea n : Nat) : List Nat :=
  (List.range ((ea + n + 7) / 8 - ea / 8)).map fun i => nearKey s.here 0 / 8 + ea / 8 + i
/-- A speculative local read that needs a new line of a full tracker holds its context (R304). -/
def State.trackWait (s : State) (k n : Nat) : Option Wait :=
  if s.speculative && s.trackerFull k n then some .tracker else none
/-- Words of a local read that are looked at: those of which some byte is not forwarded.
(DEDUCED, log entry 15.) -/
def State.readWords (s : State) (ea n : Nat) (fwd : List (Option Byte)) : List Nat :=
  (s.nearWords ea n).filter fun w =>
    (List.range n).any fun i => decide ((nearKey s.here (ea + i)) / 8 = w) && (fwd.getD i none).isNone
/-- The bytes a local read takes, at its bank in the cycle of its issue (R271). -/
def State.readBytes (s : State) (ea n : Nat) (fwd : List (Option Byte)) : List Byte :=
  (List.range n).map fun i => match fwd.getD i none with
    | some b => b
    | none => (s.view.nearBytes s.here (ea + i) 1).headD 0
/-- What a local read does beside its result: banks, owner touch, tracking (R302, R376). `fwd` gives the forwarded bytes, none of
them for a read that looks at tags. -/
def State.readDone (s : State) (c : Change) (ea n : Nat) (fwd : List (Option Byte)) : Change :=
  let c := c.useBanks s.here (bankBits ea n) (decide (n = 256 ∧ ea % 256 ≠ 0))
  let c := if s.harvest then c else c.touch s.here ea n
  if s.speculative && !((List.range n).all fun i => (fwd.getD i none).isSome) then c.track s.origin (nearKey s.here ea) n else c

/-- A local access has set the tags of words in this cycle (R60). -/
def Change.tagSet (c : Change) (p : Nat) (ws : List Nat) : Change :=
  c.core p fun k => { k with tagged := (k.tagged.filter fun t => t.1 == c.dev.now) ++ ws.map fun w => (c.dev.now, w) }
/-- Record what a local store of a core replaces, for the fetches of the next three cycles (R23). -/
def State.rememberAt (s : State) (c : Change) (p ea n : Nat) : Change :=
  let new := (s.dev.now, ea, (s.apply c).bytesAt (nearKey p ea) n)
  c.core p fun k => { k with recent := new :: k.recent.filter fun r => decide (s.dev.now ≤ r.1 + 3) }
def State.remember (s : State) (c : Change) (ea n : Nat) : Change := s.rememberAt c s.here ea n
/-- A write that is performed by the running context: conflicts hold it until their notices are accepted (R305, R307). -/
def State.conflicts (s : State) (c : Change) (k n : Nat) : Change :=
  let o := s.origin
  if (c.dev.victims k n (some (o.dom, o.ts))).isEmpty then c
  else (c.conflict o true k n).me fun x => { x with holds := x.holds ++ [.notices] }
/-- A local store: at once, or into the hold buffer while speculative (R149). -/
def State.localWrite (s : State) (c : Change) (ea : Nat) (bs : List Byte) : Change :=
  let n := bs.length
  let c := if s.harvest then c else c.touch s.here ea n
  if s.speculative then
    let e : Effect := .localStore ea bs
    c.mine fun k => { k with hold := k.hold ++ [{ org := s.origin, eff := e, bytes := e.cost, after := true }] }
  else
    s.conflicts (s.nearWrite (s.remember (c.useBanks s.here (bankBits ea n) (decide (n = 256 ∧ ea % 256 ≠ 0))) ea n)
      s.here ea bs) (nearKey s.here ea) n
/-- Bytes of the hold buffer that a local store needs (R301). -/
def State.localNeed (s : State) (n : Nat) : Nat := if s.speculative then (Effect.localStore 0 (List.replicate n 0)).cost else 0
/-- What a local store waits for: its bank, or room in the hold buffer. -/
def State.writeWait (s : State) (ea n : Nat) : Option Wait :=
  if s.speculative then s.noRoom (s.localNeed n) else s.bankWait ea n
/-- Words that a local store writes only in part (R57). -/
def State.partOf (s : State) (ea n : Nat) : List Nat :=
  (s.nearWords ea n).filter fun w => decide (w * 8 < nearKey s.here ea) || decide (nearKey s.here (ea + n) < w * 8 + 8)

/-! ## Destinations of long-latency loads -/

/-- Fills for a list of destination words, each waiting for `left` parts; their numbers are consecutive. -/
def State.fillsFor (s : State) (c : Change) (dsts : List (Option Nat)) (left : Nat) (load : Option Nat) (size : Nat)
    (sx : Bool) : Change := dsts.foldl (fun c d => s.fill c d left load size sx true) c
/-- The destination words of a vector register. -/
def State.vecDsts (s : State) (d : Reg) : List (Option Nat) := (List.range 32).map fun i => some (s.vKey d + 8 * i)

/-- A part of a fill has come: its bytes, or the record of the element that faulted; the lowest-numbered one stands (R153).
When the last has come, the word fills at `cycle`, or after a time the manual leaves open. -/
def Change.part (c : Change) (id at_ elem : Nat) (r : Except Word (List Byte)) (cycle : Option Nat) : Change :=
  match c.dev.fills.find id with
  | none => c
  | some f =>
    let f := { f with left := f.left - 1 }
    let f := match r with
      | .ok bs => { f with val := f.val ||| BitVec.ofNat 64 (leNat bs * 2 ^ (8 * at_)) }
      | .error e => { f with record := match f.record with
          | some (k, v) => if k ≤ elem then some (k, v) else some (elem, e)
          | none => some (elem, e) }
    let c := c.dv fun d => { d with fills := d.fills.set id f }
    if f.left = 0 then
      match cycle with
      | some t => c.sched t .fill { a := id }
      | none => c.soon .fill { a := id }
    else c

/-- A record whose detail the manual does not give: a free value (R56). (DESIGN CHOICE, log entry 21.) -/
def freeRecord (cause n : Nat) : Word := BitVec.ofNat 64 (cause + 65536 * ((Config.word n).toNat % 2 ^ 48))
/-- The record with which a word that holds POISON or the reserved tag is delivered (R148). -/
def State.recordOf (s : State) (w n : Nat) : Word := if s.tagOf w = .poison then s.wordAt (w * 8) else freeRecord 0x0A1 n

end Sys2Proof.Machine
end

