-- ==== Sys2Proof/Machine/LoadStore.lean ====
section
/-!
DEFINITION. Loads, stores, strided and indexed vector accesses, full/empty words, tags and block reads (R145 to R156).
-/

namespace Sys2Proof.Machine

/-! ## Effective addresses (R145, R147) -/

def Size.bytes (z : Size) : Nat := Size.bits z / 8
/-- RegW(a) + SignExtend(off) × unit, modulo 2^64. -/
def State.ea (s : State) (a : Reg) (o : BitVec 6) (unit : Nat) : Word := s.w a + BitVec.ofInt 64 (o.toInt * unit)

/-! ## Loads (R148) -/

/-- A local load of `n` bytes, aligned to `al`: `dst` its destination words and `put` the write of its result. -/
def State.localLoad (s : State) (regs dst : List Nat) (ea : Word) (n al : Nat) (put : Change → List Byte → Change) : Out :=
  let t := s.localTrap ea n al false
  let go := s.reaches regs ea n al false
  let e := ea.toNat
  let fwd := s.forwards .l e n
  s.issue { src := regs, dst := dst, mem := if go && t.isNone then s.readWords e n fwd else [] }
    (if go then (if (s.readWords e n fwd).any fun w => s.view.tagOf w == .empty then some .tag
      else match s.bankWait e n with
      | some w => some w
      | none => if fwd.all Option.isSome then none else s.trackWait (nearKey s.here e) n) else none) <|
    match t with
    | some t => .error t
    | none => .ok (put (s.readDone s.keep e n fwd) (s.readBytes e n fwd))

/-- The parts of a remote read: address and length of each, its place among the destination words, and its element. -/
structure Part where
  ea : Nat
  n : Nat
  word : Nat
  at_ : Nat
  elem : Nat
deriving DecidableEq, Repr

/-- A remote load: fills for its destination words and a read for each part (R148). -/
def State.remoteRead (s : State) (md : AddrMode) (dsts : List (Option Nat)) (size : Nat) (sx : Bool) (ps : List Part) : Change :=
  let load := s.dev.fresh
  let f0 := s.dev.fresh + 1
  let c := s.fillsFor (s.keep.tick) dsts (ps.length / dsts.length) (some load) size sx
  ps.foldl (fun c p => s.readPart c md p.ea (f0 + p.word) p.at_ p.n p.elem (some load)) (c.count s.here 27)
def State.remoteLoad (s : State) (regs dst : List Nat) (trap : Option Trap) (c : Change) : Out :=
  s.issue { src := regs, dst := dst } s.loadRoom <|
    match trap with
    | some t => .error t
    | none => .ok c

/-- A scalar value as a load extends it. -/
def extend (n : Nat) (sx : Bool) (v : Nat) : Word := if sx then sext (8 * n) v else BitVec.ofNat 64 v
def State.load (s : State) (d a : Reg) (m : AddrMode) (z : Size) (o : BitVec 6) (sx : Bool) : Out :=
  let n := Size.bytes z
  let ea := s.ea a o n
  if m = .l then
    s.localLoad (s.srcW a) (s.dstW d) ea n n fun c bs => s.setW c 3 d (extend n sx (leNat bs))
  else
    s.remoteLoad (s.srcW a) (s.dstW d) (s.checkAccess m ea n n false)
      (s.remoteRead m [s.fillW d] n sx [{ ea := ea.toNat, n := n, word := 0, at_ := 0, elem := 0 }])
def execLd (d a : Reg) (m : AddrMode) (z : Size) (o : BitVec 6) (s : State) : Out := s.load d a m z o false
def execLdSx (d a : Reg) (m : AddrMode) (z : Size) (o : BitVec 6) (s : State) : Out := s.load d a m z o true

/-- The words of a vector register. -/
def State.dstV (s : State) (d : Reg) : List Nat := s.srcV d
def execVld (d a : Reg) (m : AddrMode) (o : BitVec 6) (s : State) : Out :=
  let ea := s.ea a o 256
  if m = .l then
    s.localLoad (s.srcW a) (s.dstV d) ea 256 8 fun c bs => c.result 4 (vecWrites (s.vKey d) (fun _ => true) (bytesVec bs))
  else
    s.remoteLoad (s.srcW a) (s.dstV d) (s.checkAccess m ea 256 8 false)
      (s.remoteRead m (s.vecDsts d) 8 false ((List.range 32).map fun i =>
        { ea := ea.toNat + 8 * i, n := 8, word := i, at_ := 0, elem := i }))

/-! ## Stores (R149) -/

/-- A local store of bytes. -/
def State.localStore (s : State) (regs : List Nat) (ea : Word) (n al : Nat) (bs : List Byte) : Out :=
  let t := s.localTrap ea n al true
  let go := s.reaches regs ea n al true
  s.issue { src := regs, memPart := if go && t.isNone && !s.speculative then s.partOf ea.toNat n else [] }
    (if s.speculative || go then s.writeWait ea.toNat n else none) <|
    match t with
    | some t => .error t
    | none => .ok (s.localWrite s.keep ea.toNat bs)
/-- A store in another mode: an effect, which needs room in the hold buffer. -/
def State.remoteStore (s : State) (regs : List Nat) (trap : Option Trap) (es : List Effect) : Out :=
  let need := es.foldl (fun n e => n + e.cost) 0
  s.issue { src := regs } (s.noRoom need) <|
    match trap with
    | some t => .error t
    | none => match s.overflow need with
      | some t => .error t
      | none => .ok (es.foldl (fun c e => s.emit c e) s.keep)
def execSt (d a : Reg) (m : AddrMode) (z : Size) (o : BitVec 6) (s : State) : Out :=
  let n := Size.bytes z
  let ea := s.ea a o n
  let bs := natBytes n (s.w d).toNat
  if m = .l then s.localStore (s.srcW a ++ s.srcW d) ea n n bs
  else s.remoteStore (s.srcW a ++ s.srcW d) (s.checkAccess m ea n n true) [.store m ea.toNat bs]
def execVst (d a : Reg) (m : AddrMode) (o : BitVec 6) (s : State) : Out :=
  let ea := s.ea a o 256
  let bs := vecBytes (s.v d)
  if m = .l then s.localStore (s.srcW a ++ s.srcV d) ea 256 8 bs
  else s.remoteStore (s.srcW a ++ s.srcV d) (s.checkAccess m ea 256 8 true) [.store m ea.toNat bs]

/-! ## Strided and indexed accesses (R152, R153, R257) -/

/-- The element addresses of the strided and of the indexed forms. -/
def State.stridedEas (s : State) (a b : Reg) (n : Nat) : List Word :=
  (List.range (256 / n)).map fun k => s.w a + BitVec.ofNat 64 k * s.w b
def State.indexedEas (s : State) (a b : Reg) (n : Nat) : List Word :=
  (List.range (256 / n)).map fun k => s.w a + sext 32 (lane 32 (s.v b) k)
/-- The first element in ascending order that fails the address checks, and then the range locks of local elements. -/
def State.elemTrap (s : State) (md : AddrMode) (eas : List Word) (n : Nat) (wr : Bool) : Option Trap :=
  match eas.findSome? fun e => s.checkAccess md e n n wr with
  | some t => some t
  | none => if md = .l then eas.findSome? fun e => s.lockTrap e.toNat n wr else none
/-- Owner touches of local elements (R376). -/
def State.touchAll (s : State) (c : Change) (eas : List Word) (n : Nat) : Change :=
  if s.harvest then c else eas.foldl (fun c e => c.touch s.here e.toNat n) c

/-- VLDS and VLDX: every destination word is emptied and filled; local elements are read at their banks from this cycle on.
(DEDUCED, log entry 7.) -/
def State.gather (s : State) (d : Reg) (regs : List Nat) (md : AddrMode) (eas : List Word) (n : Nat) : Out :=
  let c : Change :=
    if md = .l then
      let f0 := s.dev.fresh
      let elems := eas.zipIdx.map fun e => { k := e.2, off := e.1.toNat, bytes := s.forwards .l e.1.toNat n : Elem }
      (s.touchAll (s.fillsFor s.keep (s.vecDsts d) (8 / n) none 8 false) eas n).mine fun k =>
        { k with strided := k.strided ++ [{ org := s.origin, store := false, num := s.dev.fresh, size := n, fill0 := f0, elems := elems
                                            tracked := s.speculative }] }
    else
      s.remoteRead md (s.vecDsts d) 8 false (eas.zipIdx.map fun e =>
        { ea := e.1.toNat, n := n, word := e.2 * n / 8, at_ := e.2 * n % 8, elem := e.2 })
  let go := (eas.all fun e => (s.checkAccess md e n n false).isNone) && s.regsReady regs
  let lines := (eas.filter fun e => !((s.forwards .l e.toNat n).all Option.isSome)).flatMap fun e => linesOf (nearKey s.here e.toNat) n
  let wait := if go && eas.any fun e => s.localBehind e.toNat n then some .loads
    else if go && s.speculative && s.linesFull lines.eraseDups then some .tracker else none
  s.issue { src := regs, dst := s.dstV d } (if md = .l then wait else s.loadRoom) <|
    match s.elemTrap md eas n false with
    | some t => .error t
    | none => .ok c
/-- VSTS and VSTX: local elements are written at their banks while the context is held; others are one store each. Of several POISON
words that local elements write in part, the trap names the first in element order, and tags are looked at when the group issues and
not again when an element is written. (DESIGN CHOICE, log entry 126.) -/
def State.scatter (s : State) (d : Reg) (regs : List Nat) (md : AddrMode) (eas : List Word) (n : Nat) : Out :=
  let t := s.elemTrap md eas n true
  let data (k : Nat) : List Byte := natBytes n (lane (8 * n) (s.v d) k)
  if md = .l then
    let need := s.localNeed n * eas.length
    let go := (eas.all fun e => (s.checkAccess md e n n true).isNone) && s.regsReady regs
    s.issue { src := regs, memPart := if go && t.isNone && !s.speculative then eas.flatMap fun e => s.partOf e.toNat n else [] }
      (if s.speculative then s.noRoom need else if go && eas.any fun e => s.localBehind e.toNat n then some .loads else none) <|
      match t with
      | some t => .error t
      | none =>
        if s.speculative then .ok (eas.zipIdx.foldl (fun c e => s.localWrite c e.1.toNat (data e.2)) s.keep)
        else
          let elems := eas.zipIdx.map fun e => { k := e.2, off := e.1.toNat, bytes := (data e.2).map some : Elem }
          .ok (((s.touchAll s.keep eas n).mine fun k =>
            { k with strided := k.strided ++ [{ org := s.origin, store := true, num := s.dev.fresh, size := n, elems := elems }] }).me fun x =>
            { x with holds := x.holds ++ [.elements] })
  else s.remoteStore regs t (eas.zipIdx.map fun e => .store md e.1.toNat (data e.2))

def execVlds (d a b : Reg) (e : Size) (m : AddrMode) (s : State) : Out :=
  s.gather d (s.srcW a ++ s.srcW b) m (s.stridedEas a b (Size.bytes e)) (Size.bytes e)
def execVsts (d a b : Reg) (e : Size) (m : AddrMode) (s : State) : Out :=
  s.scatter d (s.srcW a ++ s.srcW b ++ s.srcV d) m (s.stridedEas a b (Size.bytes e)) (Size.bytes e)
def execVldx (d a b : Reg) (e : Size) (m : AddrMode) (s : State) : Out :=
  s.gather d (s.srcW a ++ s.srcV b) m (s.indexedEas a b (Size.bytes e)) (Size.bytes e)
def execVstx (d a b : Reg) (e : Size) (m : AddrMode) (s : State) : Out :=
  s.scatter d (s.srcW a ++ s.srcV b ++ s.srcV d) m (s.indexedEas a b (Size.bytes e)) (Size.bytes e)

/-- One cycle of a core's local strided and indexed instructions (R256, items 3 and 6): oldest instruction first and ascending
element, one row of each bank; elements in one row of a bank are served together. An element that finds its word EMPTY waits as
a remote read does. `rows` pairs the banks this instruction has used with their rows, `busy` the banks taken before it. -/
def State.elementStep (s : State) (p : Nat) (c : Change) (t : Strided) (busy : Nat) : Change × Strided × Nat :=
  let step (acc : Change × List Elem × List (Nat × Nat)) (e : Elem) : Change × List Elem × List (Nat × Nat) :=
    let (c, left, rows) := acc
    let bank := e.off / 16 % 16
    let row := e.off / 256
    let w := nearKey p e.off / 8
    let whole := !t.store && e.bytes.all Option.isSome
    let free := match rows.find? fun r => r.1 == bank with
      | some r => r.2 == row
      | none => busy / 2 ^ bank % 2 == 0
    let id := t.fill0 + e.k * t.size / 8
    let pos := e.k * t.size % 8
    if !free then (c, left ++ [e], rows)
    else if t.store then
      let bs := e.bytes.map fun b => b.getD 0
      let k := nearKey p e.off
      let hit := !(c.dev.victims k t.size (some (t.org.dom, t.org.ts))).isEmpty
      let c := (s.nearWrite (s.rememberAt c p e.off t.size) p e.off bs).conflict t.org true k t.size
      let c := if hit then c.ctx p t.org.slot fun x => { x with holds := x.holds ++ [.notices] } else c
      (c, left, (bank, row) :: rows)
    else if !whole && s.tagOf w == .empty then
      let fid := c.dev.fresh
      let f : Flight := { org := t.org, cargo := .read id pos t.size e.k e.bytes, place := .near p e.off, tracked := t.tracked
                          home := true, came := fid + 1 }
      ((c.tick.dv fun d => { d with flights := d.flights.set fid f }).sched (c.dev.now + 1) .arrivingAccess { a := fid },
        left, rows)
    else if !whole && t.tracked && (s.apply c).trackerFull (nearKey p e.off) t.size then (c, left ++ [e], rows)
    else
      let r : Except Word (List Byte) :=
        if !whole && s.sramBad w then .error (sramRecord w)
        else if !whole && (s.tagOf w == .poison || s.tagOf w == .res) then .error (s.recordOf w id)
        else .ok (e.bytes.zipIdx.map fun b => match b.1 with
          | some x => x
          | none => (s.nearBytes p (e.off + b.2) 1).headD 0)
      let c := if whole then c else if s.sramBad w then c.sramPoison w else s.fixWords c [w]
      let c := if t.tracked && !whole then c.track t.org (nearKey p e.off) t.size else c
      (c.part id pos e.k r (some (c.dev.now + 3)), left, (bank, row) :: rows)
  let (c, left, rows) := t.elems.foldl step (c, [], [])
  let mask := rows.foldl (fun m r => m ||| 2 ^ r.1) 0
  (c.useBanks p mask, { t with elems := left }, busy ||| mask)
def State.elementsTurn (s : State) (p : Nat) : Change :=
  let (c, ts, _) := (s.core p).strided.foldl (fun (acc : Change × List Strided × Nat) t =>
    let (c, ts, busy) := acc
    let (c, t, busy) := s.elementStep p c t busy
    (c, if t.elems.isEmpty then ts else ts ++ [t], busy)) (s.keep, [], s.shutBanks p ||| s.used p ||| s.lateBanks p)
  c.core p fun k => { k with strided := ts }

/-! ## Full/empty words and tags (R154, R155) -/

/-- LDF: waits on EMPTY, traps on POISON and the reserved tag, reads, and empties the word if it takes it. -/
def State.ldf (s : State) (take : Bool) (d a : Reg) (o : BitVec 6) : Out :=
  let ea := s.ea a o 8
  let e := ea.toNat
  let t := s.localTrap ea 8 8 false
  let go := s.reaches (s.srcW a) ea 8 8 false
  let w := nearKey s.here e / 8
  s.issue { src := s.srcW a, dst := s.dstW d, mem := if go && t.isNone then [w] else [] }
    (if s.speculative then some .spec
     else if go then (if s.view.tagOf w = .empty then some .tag else s.bankWait e 8) else none) <|
    match t with
    | some t => .error t
    | none =>
      let c := s.readDone s.keep e 8 []
      let c := if take then (c.setTag w .empty).tagSet s.here [w] else c
      .ok (s.setW c 3 d (bytesWord (s.readBytes e 8 [])))
def execLdfTake (d a : Reg) (o : BitVec 6) (s : State) : Out := s.ldf true d a o
def execLdfKeep (d a : Reg) (o : BitVec 6) (s : State) : Out := s.ldf false d a o

/-- A remote STE or an atomic may not name a B-store (R157, R260). -/
def State.noBstore (s : State) (md : AddrMode) (ea : Word) (n : Nat) : Option Trap :=
  match s.checkAccess md ea n n true with
  | some t => some t
  | none => if md = .cd ∧ 192 ≤ ea.toNat / 8388608 then some (s.trap 0x083 ea (accessAux md n true)) else none

def execSte (d a : Reg) (m : AddrMode) (o : BitVec 6) (s : State) : Out :=
  let ea := s.ea a o 8
  let regs := s.srcW a ++ s.srcW d
  if m = .l then
    let t := s.localTrap ea 8 8 true
    let go := s.reaches regs ea 8 8 true
    let w := nearKey s.here ea.toNat / 8
    s.issue { src := regs, memPart := if go && t.isNone then [w] else [] }
      (if s.speculative then some .spec
       else if go then (if s.view.tagOf w = .full then some .tag else s.bankWait ea.toNat 8) else none) <|
      match t with
      | some t => .error t
      | none => .ok (s.localWrite s.keep ea.toNat (wordBytes (s.w d)))
  else
    let need := (Effect.deposit m 0 0).cost
    s.issue { src := regs } (if s.speculative then some .spec else s.noRoom need) <|
      match s.noBstore m ea 8 with
      | some t => .error t
      | none => match s.overflow need with
        | some t => .error t
        | none => .ok (s.emit s.keep (.deposit m ea.toNat (s.w d)))

def Tag.ofCode (n : Nat) : Tag := match n with | 0 => .empty | 1 => .full | 2 => .poison | _ => .res
def Tag.num : Tag → Nat | .empty => 0 | .full => 1 | .poison => 2 | .res => 3

/-- TAGS on `k` words (R155). -/
def State.tagsOp (s : State) (a b : Reg) (k : Nat) : Out :=
  let ea := s.w a
  let regs := s.srcW a ++ s.srcW b
  let t := match s.checkAccess .l ea (8 * k) 8 true with
    | some t => some t
    | none => match (List.range k).find? fun i => bits (s.w b) (2 * i) 2 = 3 with
      | some _ => some (s.trap 0x087 ea (s.w b))
      | none => s.lockTrap ea.toNat (8 * k) true
  s.issue { src := regs }
    (if s.speculative then some .spec
     else if s.reaches regs ea (8 * k) 8 true then s.bankWait ea.toNat (8 * k) else none) <|
    match t with
    | some t => .error t
    | none =>
      let c := (s.keep.useBanks s.here (bankBits ea.toNat (8 * k)) (decide (k = 32 ∧ ea.toNat % 256 ≠ 0)))
      let c := if s.harvest then c else c.touch s.here ea.toNat (8 * k)
      .ok (((List.range k).foldl (fun c i => c.setTag (nearKey s.here ea.toNat / 8 + i) (Tag.ofCode (bits (s.w b) (2 * i) 2))) c).tagSet s.here
        ((List.range k).map fun i => nearKey s.here ea.toNat / 8 + i))
def execTags (a b : Reg) (s : State) : Out := s.tagsOp a b 1
def execTagsV (a b : Reg) (s : State) : Out := s.tagsOp a b 32

/-- TAGR on `k` words. -/
def State.tagrOp (s : State) (d a : Reg) (k : Nat) : Out :=
  let ea := s.w a
  let e := ea.toNat
  let t := s.localTrap ea (8 * k) 8 false
  let go := s.reaches (s.srcW a) ea (8 * k) 8 false
  s.issue { src := s.srcW a, dst := s.dstW d }
    (if go then (match s.bankWait e (8 * k) with
      | some w => some w
      | none => s.trackWait (nearKey s.here e) (8 * k)) else none) <|
    match t with
    | some t => .error t
    | none => .ok (s.setW (s.readDone s.keep e (8 * k) []) 1 d
        (BitVec.ofNat 64 (((List.range k).map fun i => Tag.num (s.view.tagOf (nearKey s.here e / 8 + i)) * 4 ^ i).foldl (· + ·) 0)))
def execTagr (d a : Reg) (s : State) : Out := s.tagrOp d a 1
def execTagrV (d a : Reg) (s : State) : Out := s.tagrOp d a 32

/-! ## Block reads (R156) -/

/-- The limits of a block read: its address, its length in whole vectors for channels below 16 and in words otherwise. -/
def breadBad (n : Nat) (ea len : Word) : Bool :=
  decide (ea.toNat % 8 ≠ 0) || decide (len.toNat < 8) || decide (4096 < len.toNat) ||
    (if n ≤ 15 then decide (len.toNat % 256 ≠ 0) else decide (len.toNat % 8 ≠ 0))
def execBread (n : BitVec 6) (a b : Reg) (m : AddrMode) (s : State) : Out :=
  let ea := s.w a
  let len := s.w b
  s.issue { src := s.srcW a ++ s.srcW b } none <|
    if s.harvest then .error (s.trapHere 0x089 (BitVec.ofNat 64 s.slot))
    else if breadBad n.toNat ea len then .error (s.trap 0x088 ea len)
    else match s.checkAccess m ea len.toNat 8 false with
    | some t => .error t
    | none =>
      let id := s.dev.fresh
      let words := len.toNat / 8
      let br : Bread := { org := s.origin, core := s.here, chan := n.toNat, total := words
                          unit := if n.toNat ≤ 15 then 32 else 1, got := [] }
      let c := s.keep.tick.dv fun d => { d with breads := d.breads.set id br }
      .ok ((List.range words).foldl (fun c i =>
        let fid := c.dev.fresh
        let f : Flight := { org := s.origin, cargo := .block id i 8, place := s.place s.here m (ea.toNat + 8 * i)
                            tracked := s.speculative, grp := some id }
        (c.tick.dv fun d => { d with flights := d.flights.set fid f }).soon
          (if m = .g then .translation else .arrivingAccess) { a := fid }) c)

end Sys2Proof.Machine
end

