-- ==== Sys2Proof/Machine/Atomic.lean ====
section
/-!
DEFINITION. Atomics (R157 to R159).
-/

namespace Sys2Proof.Machine

/-- The new value at the executor, from the word found, RegW(b) and CAS's expected value (R158). -/
def AtomicOp.eval (op : AtomicOp) (old x cmp : Word) : Word :=
  match op with
  | .add => old + x
  | .and => old &&& x
  | .or => old ||| x
  | .xor => old ^^^ x
  | .min => minS old x
  | .max => maxS old x
  | .minu => minU old x
  | .maxu => maxU old x
  | .cas => if old = cmp then x else old
  | .xchg => x
  | .fadd => BitVec.ofNat 64 (Machine.fadd old.toNat x.toNat)
  | .fmin => BitVec.ofNat 64 (Machine.fmin old.toNat x.toNat)
  | .fmax => BitVec.ofNat 64 (Machine.fmax old.toNat x.toNat)
/-- The address mode that a scope stands for (R157). -/
def Scope.mode : Scope → AddrMode
  | .core => .l | .clu => .cd | .dev => .g | .sys => .g

/-- An earlier atomic waits at the word of a key of the running core: atomics are performed in the order in which they come (R159). -/
def State.atomicAhead (s : State) (k : Nat) : Bool :=
  s.dev.flights.any fun f => decide (0 < f.2.came) && (match f.2.cargo with
    | .effect (.atomic ..) => decide (f.2.place.key / 8 = k / 8)
    | _ => false)
/-- A local atomic with a return, performed at its bank in the cycle of its issue; at an EMPTY word, or behind an atomic that waits
there, it waits at the bank (R159, R268). `fill` is its fill. (DEDUCED, log entry 24.) -/
def State.coreAtomic (s : State) (c : Change) (fill : Nat) (op : AtomicOp) (ea : Nat) (x cmp : Word) : Change :=
  let n := op.width
  let k := nearKey s.here ea
  let w := k / 8
  if (lockHit (s.clu s.myCluster).locks k n true).isSome then (c.answer fill (freeRecord 0x0B0 s.dev.fresh) true).count s.here 29
  else if (s.apply c).tagOf w = .empty ∨ s.atomicAhead k then
    let id := c.dev.fresh
    let f : Flight := { org := s.origin, cargo := .effect (.atomic .core op ea x cmp (some fill)), place := .near s.here ea
                        write := true, home := true, came := id + 1 }
    (c.tick.dv fun d => { d with flights := d.flights.set id f }).sched (s.dev.now + 1) .atomicExecution { a := id, since := s.dev.now }
  else
    let c := c.useBanks s.here (bankBits ea n)
    if s.sramBad w then
      (c.sramPoison w).answer fill (sramRecord w) true
    else if s.tagOf w = .full then
      let c := s.fixWords c [w]
      let old := BitVec.ofNat 64 (leNat (s.view.nearBytes s.here ea n))
      (s.localWrite c ea (natBytes n (op.eval old x cmp).toNat)).answer fill old
    else (if s.harvest then c else c.touch s.here ea n).answer fill (s.recordOf w s.dev.fresh) true
/-- An atomic of one scope: `.core` is a local access; others without a return are effects; one with a return opens the activation,
empties d and goes to its executor (R158). (DEDUCED, log entry 24.) -/
def State.atomic (s : State) (op : AtomicOp) (d a b : Reg) (sc : Scope) : Out :=
  let n := op.width
  let md := Scope.mode sc
  let ea := s.w a
  let ret := decide (d ≠ 0)
  let cmp : Word := if op = .cas then s.w d else 0
  let regs := s.srcW a ++ s.srcW b ++ (if op = .cas then s.srcW d else [])
  let eff (fill : Option Nat) : Effect := .atomic sc op ea.toNat (s.w b) cmp fill
  if s.speculative && (ret || decide (sc = .core)) then s.issue { src := regs, dst := s.dstW d } (some .spec) (.ok s.keep)
  else if ret && decide (sc = .core) then
    let t := s.checkAccess .l ea n n true
    s.issue { src := regs, dst := s.dstW d } (if t.isNone && s.regsReady regs then s.bankWait ea.toNat n else none) <|
      match t with
      | some t => .error t
      | none =>
        let c := s.opened s.keep
        .ok (s.coreAtomic (s.fill c (s.fillW d) 1 none n false true) c.dev.fresh op ea.toNat (s.w b) cmp)
  else if ret then
    s.issue { src := regs, dst := s.dstW d } none <|
      match s.noBstore md ea n with
      | some t => .error t
      | none =>
        let c := s.opened s.keep
        let fid := c.dev.fresh
        let c := s.fill c (s.fillW d) 1 none n false true
        .ok (s.leave c (eff (some fid)))
  else if sc = .core then
    let t := s.localTrap ea n n true
    let go := t.isNone && s.regsReady regs
    let e := ea.toNat
    s.issue { src := regs, mem := if go then s.nearWords e n else [] }
      (if go then (if s.atomicAhead (nearKey s.here e) then some .bank else s.bankWait e n) else none) <|
      match t with
      | some t => .error t
      | none =>
        let old := BitVec.ofNat 64 (leNat (s.view.nearBytes s.here e n))
        .ok (s.localWrite s.keep e (natBytes n (op.eval old (s.w b) cmp).toNat))
  else s.remoteStore regs (s.noBstore md ea n) [eff none]

def execAmoAdd (d a b : Reg) (c : Scope) (s : State) : Out := s.atomic .add d a b c
def execAmoAnd (d a b : Reg) (c : Scope) (s : State) : Out := s.atomic .and d a b c
def execAmoOr (d a b : Reg) (c : Scope) (s : State) : Out := s.atomic .or d a b c
def execAmoXor (d a b : Reg) (c : Scope) (s : State) : Out := s.atomic .xor d a b c
def execAmoMin (d a b : Reg) (c : Scope) (s : State) : Out := s.atomic .min d a b c
def execAmoMax (d a b : Reg) (c : Scope) (s : State) : Out := s.atomic .max d a b c
def execAmoMinu (d a b : Reg) (c : Scope) (s : State) : Out := s.atomic .minu d a b c
def execAmoMaxu (d a b : Reg) (c : Scope) (s : State) : Out := s.atomic .maxu d a b c
def execCas (d a b : Reg) (c : Scope) (s : State) : Out := s.atomic .cas d a b c
def execCasXchg (d a b : Reg) (c : Scope) (s : State) : Out := s.atomic .xchg d a b c
def execFamoFadd (d a b : Reg) (c : Scope) (s : State) : Out := s.atomic .fadd d a b c
def execFamoFmin (d a b : Reg) (c : Scope) (s : State) : Out := s.atomic .fmin d a b c
def execFamoFmax (d a b : Reg) (c : Scope) (s : State) : Out := s.atomic .fmax d a b c

end Sys2Proof.Machine
end

