-- ==== Sys2Proof/Machine/TrackOps.lean ====
section
/-!
DEFINITION. The thirteen track instructions (R164 to R175, R239 to R254).
-/

namespace Sys2Proof.Machine

/-! ## Heads and markers -/

def State.track (s : State) (p n : Nat) : Track := (s.core p).tracks.get {} n
/-- A track of the running core. -/
def State.trk (s : State) (n : Reg) : Track := s.track s.here n.toNat
def Change.trk (c : Change) (p n : Nat) (f : Track → Track) : Change := c.core p fun k => { k with tracks := k.tracks.upd {} n f }
/-- BUSY: shifting, streaming, or being realigned (R164, R165, R172, R246). -/
def Track.busy (t : Track) : Bool := t.shifting || t.h != t.t || !t.stream.isEmpty || t.align
/-- The head-state word (R164). -/
def Track.word (t : Track) : Nat :=
  t.mofs * 2 ^ 24 + t.err.toNat * 2 ^ 23 + t.shared.toNat * 2 ^ 22 + t.busy.toNat * 2 ^ 21 + t.keep.toNat * 2 ^ 20 +
    t.owner * 2 ^ 16 + t.t * 256 + t.h
/-- Start the shift to T, in the next cycle, unless one is under way or a correction holds the track. -/
def Change.shift (c : Change) (p n : Nat) : Change :=
  let k := (c.dev.cores.get {} p).tracks.get {} n
  if k.h != k.t && !k.shifting && !k.align then
    (c.trk p n fun k => { k with shifting := true }).sched (c.dev.now + 1) .trackShift { a := p, b := n, c := k.t }
  else c
/-- Set T; a shift starts in the next cycle, or one under way turns to the new target there: in this cycle it still moves toward the
old one (R165). While a correction holds the track, T is set and the shift starts after it, so that an access which the correction holds
takes the position of its issue (R171, R244). (DESIGN CHOICE, log entry 127.) -/
def Change.seek (c : Change) (p n t : Nat) : Change := (c.trk p n fun k => { k with t := t % 256, then_ := none }).shift p n

/-- One step of the CRC over a byte, most significant bit first: polynomial 0x07 (R247). -/
def crc8Go : Nat → Nat → Nat
  | 0, c => c
  | k + 1, c => crc8Go k (if 128 ≤ c then (c * 2 % 256) ^^^ 7 else c * 2)
def crc8 (x : Nat) : Nat := crc8Go 8 (x % 256)
/-- The marker of logical position q: its index and CRC, or damaged bits (R247). -/
def Track.marker (t : Track) (q : Nat) : Nat := (t.markers.find q).getD (q * 256 + crc8 q)
/-- The check of the marker under a port at p: it passes (none), or gives the new MOFS (R171). -/
def Track.check (t : Track) (p : Nat) : Option Nat :=
  let m := t.marker ((p + t.off) % 256)
  if crc8 (m / 256 % 256) ≠ m % 256 then some 0x80
  else
    let o := (m / 256 + 256 - p) % 256
    if o = 0 then none else if o = 128 then some 0x80 else some o
/-- Cycles of a correction, and the data's displacement after it (R172). -/
def Track.cost (t : Track) : Nat :=
  if t.mofs = 0x80 then 260 else (if t.mofs < 128 then t.mofs else 256 - t.mofs) + 4
def Track.corrected (t : Track) : Nat :=
  if t.mofs = 0x80 then
    (if (List.range 256).any fun q => crc8 (t.marker q / 256 % 256) == t.marker q % 256 then 0 else t.off)
  else (t.off + 256 - t.mofs) % 256

/-! ## Checks -/

def State.trackBusy (s : State) (n : Reg) : Option Wait := if (s.trk n).busy then some .track else none
/-- Head ownership, 0x102 (R166, R175). -/
def State.ownTrap (s : State) (n : Reg) : Trap :=
  s.trapHere 0x102 (BitVec.ofNat 64 ((s.trk n).owner + n.toNat * 16))
def State.owns (s : State) (n : Reg) : Bool := decide ((s.trk n).owner = s.slot) && decide (s.slot ≠ 15)
/-- Any track instruction but THEAD and TWAIT by other than a harvest context touches a granted track (R251). -/
def State.touched (s : State) (c : Change) (n : Reg) : Change := if s.harvest then c else c.touchTrack s.here n.toNat

/-- An instruction of the owner that only changes the head-state word. -/
def State.headOp (s : State) (n : Reg) (src : List Nat) (wait : Option Wait) (f : Change → Change) : Out :=
  s.issue { src := src } wait <|
    if s.owns n then .ok (s.touched (f s.keep) n) else .error (s.ownTrap n)

/-! ## Ownership (R168) -/

/-- The harvest grant's track mask holds the track (R199). -/
def State.grantsTrack (s : State) (n : Reg) : Bool :=
  match s.my.grant with
  | some g => decide (g.tmask / 2 ^ n.toNat % 2 = 1)
  | none => false
/-- Why TOWN is refused: slot 15, `.keep` outside slot 0, a reserved track, or one outside the grant. -/
def State.townTrap (s : State) (n : Reg) (keep : Bool) : Option Trap :=
  if s.slot = 15 ∨ (keep ∧ s.slot ≠ 0) then some (s.trapHere 0x104 (BitVec.ofNat 64 s.slot))
  else if (decide (30 ≤ n.toNat) && s.opCtx.mode.getLsbD 3) || (s.harvest && !s.grantsTrack n) then
    some (s.trapHere 0x103 (BitVec.ofNat 64 n.toNat))
  else none
/-- TOWN waits for another owner and for a step of background work; while it waits its owner touch stands (R168, R251, R253). -/
def State.town (s : State) (n : Reg) (keep : Bool) : Out :=
  let k := s.trk n
  if s.speculative then s.issue {} (some .spec) (.ok s.keep)
  else if (k.owner ≠ 15 ∧ k.owner ≠ s.slot) ∨ s.dev.now < k.weirUntil then
    s.present {} none (.waits .track (s.touched (s.keep.trk s.here n.toNat fun k => { k with wanted := true }) n))
  else s.issue {} none <|
    match s.townTrap n keep with
    | some t => .error t
    | none => .ok (s.touched (s.keep.trk s.here n.toNat fun k =>
        { k with owner := s.slot, keep := k.keep || keep, wanted := false }) n)
def execTown (n : Reg) (s : State) : Out := s.town n false
def execTownKeep (n : Reg) (s : State) : Out := s.town n true
def State.specWait (s : State) : Option Wait := if s.speculative then some .spec else none
def execTfree (n : Reg) (s : State) : Out :=
  s.headOp n [] s.specWait fun c => c.trk s.here n.toNat fun k => { k with owner := 15, keep := false, shared := false }
def execTshare (n : Reg) (s : State) : Out :=
  s.headOp n [] s.specWait fun c => c.trk s.here n.toNat fun k => { k with shared := true }
def execTshareOff (n : Reg) (s : State) : Out :=
  s.headOp n [] s.specWait fun c => c.trk s.here n.toNat fun k => { k with shared := false }

/-! ## Seeks (R169) -/

/-- A copy stream on the track blocks every instruction that would move or use its head (R246). -/
def State.streamWait (s : State) (n : Reg) : Option Wait := if (s.trk n).stream.isEmpty then none else some .track
/-- Set T. A speculative activation's tracks keep the targets of its checkpoint in its shadow (R174, R300). -/
def State.moveHead (s : State) (c : Change) (n : Reg) (t : Nat) : Change := c.seek s.here n.toNat t
def execTseek (n : Reg) (i : BitVec 8) (s : State) : Out :=
  s.headOp n [] (s.streamWait n) fun c => s.moveHead c n i.toNat
def execTseekReg (a n : Reg) (s : State) : Out :=
  s.headOp n (s.srcW a) (s.streamWait n) fun c => s.moveHead c n ((s.w a).toNat % 256)
/-- (T + SignExtend(n, 8)) mod 256. -/
def State.stepTo (s : State) (n : Reg) (i : Nat) : Nat := ((s.trk n).t + i) % 256
def execTstep (n : Reg) (i : BitVec 8) (s : State) : Out :=
  s.headOp n [] (s.streamWait n) fun c => s.moveHead c n (s.stepTo n i.toNat)
def execTstepReg (a n : Reg) (s : State) : Out :=
  s.headOp n (s.srcW a) (s.streamWait n) fun c => s.moveHead c n (s.stepTo n ((s.w a).toNat % 256))
def execTrew (n : Reg) (s : State) : Out := s.headOp n [] (s.streamWait n) fun c => s.moveHead c n 0

/-! ## Reads and writes (R170, R171) -/

/-- The position under a port. -/
def State.portPos (s : State) (n : Reg) (p : Bool) : Nat := ((s.trk n).h + (if p then 128 else 0)) % 256
/-- A realignment begins, of `cost` cycles (R172). -/
def Track.aligning (t : Track) (done : Nat) : Track := { t with align := true, alignEnd := done }
/-- The shift-error or marker trap of a check that gave an offset: ERR is set (R171). -/
def State.shiftTrap (s : State) (n : Reg) (mofs : Nat) : Verdict :=
  let f (k : Track) : Track := { k with mofs := mofs, err := true }
  .traps (s.trapHere (if mofs = 0x80 then 0x101 else 0x100) (BitVec.ofNat 64 ((f (s.trk n)).word + n.toNat * 2 ^ 32)))
    (((s.keep.trk s.here n.toNat f).me fun x => { x with outcome := none }).count s.here 12)
/-- A failed marker check (R171): with TAUTO the correction starts and the group is performed after it; without it the group traps. -/
def State.markerFails (s : State) (n : Reg) (mofs : Nat) : Verdict :=
  if s.opCtx.mode.getLsbD 2 then
    let done := s.dev.now + { s.trk n with mofs := mofs : Track }.cost
    .starts ((((s.touched s.keep n).trk s.here n.toNat fun k => { k with mofs := mofs }.aligning done).sched done
      .autoRealign { a := s.here, b := n.toNat, c := s.slot }).count s.here 11 |>.me fun x =>
      { x with holds := x.holds ++ [.realigned (done + 1)] })
  else s.shiftTrap n mofs
/-- The range lock that an access to a position hits; its address is the position's in the track view (R151, R282).
(DEDUCED, log entry 121.) -/
def State.trackLocked (s : State) (n : Reg) (p wr : Bool) : Option Trap :=
  let k := trackKey s.here n.toNat (s.portPos n p) 0
  (lockHit (s.clu s.myCluster).locks k 256 wr).map fun l =>
    s.trap 0x0B0 (localAddr k) (BitVec.ofNat 64 ((if wr then 1024 else 0) + l.entry % 32 * 2048))
/-- Another group has used the track in this cycle: it performs one core access (R239). -/
def State.trackUsed (s : State) (n : Reg) : Bool := (s.trk n).usedAt == s.dev.now + 1
/-- A track access: the wait, the ownership (`shared` admits a sharer), the range locks, the marker, then the access itself. The
group that a correction held has issued: when the re-verify passed it is performed without another check, and else it traps (R171,
R244). -/
def State.trackAccess (s : State) (n : Reg) (p shared wr : Bool) (fp : Foot) (wait : Option Wait) (step : Option Nat)
    (body : Verdict) : Out :=
  let k := s.trk n
  let held := s.me.outcome
  let go : Verdict :=
    let pass (c : Change) : Change := c.trk s.here n.toNat fun y =>
      let y := { y with err := false }
      if held.isSome then { y with usedAt := s.dev.now + 1, before := k.word } else y
    match body with
    | .traps t c => .traps t ((pass c).me fun x => { x with outcome := none })
    | .runs c =>
      let c := s.touched (pass c) n
      .runs (match step with
        | some i => s.moveHead c n (s.stepTo n i)
        | none => c)
    | v => v
  s.present fp (if held.isSome then wait else match s.trackBusy n with
      | some w => some w
      | none => if s.trackUsed n then some .track else wait) <|
    match held with
    | some 1 => go
    | some _ => s.shiftTrap n k.mofs
    | none =>
      if !(s.owns n || (shared && k.shared)) then .traps (s.ownTrap n) s.keep
      else match s.trackLocked n p wr with
      | some t => .traps t s.keep
      | none => match k.check (s.portPos n p) with
      | some m => s.markerFails n m
      | none => go
/-- The words of a track position, by key. -/
def State.posKey (s : State) (n : Reg) (q : Nat) : Nat := trackKey s.here n.toNat q 0
def State.posWords (s : State) (n : Reg) (q : Nat) : List Nat := (List.range 32).map (s.posKey n q / 8 + ·)
/-- The running activation's own held write of a position (R170). -/
def State.heldPos (s : State) (n : Reg) (q : Nat) : Option (List Byte) :=
  s.my.hold.foldl (fun acc h =>
    if h.org.act == s.act.num then
      match h.eff with
      | .trackWrite t p bs => if t = n.toNat ∧ p = q then some bs else acc
      | _ => acc
    else acc) none
/-- A position with more errors than its code corrects is delivered as POISON with 0x108 (R249, R397). -/
def State.posBad (s : State) (n : Reg) (q : Nat) : Option Trap :=
  if (s.posWords n q).any s.bad.contains then
    let r := BitVec.ofNat 64 (0x108 + n.toNat * 2 ^ 16 + q * 2 ^ 21)
    some (s.trap 0x108 (localAddr (s.posKey n q)) r)
  else none
def inRanges (rs : List (Nat × Nat)) (k : Nat) : Bool := rs.any fun r => decide (r.1 ≤ k) && decide (k < r.1 + r.2)
/-- The record of a track position's words when its code cannot correct it (R249, R397). -/
def positionRecord (k : Nat) : Word :=
  BitVec.ofNat 64 (0x108 + (k - trackBase) / 65536 % 32 * 65536 + (k - trackBase) / 256 % 256 * 2 ^ 21)
/-- Storage as the context-save engine reads it: the words of an uncorrectable track position come as POISON, and what it restores
is that (R402, R403). -/
def State.engineView (s : State) (rs : List (Nat × Nat)) : State :=
  s.apply (((s.bad.filter fun w => decide (trackBase ≤ 8 * w) && decide (8 * w < bstoreBase) && inRanges rs (8 * w)).map fun w => 8 * w / 256 * 256).foldl
    (fun c k => (List.range 32).foldl (fun c i => c.putWord (k + 8 * i) (positionRecord k) .poison) c) s.keep)
/-- A track block is about to be written: one that a pre-empted launch left deferred is first copied into its save, and the block
counts as written since the wake (R368). -/
def State.trackTouched (s : State) (c : Change) (p t q : Nat) : Change :=
  let b := t * 16 + q / 16
  let k := trackKey p t (q / 16 * 16) 0
  let c := (s.core p).deferred.foldl (fun c e =>
    if e.2 ≠ b then c
    else
      let x := s.engineView [(k, 4096)]
      c.dv fun d => { d with saves := d.saves.upd {} e.1 fun v =>
      { v with
        mem := putBytes v.mem k (x.bytesAt k 4096)
        tags := (List.range 512).foldl (fun m i => kput .full m (k / 8 + i) (x.tagOf (k / 8 + i))) v.tags
        blocks := (p * 1024 + b) :: v.blocks } }) c
  c.core p fun k => { k with deferred := k.deferred.filter fun e => e.2 != b
                             dirty := if k.dirty.contains b then k.dirty else b :: k.dirty }
def State.trackRead (s : State) (d n : Reg) (p : Bool) (sharer : Bool) (step : Option Nat) : Out :=
  let q := s.portPos n p
  let held := s.heldPos n q
  let v := match held with
    | some bs => bytesVec bs
    | none => s.view.vecAt (s.posKey n q)
  let words := if held.isSome then [] else s.posWords n q
  s.trackAccess n p sharer false { dst := s.dstV d }
    (if words.any fun w => s.view.tagOf w == .empty then some .tag
     else if held.isSome then none else s.trackWait (s.posKey n q) 256) step <|
    match (if held.isSome then none else s.posBad n q) with
    | some t => .traps t s.keep
    | none => match words.findSome? s.wordTrap with
    | some (t, c) => .traps t c
    | none =>
      let c := if s.speculative && held.isNone then s.keep.track s.origin (s.posKey n q) 256 else s.keep
      .runs (c.result 6 (vecWrites (s.vKey d) (fun _ => true) v))
def State.trackWrite (s : State) (d n : Reg) (p : Bool) (step : Option Nat) : Out :=
  let q := s.portPos n p
  let e : Effect := .trackWrite n.toNat q (vecBytes (s.v d))
  s.trackAccess n p false true { src := s.srcV d } (if s.speculative then s.noRoom e.cost else none) step <|
    .runs (if s.speculative then
        s.keep.mine fun k => { k with hold := k.hold ++ [{ org := s.origin, eff := e, bytes := e.cost, after := true }] }
      else s.conflicts ((s.trackTouched s.keep s.here n.toNat q).write (s.posKey n q) (vecBytes (s.v d))) (s.posKey n q) 256)
def execTrd (d n : Reg) (p : Bool) (s : State) : Out := s.trackRead d n p true none
def execTrds (d n : Reg) (i : BitVec 8) (p : Bool) (s : State) : Out := s.trackRead d n p false (some i.toNat)
def execTwr (d n : Reg) (p : Bool) (s : State) : Out := s.trackWrite d n p none
def execTwrs (d n : Reg) (i : BitVec 8) (p : Bool) (s : State) : Out := s.trackWrite d n p (some i.toNat)

/-! ## Waits, head state, realignment (R172, R173) -/

/-- The head-state word as the cycle before left it, in which the present one may have performed an access that a correction held. -/
def State.headBefore (s : State) (n : Reg) : Nat := if s.trackUsed n then (s.trk n).before else (s.trk n).word
def execTwait (n : Reg) (s : State) : Out := s.issue {} (s.trackBusy n) (.ok s.keep)
def execThead (d n : Reg) (s : State) : Out :=
  s.issue { dst := s.dstW d } none (.ok (s.setW s.keep 1 d (BitVec.ofNat 64 (s.headBefore n))))
/-- The track that a trap in slot 15's hands is about (R166, R175). -/
def Trap.track (t : Trap) : Option Nat :=
  match t.cause with
  | 0x100 | 0x101 => some (bits t.aux 32 5)
  | 0x102 => some (bits t.aux 4 5)
  | 0x103 => some (bits t.aux 0 5)
  | _ => none
def execTalign (n : Reg) (s : State) : Out :=
  let k := s.trk n
  let handler := decide (s.slot = 15) && (match s.my.handling with
    | some t => decide (t.track = some n.toNat)
    | none => false)
  s.issue {} (match s.specWait with
    | some w => some w
    | none => s.trackBusy n) <|
    if s.owns n || handler then
      .ok (s.touched ((s.keep.trk s.here n.toNat (·.aligning (s.dev.now + k.cost))).sched (s.dev.now + k.cost)
        .reverify { a := s.here, b := n.toNat }) n)
    else .error (s.ownTrap n)

/-! ## Track events -/

/-- One position toward the target, by the shorter way and upward when the ways are equal; the next one is toward T as it then stands.
Where the shift ends, it may have missed (R165, R171). Arg: core, track, T as the cycle before left it. -/
def execTrackShift (s : State) : Out :=
  let p := s.dev.arg.a
  let n := s.dev.arg.b
  let k := s.track p n
  let up := (s.dev.arg.c + 256 - k.h) % 256
  let h := if up = 0 then k.h else if up ≤ 128 then (k.h + 1) % 256 else (k.h + 255) % 256
  let done := h == k.t
  let c := s.keep.trk p n fun k =>
    if done then { k with h := h, shifting := false, off := (k.off + k.slip) % 256, slip := 0 } else { k with h := h }
  let next : Change := match k.then_ with
    | some t => c.seek p n t
    | none => c
  s.occur (if !k.shifting then s.keep else if done then next else c.sched (s.dev.now + 1) .trackShift { a := p, b := n, c := k.t })

/-- The correction of R172 and its re-verify at the marker at H. -/
def Track.realign (k : Track) : Track :=
  let k := { k with off := k.corrected, align := false }
  match k.check k.h with
  | none => { k with err := false }
  | some m => { k with err := true, mofs := m }
/-- The realignment of a track ends in this cycle. -/
def Track.ends (t : Track) (now : Nat) : Bool := t.align && t.alignEnd == now
def Hold.isRealigned : Hold → Bool
  | .realigned _ => true
  | _ => false
/-- TALIGN's cost has passed. Arg: core, track. -/
def execReverify (s : State) : Out :=
  let g := s.dev.arg
  s.occur (if (s.track g.a g.b).ends s.dev.now then (s.keep.trk g.a g.b Track.realign).shift g.a g.b else s.keep)
/-- The correction under TAUTO, or of a copy, has passed its last cycle; the held group is told whether the re-verify passed, in which
case MOFS keeps the offset found. Arg: core, track, slot, which is 16 for a copy. -/
def execAutoRealign (s : State) : Out :=
  let g := s.dev.arg
  s.occur (
    if !(s.track g.a g.b).ends s.dev.now then s.keep
    else
      let r := (s.track g.a g.b).realign
      let c := (s.keep.trk g.a g.b fun k => { k.realign with failed := decide (g.c = 16) && r.err }).shift g.a g.b
      if g.c = 16 then c
      else c.ctx g.a g.c fun x => if x.holds.any Hold.isRealigned then { x with outcome := some (if r.err then 2 else 1) } else x)
end Sys2Proof.Machine
end

