-- ==== Sys2Proof/Machine/Activation.lean ====
section
/-!
DEFINITION. Launches as their cores see them, and activations: binding one to a slot (R217, R226), ending one (R98), and the
lease that ends with it (R177).
-/

namespace Sys2Proof.Machine

/-! ## Fields of a launch record (R359) -/

def Launch.w (l : Launch) (i : Nat) : Word := l.words.getD i 0
def Launch.lid (l : Launch) : Nat := bits (l.w 0) 32 32
def Launch.pid (l : Launch) : Nat := bits (l.w 0) 16 16
def Launch.tenant (l : Launch) : Nat := bits (l.w 0) 7 7
def Launch.prio (l : Launch) : Nat := bits (l.w 0) 4 3
def Launch.lc (l : Launch) : Bool := (l.w 0).getLsbD 3
def Launch.rep (l : Launch) : Bool := (l.w 0).getLsbD 2
def Launch.spec (l : Launch) : Bool := (l.w 0).getLsbD 1
def Launch.block (l : Launch) : Bool := (l.w 0).getLsbD 0
def Launch.mode (l : Launch) : Nat := bits (l.w 1) 50 4
def Launch.quota (l : Launch) : Nat := bits (l.w 1) 46 4
def Launch.wpbase (l : Launch) : Nat := bits (l.w 1) 37 9 * 512
def Launch.pre (l : Launch) : Bool := (l.w 1).getLsbD 36
def Launch.cx0 (l : Launch) : Nat := bits (l.w 1) 28 4
def Launch.cy0 (l : Launch) : Nat := bits (l.w 1) 25 3
def Launch.cw (l : Launch) : Nat := bits (l.w 1) 21 4
def Launch.ch (l : Launch) : Nat := bits (l.w 1) 18 3
def Launch.entry (l : Launch) : Nat := bits (l.w 1) 0 18
def Launch.argp (l : Launch) : Word := l.w 2
def Launch.total (l : Launch) : Word := l.w 3
def Launch.widths (l : Launch) : List Nat := (List.range 6).map fun k => bits (l.w 4) (7 * k) 7
def Launch.seed (l : Launch) : Word := l.w 5
def Launch.image (l : Launch) : Word := l.w 6
/-- A cluster belongs to the sub-mesh. -/
def Launch.has (l : Launch) (clu : Nat) : Bool :=
  decide (l.cx0 ≤ clu % 12 ∧ clu % 12 ≤ l.cx0 + l.cw ∧ l.cy0 ≤ clu / 12 ∧ clu / 12 ≤ l.cy0 + l.ch)
/-- The clusters and the live logical cores of a sub-mesh, ascending. -/
def Launch.clusters (l : Launch) : List Nat := (List.range 96).filter l.has
def State.coresOf (s : State) (l : Launch) : List Nat :=
  (List.range ((l.ch + 1) * 12)).flatMap fun y => (List.range ((l.cw + 1) * 16)).filterMap fun x =>
    let n := (l.cy0 * 12 + y) * 192 + (l.cx0 * 16 + x)
    if s.retired n then none else some n
def State.launch? (s : State) (n : Nat) : Option Launch := s.dev.launches.find n
/-- The launch of a core. -/
def State.launchOf (s : State) (p : Nat) : Option Launch := match (s.core p).launch with
  | some n => s.launch? n
  | none => none
/-- A logical core lies in the running core's sub-mesh. -/
def State.inMesh (s : State) (t : Nat) : Bool :=
  decide (t < 18432) && match s.launchOf s.here with
    | some l => l.has (clusterOf t)
    | none => false

/-! ## Leases (R177, R181, R291, R293) -/

/-- RESLOST in the STATUS of a context that pushed or held a lease, whatever its slot runs now, while its launch stands (R64, R226,
R291). -/
def Change.reslost (c : Change) (p sl dom : Nat) : Change :=
  let mine := match (c.dev.cores.get {} p).launch with
    | some n => (c.dev.launches.find n).map fun l => l.dom
    | none => none
  if mine = some dom then c.ctx p sl fun x => { x with status := x.status ||| 1 } else c
/-- RESLOST in the STATUS of an array's holder. -/
def Change.reslostHolder (c : Change) (r : Nat) : Change :=
  match (c.dev.arrays.get {} r).holder with
  | some (p, sl, _) => c.reslost p sl (c.dev.arrays.get {} r).dom
  | none => c
/-- Pushes that an ended activation released and that have still to reach their array. -/
def Dev.pushing (d : Dev) (p act n serial : Nat) : Bool :=
  let mine (e : Effect) : Bool := match e with
    | .command _ _ k x => k == n && x == serial
    | .feed _ _ k x => k == n && x == serial
    | .mset k x => k == n && x == serial
    | .mfree k x => k == n && x == serial
    | _ => false
  ((d.cores.get {} p).relq.any fun h => h.org.act == act && mine h.eff) ||
    d.flights.any fun f => f.2.org.core == p && f.2.org.act == act && match f.2.cargo with
      | .effect e => mine e
      | _ => false
/-- Nothing that was accepted under an array's lease, or still will be, is left. -/
def Change.leaseEmpty (c : Change) (r : Nat) : Bool :=
  let a := c.dev.arrays.get {} r
  a.running.isNone && a.q0.isEmpty && !(a.closing && match a.holder with
    | some (p, _, act) => c.dev.pushing p act (r % 8) a.serial
    | none => false)
/-- A lease is over: nothing of the feed stays, the holder's status shows why, and the array is granted again once its results
are gone (R177). -/
def Change.leaseOver (c : Change) (r reason : Nat) : Change :=
  let a := c.dev.arrays.get {} r
  let lost := reason = 2 && !a.q2.isEmpty
  let a := if reason = 2 then { a with q2 := [] } else a
  let c := c.arr r fun b => { b with q2 := a.q2 }
  let c := if lost then c.reslostHolder r else c
  let c := c.arr r fun a => { a with leased := false, ending := none, closing := false, endedAt := c.dev.now, feed := [], poisoned := []
                                     holder := if a.q2.isEmpty then none else a.holder }
  let c := match a.holder with
    | some (p, sl, _) => c.ctx p sl fun x =>
        if x.lease.array = r % 8 ∧ x.lease.serial = a.serial then
          { x with lease := { x.lease with held := false, left := 0, ended := reason } } else x
    | none => c
  if a.q2.isEmpty then c.sched (c.dev.now + 1) .leaseGrant { a := r }
  else c.sched (c.dev.now + 8192) .resultDiscard { a := r, b := a.serial }
/-- A lease ends for a reason: at once, or once its accepted commands have completed (R177). Where its activation has ended, the pushes
that this released are accepted too, until another reason for an end comes (R291).
(DEDUCED, log entry 28.) -/
def Change.leaseEnds (c : Change) (r reason : Nat) : Change :=
  let a := c.dev.arrays.get {} r
  if !a.leased then c
  else match a.ending with
  | some why =>
    let c := c.arr r fun a => { a with closing := false }
    if c.leaseEmpty r then c.leaseOver r why else c
  | none =>
    let c := c.arr r fun a => { a with closing := decide (reason = 5) }
    if c.leaseEmpty r then c.leaseOver r reason else c.arr r fun a => { a with ending := some reason }
/-- A lease whose end waited for accepted commands is over when none is left. -/
def Change.leaseDrained (c : Change) (r : Nat) : Change :=
  let a := c.dev.arrays.get {} r
  match a.ending with
  | some why => if a.leased && c.leaseEmpty r then c.leaseOver r why else c
  | none => c
/-- An activation's lease and requests end with it. -/
def Change.dropLeases (c : Change) (p sl act reason : Nat) : Change :=
  let c := c.dv fun d => { d with regrants := d.regrants.drop act }
  let c := c.ctx p sl fun x => if x.lease.pend || x.lease.held then
    { x with lease := { x.lease with pend := false, held := false, left := 0, ended := if x.lease.held then reason else x.lease.ended } }
    else x
  c.dev.arrays.foldl (fun c e =>
    let c := c.arr e.1 fun a => { a with requests := a.requests.filter fun q => !(q.core == p && q.slot == sl && q.act == act) }
    if e.2.leased && e.2.holder == some (p, sl, act) then c.leaseEnds e.1 reason else c) c

/-! ## Binding (R53, R100, R217, R226) -/

/-- The workspace of a slot under WPBASE. -/
def slotWp (wpbase sl : Nat) : Nat := wpbase + (if sl = 15 then 11 else sl) * 0x1200
/-- The class that a slot's activation has in issue selection, by the entry's attributes. -/
def slotClass (sl : Nat) : Class := if sl = 15 then .service else if sl = 0 then .control else if 11 ≤ sl then .harvest else .helper
/-- An event that trace triggers look at, in the cluster of a core, from the cycle after arming (R414): kind and value. -/
def Change.seen (c : Change) (p kind v : Nat) : Change :=
  c.dv fun d => match d.traces.find (dieOf (physCluster p)) with
    | some t => if bits (t.block.getD 0 0) 0 7 = physCluster p ∧ t.armedAt < d.now then
        { d with traces := d.traces.set (dieOf (physCluster p)) { t with seen := (kind, v) :: t.seen } } else d
    | none => d
/-- An activation is bound: the trace of its cluster sees it, and will write its start record (R412, R414, R415). -/
def State.boundRecord (s : State) (p sl entry : Nat) (a : Act) : Word × Word :=
  let l := (s.logical p).getD 0
  let src := match a.trig with
    | some m => if m.device then l else (s.logical m.org.core).getD 0
    | none => l
  (BitVec.ofNat 64 (l * 2 ^ 33 + sl * 2 ^ 29 + a.chan % 64 * 2 ^ 23 + entry % 2 ^ 18), BitVec.ofNat 64 (a.ts % 2 ^ 32 * 2 ^ 32 + src))
def State.traceBind (s : State) (c : Change) (p sl entry : Nat) (a : Act) : Change :=
  let c := c.core p fun k => { k with didRow := k.didRow / 4 * 4 + k.didRow % 2 + 2 }
  let c := match a.trig with
    | some m => if m.chan < 64 then c.seen p 4 m.chan else c
    | none => c
  c.dv fun d => match d.traces.find (dieOf (physCluster p)) with
    | some t => if bits (t.block.getD 0 0) 0 7 = physCluster p ∧ t.armedAt < d.now then
        { d with traces := d.traces.set (dieOf (physCluster p)) { t with bound := t.bound ++ [s.boundRecord p sl entry a] } } else d
    | none => d
/-- Words placed in w1 onward. -/
def Change.place (c : Change) (k : Nat) (ws : List Word) : Change :=
  ws.zipIdx.foldl (fun c w => c.write (k + 8 * (w.2 + 1)) (wordBytes w.1)) c
/-- Bind an activation to a slot: the context starts at the entry with its loop registers and STALLCNT zero; a helper takes
MODE and the identity of slot 0. XDONEID and XDONEST are 0 unless a copy's completion started it (R62). Its number is `c.dev.fresh`. -/
def State.bind (s : State) (c : Change) (p sl entry : Nat) (a : Act) (ws : List Word) : Change :=
  let k := c.dev.cores.get {} p
  let zero := k.ctx 0
  let old := k.ctx sl
  let num := c.dev.fresh
  let wp := if 11 ≤ sl ∧ sl ≤ 14 then old.wp else slotWp k.wpbase sl
  let x : Ctx := { old with
    live := true, pc := BitVec.ofNat 64 entry, wp := wp, lcnt := 0, lbeg := 0, lend := 0, stallcnt := 0
    mode := if sl = 0 then old.mode else zero.mode
    pid := if sl = 0 then old.pid else zero.pid, tenant := if sl = 0 then old.tenant else zero.tenant
    xdoneid := match a.trig with | some m => (match m.done with | some d => d.1 | none => 0) | none => 0
    xdonest := match a.trig with | some m => (match m.done with | some d => d.2 | none => 0) | none => 0
    act := { a with num := num, entry := entry }
    next := none, stallUntil := c.dev.now + 1, yieldUntil := 0, holds := [], age := 0, raised := 0, shadow := none
    stopped := false, trapped := false, specTrap := false, stepPast := none }
  let base := if 11 ≤ sl ∧ sl ≤ 14 then reserveKey p sl 0 else nearKey p wp
  let c := (c.tick.core p fun k => { k with ctxs := k.ctxs.set sl x
                                            bindCount := k.bindCount.upd 0 sl fun n => (n + 1) % 2 ^ 32 }).count p 13
  (s.traceBind c p sl entry a).place base ws

/-! ## Ending (R98) -/

/-- Tracks a slot owns without KEEP become unowned, and their sharing ends (R168). -/
def Change.freeTracks (c : Change) (p sl : Nat) (all : Bool := false) : Change :=
  c.core p fun k => { k with tracks := k.tracks.map fun e =>
    if e.2.owner = sl ∧ (all ∨ !e.2.keep) then (e.1, { e.2 with owner := 15, keep := false, shared := false }) else e }
/-- A copy has ended: its status is kept, and pending XWAITs fill in this cycle (R188). -/
def Change.copyEnds (c : Change) (p id : Nat) (status : Word) : Change :=
  let c := c.core p fun k => { k with
    xstatus := ((id, c.dev.now, status) :: k.xstatus.filter fun e => e.1 != id).take 256 }
  c.dev.fills.foldl (fun c f =>
    if f.2.core == p && f.2.xid == some id then
      (c.dv fun d => { d with fills := d.fills.set f.1 { f.2 with left := 0, val := status, xid := none } }).sched c.dev.now .fill { a := f.1 }
    else c) c
/-- Drop the held effects of an activation: copies among them end with OUT = 1 (R188), and a command among them counts no more
against its lease (R180, R306). -/
def Change.dropHeld (c : Change) (p : Nat) (pick : Held → Bool) : Change :=
  let k := c.dev.cores.get {} p
  let gone := k.hold.filter pick
  let c := c.core p fun k => { k with hold := k.hold.filter fun h => !pick h }
  gone.foldl (fun c h => match h.eff with
    | .copy _ id => c.copyEnds p id 1
    | .command _ _ n serial => c.ctx p h.org.slot fun x =>
        if x.lease.held && x.lease.array = n && x.lease.serial = serial then
          { x with lease := { x.lease with left := x.lease.left + 1 } } else x
    | _ => c) c
/-- An activation ends: its held effects go behind those released before, its tracks are released, and the slot is free. -/
def Change.endAct (c : Change) (p sl : Nat) : Change :=
  let k := c.dev.cores.get {} p
  let x := k.ctx sl
  let c := (c.releaseHeld p x.act fun h => h.org.act == x.act.num).core p fun k => { k with
    endedTs := k.endedTs.upd 0 sl fun n => max n x.act.ts }
  let c := (c.freeTracks p sl).ctx p sl fun x =>
    { x with live := false, lcnt := 0, lbeg := 0, lend := 0, shadow := none, holds := [], next := none }
  (c.dropLeases p sl x.act.num 5).pump p
/-- The last steps of DONE (R98). -/
def Change.finish (c : Change) (p sl : Nat) : Change := (c.endAct p sl).count p 14
/-- An activation ends with nothing of what it holds released: killed, cancelled or stopped for good. Its pending fills still write
their words (R58). (DEDUCED, log entry 46.) -/
def Change.quit (c : Change) (p sl : Nat) : Change :=
  let act := ((c.dev.cores.get {} p).ctx sl).act.num
  let now := c.dev.now
  let c := c.dv fun d => { d with
    fills := d.fills.map fun f => if f.2.core = p ∧ f.2.slot = sl then (f.1, { f.2 with dropped := true }) else f }
  let c := c.core p fun k => { k with traps := k.traps.filter fun t => t.2.slot != sl }
  ((c.dropHeld p fun h => h.org.act == act).endAct p sl).ctx p sl fun x =>
    { x with freeAt := now, stopped := false, trapped := false, specTrap := false, outcome := none, joining := none }

end Sys2Proof.Machine
end

