-- ==== Sys2Proof/Machine/Control.lean ====
section
/-!
DEFINITION. Branches, loops and activation control (R90 to R105, R108, R109).
-/

namespace Sys2Proof.Machine

/-! ## Branches and calls (R94) -/

/-- SetNext of R50. -/
def Change.goto (c : Change) (a : Word) : Change := c.me fun x => { x with next := some a }
/-- GroupAddr() + 4 × SignExtend(disp, 15). -/
def State.target (s : State) (i : BitVec 15) : Word := s.groupAddr + BitVec.ofInt 64 (4 * i.toInt)
/-- A branch on a condition. -/
def State.branch (s : State) (src : List Nat) (taken : Bool) (t : Word) : Out :=
  s.issue { src := src } none (.ok (if taken then s.keep.goto t else s.keep))
def execBr (i : BitVec 15) (s : State) : Out := s.branch [] true (s.target i)
def execBrp (a : BitVec 3) (i : BitVec 15) (s : State) : Out := s.branch (s.srcP a) (s.p a) (s.target i)
def execBrz (a : Reg) (i : BitVec 15) (s : State) : Out := s.branch (s.srcW a) (s.w a == 0) (s.target i)
def execBnz (a : Reg) (i : BitVec 15) (s : State) : Out := s.branch (s.srcW a) (s.w a != 0) (s.target i)
def execBri (a : Reg) (s : State) : Out := s.branch (s.srcW a) true (s.w a)
def execRet (a : Reg) (s : State) : Out := s.branch (s.srcW a) true (s.w a)
/-- A call: the target is read before the link is written. -/
def State.callTo (s : State) (src : List Nat) (l : Reg) (t : Word) : Out :=
  s.issue { src := src, dst := s.dstW l } none (.ok ((s.setW s.keep 1 l s.nextGroup).goto t))
def execCall (a : Reg) (i : BitVec 15) (s : State) : Out := s.callTo [] a (s.target i)
def execCalli (d a : Reg) (s : State) : Out := s.callTo (s.srcW a) d (s.w a)

/-! ## Loops (R95 to R97) -/

/-- The levels of a loop register: inner in bits 63:32, outer in bits 31:0 (R65). -/
def inner (w : Word) : Nat := bits w 32 32
def outer (w : Word) : Nat := bits w 0 32
def setInner (w : Word) (v : Nat) : Word := BitVec.ofNat 64 (outer w + v % 2 ^ 32 * 2 ^ 32)
def setOuter (w : Word) (v : Nat) : Word := BitVec.ofNat 64 (v % 2 ^ 32 + inner w * 2 ^ 32)
/-- The loop-back step at address `a`; `seq` is the group that follows in sequence (R96). -/
def Ctx.loopBack (x : Ctx) (a : Nat) (seq : Word) : Ctx :=
  let one := decide (inner x.lcnt ≠ 0) && decide (inner x.lend = a)
  let x := if one then { x with lcnt := setInner x.lcnt (inner x.lcnt - 1) } else x
  if one ∧ inner x.lcnt ≠ 0 then { x with pc := BitVec.ofNat 64 (inner x.lbeg) }
  else
    let zero := decide (outer x.lcnt ≠ 0) && decide (outer x.lend = a)
    let x := if zero then { x with lcnt := setOuter x.lcnt (outer x.lcnt - 1) } else x
    if zero ∧ outer x.lcnt ≠ 0 then { x with pc := BitVec.ofNat 64 (outer x.lbeg) } else { x with pc := seq }
/-- A group that writes a loop register: its own loop-back step uses the registers as they stood (R65).
(DEDUCED, log entry 111.) -/
def State.loopStepped (s : State) (x : Ctx) : Ctx :=
  let y := x.loopBack s.groupAddr.toNat s.nextGroup
  { y with pc := x.pc, next := some y.pc }
/-- GroupSize(E): 4 if the word at E is lone, else 8. A word outside near SRAM has no bits to look at: a free choice.
(DESIGN CHOICE, log entry 27.) -/
def State.groupSize (s : State) (e : Int) : Nat :=
  if 0 ≤ e ∧ e.toNat + 4 ≤ 0x40000 then
    (if leNat (s.nearBytes s.here e.toNat 4) < 2 ^ 31 then 8 else 4)
  else if Config.choice s.dev.fresh % 2 = 0 then 4 else 8
def execLoop (a : Reg) (i : BitVec 15) (s : State) : Out :=
  let c := s.w a
  let e : Int := (s.groupAddr.toNat : Int) + 4 * i.toInt
  let x := s.me
  let ew := BitVec.ofInt 64 e
  s.issue { src := s.srcW a } none <|
    if e < (s.nextGroup.toNat : Int) ∨ 2 ^ 32 ≤ c.toNat then .error (s.trap 0x183 ew c)
    else if c = 0 then .ok ((s.keep.goto (ew + BitVec.ofNat 64 (s.groupSize e))).tick)
    else if outer x.lcnt = 0 then
      .ok (s.keep.me fun x => { x with lcnt := setOuter x.lcnt c.toNat, lbeg := setOuter x.lbeg s.nextGroup.toNat
                                       lend := setOuter x.lend ew.toNat })
    else if inner x.lcnt = 0 then
      .ok (s.keep.me fun x => { x with lcnt := setInner x.lcnt c.toNat, lbeg := setInner x.lbeg s.nextGroup.toNat
                                       lend := setInner x.lend ew.toNat })
    else .error (s.trapHere 0x182 0)
def execLexit (i : BitVec 15) (s : State) : Out :=
  s.issue {} none (.ok ((s.keep.me fun x =>
    { x with lcnt := if inner x.lcnt ≠ 0 then setInner x.lcnt 0 else setOuter x.lcnt 0 }).goto (s.target i)))

/-! ## Waiting (R99) -/

/-- The context is not ready for the n cycles that follow; the issue itself puts it last in its class (R229). -/
def execYield (k : BitVec 12) (s : State) : Out :=
  s.issue {} none (.ok (if k = 0 then s.keep
    else (s.keep.me fun x => { x with yieldUntil := s.dev.now + k.toNat + 1 }).sched (s.dev.now + k.toNat) .yieldExpiry
      { a := s.here, b := s.slot, c := s.dev.now + k.toNat + 1 }))
/-- The n cycles have passed. Arg: core, slot, the cycle from which it is ready. -/
def execYieldExpiry (s : State) : Out :=
  s.occur (s.keep.ctx s.dev.arg.a s.dev.arg.b fun x =>
    if x.yieldUntil = s.dev.arg.c then { x with yieldUntil := 0 } else x)
def execNop (s : State) : Out := s.issue {} none (.ok s.keep)

/-! ## DONE, START, JOIN (R98, R100, R101) -/

/-- The trap of the group instructions that a harvest context may not use (R93, R215). -/
def State.notInHarvest (s : State) : Trap := s.trapHere 0x18A (BitVec.ofNat 64 s.slot)
def State.wrongContext (s : State) : Trap := s.trapHere 0x184 (BitVec.ofNat 64 s.slot)
/-- A slot may be bound: free since an earlier cycle, with no result pending (R27, R225), nor a fill that began beside the DONE that freed
it. (DEDUCED, log entry 8.) -/
def slotFree (d : Dev) (p sl : Nat) : Bool :=
  let x := (d.cores.get {} p).ctx sl
  !x.live && (x.freeAt == 0 || decide (x.freeAt < d.now)) && x.pipe.isEmpty &&
    !(d.fills.any fun f => f.2.core == p && f.2.slot == sl && f.2.act == x.act.num && f.2.left == 0 && !f.2.dropped)
/-- The tagged task entries of a speculative activation leave at its DONE (R194). -/
def Change.releaseTasks (c : Change) (p act : Nat) : Change :=
  let mine (h : Held) : Bool := h.org.act == act && h.org.tag != 0 && (match h.eff with | .task .. => true | _ => false)
  (c.releaseHeld p {} mine).pump p
def execDone (s : State) : Out :=
  s.issue {} (if s.anyFill s.here s.slot then some .fill else none) <|
    if s.slot = 15 then .error s.wrongContext
    else if s.speculative then
      .ok (((s.keep.me fun x => { x with act := { x.act with ended := true } }).releaseTasks s.here s.act.num).count s.here 14)
    else
      let c := (s.keep.finish s.here s.slot).me fun x => { x with freeAt := s.dev.now }
      .ok (if s.harvest then c.sched (s.dev.now + 1) .harvestBinding { a := s.here } else c)

/-- The lowest free helper slot. -/
def State.freeHelper (s : State) : Option Nat := ((List.range 10).map (· + 1)).find? (slotFree s.dev s.here)
def execStart (d a b : Reg) (p : BitVec 3) (s : State) : Out :=
  s.issue { src := s.srcW a ++ s.srcW b, dst := s.dstW d }
    (if s.speculative then some .spec else if s.freeHelper.isNone then some .slot else none) <|
    if s.slot ≠ 0 then .error s.wrongContext
    else match s.freeHelper with
    | none => .error s.wrongContext
    | some sl =>
      let cnt := (s.my.bindCount.get 0 sl + 1) % 2 ^ 32
      let act : Act := { prio := p.toNat, cls := .helper, ts := s.act.ts, dom := s.act.dom, report := s.w b }
      let c := s.bind s.keep s.here sl (s.w a).toNat act [s.w b]
      .ok (s.setW c 1 d (BitVec.ofNat 64 (cnt * 65536 + sl)))

/-- An activation's timestamp rises; the entry of a speculative one in its slice keeps in step (R297, R312). -/
def Change.retime (c : Change) (p sl ts : Nat) : Change :=
  let act := ((c.dev.cores.get {} p).ctx sl).act.num
  (c.ctx p sl fun x => { x with act := { x.act with ts := ts }, shadow := x.shadow.map fun sh => { sh with ts := ts } }).clu (physCluster p)
    fun k => { k with commits := k.commits.map fun e => if e.core = p ∧ e.act = act then { e with ts := ts } else e }
def execJoin (a : Reg) (s : State) : Out :=
  let t := s.w a
  let sl := bits t 0 4
  let n := bits t 16 32
  let own := decide (sl = s.slot) && decide (s.my.bindCount.get 0 sl = n)
  let bad := s.harvest || decide (sl = 0) || decide (10 < sl) || decide (bits t 4 12 ≠ 0) || decide (bits t 48 16 ≠ 0) || own
  let live := (s.my.ctx sl).live && decide (s.my.bindCount.get 0 sl = n)
  s.present { src := s.srcW a } none <|
    if s.harvest then .traps s.notInHarvest s.keep
    else if bad then .traps (s.trapHere 0x185 t) s.keep
    else if live then .waits .join (s.keep.me fun x => { x with joining := some sl })
    else .runs (s.keep.retime s.here s.slot (max s.act.ts (s.my.endedTs.get 0 sl)))

/-! ## SPAWN (R102) -/

/-- The offset of the first bad word of a spawn block, from its first two words (DEDUCED, log entry 35); an ENTRY that is no multiple of
4 counts as bad, as in R104 and R194. (DESIGN CHOICE, log entry 119.) -/
def spawnBad (w0 w1 : Word) : Option Nat :=
  if bits w0 18 46 ≠ 0 ∨ bits w0 0 2 ≠ 0 then some 0
  else if bits w1 3 61 ≠ 0 ∨ 4 < bits w1 0 3 then some 8 else none
def execSpawn (d a b : Reg) (s : State) : Out :=
  let t := s.w a
  let e := (s.w b).toNat
  let regs := s.srcW a ++ s.srcW b
  let shape : Option Nat :=
    if e % 8 ≠ 0 then some 0 else if e + 48 ≤ 0x40000 then none else if 0x40000 ≤ e then some 0 else some (0x40000 - e)
  let lock := if shape.isNone then s.lockTrap e 48 false else none
  let go := !s.harvest && shape.isNone && s.regsReady regs
  let word (i : Nat) : Word := bytesWord (s.readBytes (e + 8 * i) 8 (s.forwards .l (e + 8 * i) 8))
  s.issue { src := regs, dst := s.dstW d, mem := if go then s.readWords e 48 (s.forwards .l e 48) else [] }
    (if s.speculative then some .spec else if go then s.bankWait e 48 else none) <|
    if s.harvest then .error s.notInHarvest
    else match shape with
    | some o => .error (s.trap 0x188 (s.w b) (BitVec.ofNat 64 o))
    | none => match lock with
    | some t => .error t
    | none => match spawnBad (word 0) (word 1) with
    | some o => .error (s.trap 0x188 (s.w b) (BitVec.ofNat 64 o))
    | none =>
      if !s.inMesh t.toNat then .error (s.trap 0x186 t 1)
      else
        let c := s.opened (s.readDone s.keep e 48 (s.forwards .l e 48))
        if s.retired t.toNat then .ok (s.fillSoon c (s.fillW d) 0)
        else
          let fid := c.dev.fresh
          let c := s.fill c (s.fillW d) 1
          let args := (List.range (bits (word 1) 0 3)).map fun i => word (2 + i)
          .ok (s.leave c (.spawn t.toNat (bits (word 0) 0 18) args fid))

/-! ## OPEN, handlers, the event queue, program traps (R103 to R105, R108, R109) -/

def execOpenAct (s : State) : Out := s.issue {} s.specWait (.ok (s.opened s.keep))

/-- A descriptor's fields (R104). -/
def handlerOf (w : Word) : Handler :=
  { narg := bits w 29 3, spec := w.getLsbD 28, rep := w.getLsbD 27, ctl := w.getLsbD 26, prio := bits w 23 3
    mask := w.getLsbD 22, entry := bits w 0 18 }
def handlerBad (w : Word) : Bool :=
  decide (bits w 32 32 ≠ 0) || decide (bits w 18 4 ≠ 0) || decide (4 < bits w 29 3) || decide (bits w 0 2 ≠ 0)
/-- Write an entry of the handler table: a channel without one is masked (R361). -/
def Change.handler (c : Change) (p n : Nat) (f : Handler → Handler) : Change :=
  c.core p fun k => { k with handlers := k.handlers.upd k.unset n f }
def execHset (d : Reg) (k : BitVec 12) (s : State) : Out :=
  s.issue { src := s.srcW d } s.specWait <|
    if s.harvest then .error s.notInHarvest
    else if handlerBad (s.w d) then .error (s.trapHere 0x189 (s.w d))
    else .ok (s.keep.handler s.here k.toNat fun _ => handlerOf (s.w d))
def execHmaskOn (k : BitVec 12) (s : State) : Out :=
  s.issue {} s.specWait <|
    if s.harvest then .error s.notInHarvest
    else .ok (s.keep.handler s.here k.toNat fun h => { h with mask := true })
def execHmaskOff (k : BitVec 12) (s : State) : Out :=
  s.issue {} s.specWait <|
    if s.harvest then .error s.notInHarvest
    else .ok (s.keep.handler s.here k.toNat fun h =>
      { h with mask := false, from_ := if h.mask then s.dev.now + 1 else h.from_ })

/-- The oldest event record of the running context's tenant. (DEDUCED, log entry 36.) -/
def State.oldestEvent (s : State) : Option (Nat × Word) := s.my.events.find? fun e => e.1 == s.me.tenant
def State.evrd (s : State) (d : Reg) (pop : Bool) : Out :=
  s.issue { dst := s.dstW d } s.specWait <|
    if s.harvest then .error s.notInHarvest
    else match s.oldestEvent with
    | none => .ok (s.setW s.keep 1 d 0)
    | some e =>
      let c := if pop then s.keep.mine fun k => { k with events := k.events.erase e } else s.keep
      .ok (s.setW c 1 d e.2)
def execEvrd (d : Reg) (s : State) : Out := s.evrd d true
def execEvrdPeek (d : Reg) (s : State) : Out := s.evrd d false

/-- TRAP and BKPT: n and whether the group is a pair. -/
def State.programTrap (s : State) (cause : Nat) (k : BitVec 12) : Out :=
  s.issue {} s.specWait
    (.error (s.trapHere cause (BitVec.ofNat 64 (k.toNat + (if s.dev.cur.size = 8 then 65536 else 0)))))
def execTrap (k : BitVec 12) (s : State) : Out := s.programTrap 0x180 k
def execBkpt (k : BitVec 12) (s : State) : Out := s.programTrap 0x181 k

end Sys2Proof.Machine
end

