-- ==== Sys2Proof/Machine/Message.lean ====
section
/-!
DEFINITION. Messages between cores and the words of channels (R106, R107).
-/

namespace Sys2Proof.Machine

/-! ## SEND and SENDV (R106) -/

/-- Where a message may not go: outside the sub-mesh, or to a retired core. (DEDUCED, log entry 34.) -/
def State.targetTrap (s : State) (t : Word) (chan : Nat) : Option Trap :=
  if !s.inMesh t.toNat then some (s.trap 0x186 t (BitVec.ofNat 64 chan))
  else if s.retired t.toNat then some (s.trap 0x187 t (BitVec.ofNat 64 chan))
  else none
def execSend (n : BitVec 6) (a b : Reg) (s : State) : Out :=
  let e : Effect := .send (s.w a).toNat n.toNat [s.w b] false
  s.issue { src := s.srcW a ++ s.srcW b } (s.noRoom e.cost) <|
    if s.harvest then .error s.notInHarvest
    else match s.targetTrap (s.w a) n.toNat with
    | some t => .error t
    | none => match s.overflow e.cost with
      | some t => .error t
      | none => .ok (s.emit s.keep e)
def execSendv (n : BitVec 6) (a b : Reg) (s : State) : Out :=
  let src := s.vsrc b
  let e : Effect := .send (s.w a).toNat n.toNat (vecWords src.val) true
  s.issue { src := s.srcW a ++ src.words }
    (if s.harvest then none else match s.queueWait [b] none with
      | some w => some w
      | none => s.noRoom e.cost) <|
    if s.harvest then .error s.notInHarvest
    else match s.srcTrap [b] none with
    | some t => .error t
    | none => match s.targetTrap (s.w a) n.toNat with
      | some t => .error t
      | none => match s.overflow e.cost with
        | some t => .error t
        | none => .ok (s.emit (s.popAll s.keep [b]) e)

/-! ## RECV and RECVV (R107) -/

/-- Take `n` words off a channel: the messages reached, as they stood; what stays; and the words, or none if there are too
few. -/
def takeWords : Nat → List Msg → Option (List Msg × List Msg × List (Word × Bool))
  | 0, ms => some ([], ms, [])
  | _ + 1, [] => none
  | n + 1, m :: ms =>
    let left := m.delivered.drop m.taken
    if n + 1 < left.length then some ([m], { m with taken := m.taken + (n + 1) } :: ms, left.take (n + 1))
    else
      match takeWords (n + 1 - left.length) ms with
      | none => none
      | some (a, b, ws) => some (m :: a, b, left ++ ws)
termination_by structural _ ms => ms

/-- What stays on a channel when an activation has read the messages reached: it has begun to read the last of them (R72). -/
def readBegun (act : Nat) (reached rest : List Msg) : List Msg :=
  match reached.getLast?, rest with
  | some m, r :: rs => if m.seq = r.seq then { r with readers := act :: r.readers.filter (· != act) } :: rs else rest
  | _, _ => rest
/-- Pop words of a channel into destination words, which fill 3 cycles later. -/
def State.recv (s : State) (n k : Nat) (dst : List Nat) (dsts : List (Option Nat)) : Out :=
  let got := takeWords n (s.my.chans.get [] k)
  s.issue { dst := dst } (if s.speculative then some .spec else if s.harvest then none else if got.isNone then some .channel else none) <|
    if s.harvest then .error s.notInHarvest
    else match got with
    | none => .ok s.keep
    | some (reached, rest, ws) =>
      match reached.findSome? s.fsxTrap with
      | some t => .error t
      | none =>
        let c := s.keep.mine fun c => { c with chans := c.chans.set k (readBegun s.act.num reached rest) }
        let c := reached.foldl (fun c m => c.keepMsg { m with taken := 0 }) c
        .ok ((dsts.zip ws).foldl (fun c d => s.fillWord c d.1 (s.dev.now + 3) d.2.1 d.2.2) c)
def execRecv (d : Reg) (k : BitVec 12) (s : State) : Out := s.recv 1 k.toNat (s.dstW d) [s.fillW d]
def execRecvv (d : Reg) (k : BitVec 12) (s : State) : Out := s.recv 32 k.toNat (s.dstV d) (s.vecDsts d)

end Sys2Proof.Machine
end

