-- ==== Sys2Proof/Machine/Order.lean ====
section
/-!
DEFINITION. Fences, releases and acquires (R160, R266, R267, R275 to R278).
-/

namespace Sys2Proof.Machine

/-! ## Performed at a scope (R160, R266, R267) -/

/-- A flight still counts against a scope: an effect on a location inside it until its home has applied it, any other until it
has crossed the scope's boundary, which is the edge router for a cluster and the Wharf for the device. -/
def Flight.pending (f : Flight) (now : Nat) (sc : Scope) : Bool :=
  match f.cargo with
  | .effect e =>
    if Scope.num (e.scope f.org.core f.place) ≤ Scope.num sc then true
    else match sc, f.place with
      | .core, _ => false
      | .dev, .away .. => !f.gone
      | _, _ => decide (now < f.cross)
  | _ => false
/-- Every effect that an activation has sent or is still to send is performed at a scope. -/
def State.performed (s : State) (p act : Nat) (sc : Scope) : Bool :=
  !((s.core p).relq.any fun h => h.org.act == act) &&
    !(s.dev.flights.any fun f => f.2.org.core == p && f.2.org.act == act && f.2.pending s.dev.now sc)
/-- Every effect that a core released in a cycle or before it is performed at a scope (R278). -/
def State.performedBefore (s : State) (p mark : Nat) (sc : Scope) : Bool :=
  !(s.dev.flights.any fun f => decide (f.2.sent ≤ mark) && f.2.org.core == p && f.2.pending s.dev.now sc)
/-- Every load and atomic return of a context has filled. -/
def State.loadsFilled (s : State) (p sl : Nat) : Bool :=
  !(s.dev.fills.any fun f => f.2.core == p && f.2.slot == sl && f.2.mem && !f.2.dropped)

/-! ## The instructions -/

/-- Held effects to put at the end of the context's own. -/
def Change.hold (c : Change) (hs : List Hold) : Change := c.me fun x => { x with holds := x.holds ++ hs }

/-- FENCE (R160). (DEDUCED, log entry 37.) -/
def execFence (c : Scope) (s : State) : Out :=
  let e : Effect := .fence c
  s.issue {} (s.noRoom e.cost) <|
    match s.overflow e.cost with
    | some t => .error t
    | none =>
      .ok (if s.holding then (s.emit s.keep e).hold [.loads] else s.keep.hold [.loads, .performed c])
def execRel (c : Scope) (s : State) : Out :=
  s.issue {} s.specWait <|
    let k := (s.opened s.keep).hold ([.loads, .performed c] ++
      (if s.act.chan = 3 then [.performedBefore c s.act.missAt] else []))
    .ok (k.me fun x => { x with act := { x.act with mark := some c, relTs := x.act.ts, rels := (x.act.rels + 1) % 2 ^ 32 } })
def execAcq (c : Scope) (s : State) : Out := s.issue {} none (.ok (s.keep.hold (match c with | _ => [.loads])))

end Sys2Proof.Machine
end

