-- ==== Sys2Proof/Machine/Matrix.lean ====
section
/-!
DEFINITION. Queues, leases and matrix commands at the core and at the array (R176 to R184, R285 to R295).
-/

namespace Sys2Proof.Machine

/-! ## Commands and format pairs (R178, R179) -/

def fmtCode (n : Nat) : Fmt :=
  match n with
  | 0 => .f32 | 1 => .bf16 | 2 => .f16 | 3 => .e4m3 | 4 => .e5m2 | 5 => .e2m3 | 6 => .e3m2 | 7 => .e2m1
  | 8 => .tap8 | 9 => .tap6 | 10 => .i8 | 11 => .n8 | 12 => .i4 | 13 => .n4 | 14 => .lut1 | _ => .lut2
def pairValid (fa fb : Nat) : Bool :=
  if fa ≤ 9 then decide (fb ≤ 9)
  else if fa = 10 then decide (10 ≤ fb)
  else if fa ≤ 13 then decide (10 ≤ fb) && decide (fb ≤ 13) else false
/-- K elements of a chunk at an element width (R179); LUT1 and LUT2 count as 8-bit. -/
def chunkElems (fa fb : Nat) : Nat :=
  let one (f : Nat) : Nat :=
    match fmtBits (fmtCode f) with
    | 32 => 48 | 16 => 96 | 6 => 288 | 4 => 384 | _ => 192
  min (one fa) (one fb)
/-- Weight sets of a B format (R292). -/
def weightSets (fb : Nat) : Nat := if fb = 14 then 4 else if fb = 15 then 2 else 1
def cmdM (x : Word) : Nat := bits x 0 8 + 1
def cmdKc (x : Word) : Nat := bits x 16 8
def cmdBofs (x : Word) : Nat := bits x 32 8
def cmdFa (x : Word) : Nat := bits x 48 4
def cmdFb (x : Word) : Nat := bits x 52 4
/-- The checks of R180 on a command word. -/
def cmdBad (x : Word) : Bool :=
  !pairValid (cmdFa x) (cmdFb x) || decide (bits x 56 8 ≠ 0) || decide (bits x 44 4 ≠ 0) || decide (bits x 24 8 ≠ 0) ||
    decide (bits x 8 8 ≠ 0) || decide (2 ≤ bits x 41 2) || decide (256 < cmdBofs x + cmdKc x + 1) ||
    decide (256 / weightSets (cmdFb x) < cmdM x)

/-! ## Instructions -/

def State.engineInHarvest (s : State) : Trap := s.trapHere 0x144 (BitVec.ofNat 64 s.slot)
/-- An instruction of the group: a harvest context may use none (R184). -/
def State.engine (s : State) (fp : Foot) (wait : Option Wait) (body : Except Trap Change) : Out :=
  s.issue fp (if s.harvest then none else wait) (if s.harvest then .error s.engineInHarvest else body)

/-- MLEASE: the request waits at its array (R177). -/
def execMlease (d n : Reg) (i : BitVec 8) (s : State) : Out :=
  let r := s.myCluster * 8 + n.toNat
  s.engine { dst := s.dstW d } s.specWait <|
    if s.opCtx.lease.held || s.opCtx.lease.pend then .error (s.trapHere 0x142 (BitVec.ofNat 64 n.toNat))
    else
      let fid := s.dev.fresh
      let c := s.fill s.keep (s.fillW d) 1
      let q : Request := { core := s.here, slot := s.slot, act := s.act.num, prio := s.act.prio, ring := ringOf s.myLogical
                           cnt := i.toNat, fill := fid }
      let c := (c.arr r fun a => { a with requests := a.requests ++ [q] }).me fun x =>
        { x with lease := { x.lease with pend := true } }
      .ok (c.soon .leaseGrant { a := r })

/-- A push of one command to q0 (R180). -/
def State.pushCommand (s : State) (src : List Nat) (x : Word) (bad : Bool) : Out :=
  let l := s.opCtx.lease
  let e : Effect := .command x s.fsx l.array l.serial
  s.engine { src := src } (s.noRoom e.cost) <|
    if bad || cmdBad x then .error (s.trapHere 0x141 x)
    else if !l.held || l.left = 0 then .error (s.trapHere 0x140 1)
    else match s.overflow e.cost with
    | some t => .error t
    | none => .ok (s.emit (s.keep.me fun y => { y with lease := { y.lease with left := y.lease.left - 1 } }) e)
def execQw (d : Reg) (s : State) : Out := s.pushCommand (s.srcW d) (s.w d) false
/-- MMA takes FA and FB from its minor opcode; the trap reports the word as the register holds it when its format bits are
set. -/
def execMma (d : Reg) (a b : BitVec 4) (s : State) : Out :=
  let x := s.w d
  let y := BitVec.ofNat 64 (x.toNat + a.toNat * 2 ^ 48 + b.toNat * 2 ^ 52)
  if bits x 48 8 ≠ 0 then s.pushCommand (s.srcW d) x true else s.pushCommand (s.srcW d) y false

/-- QWV: one chunk and its scale word (R181). (DEDUCED, log entry 17.) -/
def execQwv (d c : Reg) (s : State) : Out :=
  let l := s.opCtx.lease
  let e : Effect := .feed (vecWords (s.v d)) (s.w c) l.array l.serial
  s.engine { src := s.srcV d ++ s.srcW c }
    (match s.noRoom e.cost with
      | some w => some w
      | none => if l.held && !s.feedRoom then some .queue else none) <|
    match s.noLease true with
    | some t => .error t
    | none => match s.overflow e.cost with
      | some t => .error t
      | none => .ok (s.emit s.keep e)

/-- The lease status word (R182). -/
def Lease.word (l : Lease) : Word :=
  BitVec.ofNat 64 (l.held.toNat * 2 ^ 63 + l.pend.toNat * 2 ^ 62 + l.left % 256 * 2 ^ 48 + l.serial % 2 ^ 32 * 65536 +
    l.ended % 8 * 256 + l.array % 8)
def execQr (d : Reg) (s : State) : Out :=
  s.engine { dst := s.dstW d } s.specWait (.ok (s.setW s.keep 1 d s.opCtx.lease.word))
/-- QST: what q0 to q2 show without an array of the context's is not given: a free value.
(DESIGN CHOICE, log entry 30.) -/
def execQst (d n : Reg) (s : State) : Out :=
  let a := s.arr s.myArray
  let ready := (a.q2.filter fun v => v.entered && decide (v.due < s.dev.now)).length
  let v : Word :=
    if n.toNat = 3 then s.opCtx.lease.word
    else if s.opCtx.lease.held || s.ownsResults then
      BitVec.ofNat 64 (if n.toNat = 0 then 4 - a.q0.length else if n.toNat = 1 then s.feedPlaces else ready)
    else Config.word s.dev.fresh
  s.engine { dst := s.dstW d } none (.ok ((s.setW s.keep 1 d v).tick))
/-- QRV: pops one result vector into a register, POISON words and all (R182, R293). -/
def execQrv (d : Reg) (s : State) : Out :=
  let src := s.popResult
  let cycle := s.dev.now + 1 + Config.delay s.dev.fresh
  let rec_ := match (s.arr s.myArray).q2.head? with
    | some v => v.poison
    | none => none
  s.engine { dst := s.dstV d } (match s.specWait with
      | some w => some w
      | none => if s.ownsResults then src.wait else none) <|
    if !s.ownsResults then .error (s.trapHere 0x140 0)
    else match src.trap, rec_ with
    | some t, none => .error t
    | some t, some _ => if s.holding && s.heldPush then .error t else
        .ok ((s.vecDsts d).foldl (fun c k => s.fillWord c k cycle (rec_.getD 0) true) ((src.pop s.keep).tick))
    | none, _ =>
      .ok (((s.vecDsts d).zip (vecWords src.val)).foldl (fun c k => s.fillWord c k.1 cycle k.2 false) ((src.pop s.keep).tick))
/-- MSET and MFREE are engine commands (R183). -/
def State.engineCommand (s : State) (e : Effect) (trap : Option Trap) : Out :=
  s.engine {} (s.noRoom e.cost) <|
    match trap with
    | some t => .error t
    | none => match s.overflow e.cost with
      | some t => .error t
      | none => .ok (s.emit s.keep e)
/-- MSET without a lease is 0x140, as a push without one is. (DESIGN CHOICE, log entry 141.) -/
def execMset (s : State) : Out :=
  let l := s.opCtx.lease
  s.engineCommand (.mset l.array l.serial) (if l.held then none else some (s.trapHere 0x140 0))
def execMfree (n : Reg) (s : State) : Out :=
  let l := s.opCtx.lease
  s.engineCommand (.mfree n.toNat l.serial) (if l.held && decide (l.array = n.toNat) then none else some (s.trapHere 0x140 0))

/-! ## Grants and ends (R177, R290) -/

/-- Discard what stands unpopped (R177, R183). -/
def Change.discardResults (c : Change) (r : Nat) : Change :=
  let a := c.dev.arrays.get {} r
  let c := if a.q2.isEmpty then c else c.reslostHolder r
  c.arr r fun a => { a with q2 := [] }
/-- Distance in ring order after the core of the previous grant. -/
def ringAfter (last ring : Nat) : Nat := (ring + 191 - last) % 192
/-- The waiting request of highest priority, and among equals the first in ring order after the previous grant. -/
def bestRequest (last : Nat) : List Request → Option Request
  | [] => none
  | q :: qs =>
    match bestRequest last qs with
    | none => some q
    | some b =>
      if q.prio < b.prio ∨ (q.prio = b.prio ∧ ringAfter last q.ring ≤ ringAfter last b.ring) then some q else some b
/-- Pushes of an activation under a lease that goes on carry its new number. (DESIGN CHOICE, log entry 118.) -/
def Held.renumber (act n old new : Nat) (h : Held) : Held :=
  let k (a serial : Nat) : Nat := if a = n ∧ serial = old then new else serial
  if h.org.act ≠ act then h
  else { h with eff := match h.eff with
    | .command x f a serial => .command x f a (k a serial)
    | .feed ws sc a serial => .feed ws sc a (k a serial)
    | .mset a serial => .mset a (k a serial)
    | .mfree a serial => .mfree a (k a serial)
    | e => e }
/-- An array goes back to the lease of a restored context, by a grant of its own: its 8,192 cycles count afresh (R184, R290). -/
def State.regrant (s : State) (c : Change) (r : Nat) (q : Request) (a : MArray) : Change :=
  let now := s.arr r
  let serial := (now.serial + 1) % 2 ^ 32
  let c := (c.dv fun d => { d with regrants := d.regrants.drop q.act }).arr r fun _ => { a with
    requests := now.requests.erase q, lastRing := q.ring, gated := now.gated, since := s.dev.now, serial := serial, mismatch := now.mismatch }
  let c := (c.ctx q.core q.slot fun x => { x with
    lease := if a.leased then { x.lease with held := true, serial := serial } else x.lease
    holds := x.holds.filter fun h => match h with
      | .regrant => false
      | _ => true }).core q.core fun k => { k with
    hold := k.hold.map (Held.renumber q.act (r % 8) a.serial serial), relq := k.relq.map (Held.renumber q.act (r % 8) a.serial serial) }
  let c := if a.leased then c.sched (s.dev.now + 8192) .leaseTimeout { a := r, b := serial, c := s.dev.now }
    else c.sched (s.dev.now + 8192) .resultDiscard { a := r, b := serial }
  let c := a.q2.foldl (fun c v => if v.entered then c else c.sched (max v.due (s.dev.now + 1)) .resultVector { a := r }) c
  if a.running.isSome then c.sched (s.dev.now + 1) .chunkRow { a := r } else c.sched (s.dev.now + 1) .commandStart { a := r }
/-- An array that is free is granted. Arg: array. -/
def execLeaseGrant (s : State) : Out :=
  let r := s.dev.arg.a
  let a := s.arr r
  s.occur <|
    if decide (768 ≤ r) || a.leased || a.gated || !a.q2.isEmpty || a.running.isSome || !a.q0.isEmpty then s.keep
    else match bestRequest a.lastRing a.requests with
    | none => s.keep
    | some q =>
      match q.resume, s.dev.regrants.find q.act with
      | true, some x => s.regrant s.keep r q x
      | true, none => (s.keep.arr r fun a => { a with requests := a.requests.erase q }).sched (s.dev.now + 1) .leaseGrant { a := r }
      | false, _ =>
      let serial := (a.serial + 1) % 2 ^ 32
      let c := s.keep.arr r fun a => { a with
        leased := true, serial := serial, since := s.dev.now, cnt := q.cnt, completed := 0, ending := none
        holder := some (q.core, q.slot, q.act), dom := (s.ctx q.core q.slot).act.dom, closing := false, requests := a.requests.erase q, lastRing := q.ring
        feed := [], acc := [], poisoned := [], lastRow := none }
      let c := c.ctx q.core q.slot fun x => { x with lease :=
        { x.lease with held := true, pend := false, left := q.cnt, serial := serial, array := r % 8 } }
      (c.answer q.fill (BitVec.ofNat 64 (serial * 65536 + q.cnt * 256 + r % 8))).sched (s.dev.now + 8192) .leaseTimeout
        { a := r, b := serial, c := s.dev.now }
/-- 8,192 cycles since the grant. Arg: array, serial, cycle of the grant. -/
def execLeaseTimeout (s : State) : Out :=
  let a := s.arr s.dev.arg.a
  s.occur (if a.leased && a.serial == s.dev.arg.b && a.since == s.dev.arg.c then s.keep.leaseEnds s.dev.arg.a 1 else s.keep)
/-- 8,192 cycles since a lease ended. Arg: array, serial. -/
def execResultDiscard (s : State) : Out :=
  let r := s.dev.arg.a
  let a := s.arr r
  s.occur (if !a.leased && a.serial == s.dev.arg.b then
      ((s.keep.discardResults r).arr r fun a => { a with holder := none }).sched (s.dev.now + 1) .leaseGrant { a := r }
    else s.keep)

/-! ## Pushes at the array (R180, R181, R183, R291) -/

/-- An earlier flight of the same core to the same unit is still under way. -/
def State.behind (s : State) (id core : Nat) (same : Effect → Bool) : Bool :=
  s.dev.flights.any fun f => decide (f.1 < id) && f.2.org.core == core && match f.2.cargo with
    | .effect e => same e
    | _ => false
def Effect.toArray (n : Nat) : Effect → Bool
  | .command _ _ k _ => k == n
  | .feed _ _ k _ => k == n
  | .mset k _ => k == n
  | .mfree k _ => k == n
  | _ => false
def Change.landed (c : Change) (id : Nat) : Change := c.dv fun d => { d with flights := d.flights.drop id }
/-- The array of a flight's cluster. -/
def arrayOf (o : Origin) (n : Nat) : Nat := physCluster o.core * 8 + n
/-- A flight's lease still stands; while its accepted commands complete it has ended, but for what the end of its activation released
(R177, R291). -/
def MArray.under (a : MArray) (o : Origin) (serial : Nat) : Bool :=
  a.leased && a.serial == serial && a.holder == some (o.core, o.slot, o.act) && (a.ending.isNone || a.closing)
/-- Chunk-rows that the accepted commands still take from the feed. -/
def MArray.rowsLeft (a : MArray) : Nat :=
  (a.running.toList ++ a.q0).foldl (fun n x => n + (cmdM x.word * (cmdKc x.word + 1) - x.rows)) 0
/-- A chunk is accepted: its lease stands, or has ended while accepted commands, which always complete, still need it.
(DEDUCED, log entry 28.) -/
def MArray.takesChunk (a : MArray) (o : Origin) (serial : Nat) : Bool :=
  a.under o serial || (a.leased && a.serial == serial && a.holder == some (o.core, o.slot, o.act) && decide (a.feed.length < a.rowsLeft))
/-- The flight of the present event, if it still flies. -/
def State.flight (s : State) : Option Flight := s.dev.flights.find s.dev.arg.a
/-- A store that the core released earlier to the array's B-store is still under way: the command reads B after it (R284).
(DEDUCED, log entry 66.) -/
def State.storesBefore (s : State) (id core r : Nat) : Bool :=
  s.dev.flights.any fun f => decide (f.1 < id) && f.2.org.core == core && (match f.2.cargo, f.2.place with
    | .effect (.store ..), .bstore b _ => b == r
    | _, _ => false)
/-- A released command or chunk reaches its array. Arg: flight. -/
def execArrayPush (s : State) : Out :=
  s.occur <| match s.flight with
  | none => s.keep
  | some f => match f.cargo with
    | .effect (.command x fsx n serial) =>
      let r := arrayOf f.org n
      let a := s.arr r
      if s.behind s.dev.arg.a f.org.core (Effect.toArray n) || s.storesBefore s.dev.arg.a f.org.core r then s.again .arrayPush
      else if !a.under f.org serial then (s.keep.reslost f.org.core f.org.slot f.org.dom).landed s.dev.arg.a
      else if 4 ≤ a.q0.length then s.again .arrayPush
      else ((s.keep.arr r fun a => { a with q0 := a.q0 ++ [{ word := x, fsx := fsx, dom := f.org.dom, ts := f.org.ts }] }).sched s.dev.now .commandStart
        { a := r }).landed s.dev.arg.a
    | .effect (.feed ws sc n serial) =>
      let r := arrayOf f.org n
      let a := s.arr r
      if s.behind s.dev.arg.a f.org.core (Effect.toArray n) then s.again .arrayPush
      else if !a.takesChunk f.org serial then (s.keep.reslost f.org.core f.org.slot f.org.dom).landed s.dev.arg.a
      else if 8 ≤ a.feed.length then s.again .arrayPush
      else ((s.keep.arr r fun a => { a with feed := a.feed ++ [(ws, sc)] }).landed s.dev.arg.a).leaseDrained r
    | _ => s.keep
/-- Vectors that a command owes q2 (R182). -/
def Cmd.owes (c : Cmd) : Nat := if c.word.getLsbD 43 then cmdM c.word * (2 * weightSets (cmdFb c.word)) else 0
/-- MSET reaches the array (R183). The commands that it discards count as completed. (DESIGN CHOICE, log entry 142.) Arg: flight. -/
def execMsetAtArray (s : State) : Out :=
  s.occur <| match s.flight with
  | none => s.keep
  | some f => match f.cargo with
    | .effect (.mset n serial) =>
      let r := arrayOf f.org n
      let a := s.arr r
      if s.behind s.dev.arg.a f.org.core (Effect.toArray n) then s.again .msetAtArray
      else if !a.under f.org serial then s.keep.landed s.dev.arg.a
      else if a.running.isSome then s.again .msetAtArray
      else
        let owed := a.q0.foldl (fun n c => n + c.owes) 0
        let last := a.q2.foldl (fun n v => max n v.due) s.dev.now
        let zero : List Word := List.replicate 32 0
        let old := a.q2.map fun v => { v with words := zero, poison := none }
        let new : List ResultVec := (List.range owed).map fun i => { due := last + 1 + i, words := zero }
        let c := s.keep.arr r fun a => { a with
          q0 := [], feed := [], acc := [], poisoned := [], q2 := old ++ new
          completed := a.completed + a.q0.length }
        let c := if old.isEmpty && owed == 0 then c else c.reslostHolder r
        let c := new.foldl (fun c v => c.sched v.due .resultVector { a := r }) c
        ((if a.cnt ≤ a.completed + a.q0.length then c.leaseEnds r 0 else c).landed s.dev.arg.a).leaseDrained r
    | _ => s.keep
/-- MFREE reaches the array (R183). Arg: flight. -/
def execMfreeAtArray (s : State) : Out :=
  s.occur <| match s.flight with
  | none => s.keep
  | some f => match f.cargo with
    | .effect (.mfree n serial) =>
      let r := arrayOf f.org n
      if s.behind s.dev.arg.a f.org.core (Effect.toArray n) then s.again .mfreeAtArray
      else if !(s.arr r).under f.org serial then s.keep.landed s.dev.arg.a
      else ((s.keep.discardResults r).leaseEnds r 2).landed s.dev.arg.a
    | _ => s.keep

/-! ## The array at work (R82, R83, R286 to R289, R292) -/

/-- The byte ranges of a command's granules in the 128 slices (R287). -/
def granules (r : Nat) (x : Word) : List (Nat × Nat) :=
  (List.range 128).map fun j => (bstoreKey r (j * 65536 + cmdBofs x * 256), (cmdKc x + 1) * 256)
/-- A registered write lock stands in the way of a read lock. -/
def readConflict (ls : List Lock) (rs : List (Nat × Nat)) : Bool :=
  ls.any fun l => l.write && rs.any fun a => l.ranges.any fun b => overlaps a.1 a.2 b.1 b.2
/-- Owner number of an array's own lock entry, and its entry in the cluster's table. -/
def arrayOwner (r : Nat) : Nat := 4 * r + 2
/-- The cluster of an operation that waits to register its locks, by its owner number: a rotation, an array or a copy. -/
def State.waiterCluster (s : State) (o : Nat) : Nat :=
  if o % 4 = 1 then o / 4
  else if o % 4 = 2 then o / 4 / 8
  else match s.dev.copies.find (o / 4) with
  | some k => physCluster k.core
  | none => 96
/-- An operation of a cluster that tried before this one still waits (R281). -/
def State.waitsInCluster (s : State) (o clu : Nat) : Bool := (s.dev.lockWait.takeWhile (· != o)).any fun x => s.waiterCluster x == clu
/-- An operation joins those that wait to register, or leaves them. -/
def Change.lockJoin (c : Change) (o : Nat) : Change :=
  c.dv fun d => { d with lockWait := if d.lockWait.contains o then d.lockWait else d.lockWait ++ [o] }
def Change.lockLeave (c : Change) (o : Nat) : Change := c.dv fun d => { d with lockWait := d.lockWait.filter (· != o) }
/-- A command starts once its read lock can be registered, behind the operations of its cluster that tried before it. Arg: array. -/
def execCommandStart (s : State) : Out :=
  let r := s.dev.arg.a
  let a := s.arr r
  s.occur <|
    if a.running.isSome then s.keep
    else match a.q0 with
    | [] => s.keep.lockLeave (arrayOwner r)
    | x :: rest =>
      let late := match a.lastRow with
        | some t => decide (s.dev.now ≤ t)
        | none => false
      if late || (s.clu (r / 8)).gated then s.again .commandStart
      else if s.waitsInCluster (arrayOwner r) (r / 8) || readConflict (s.clu (r / 8)).locks (granules r x.word) then
        s.retry (s.keep.lockJoin (arrayOwner r)) .commandStart
      else
        let l : Lock := { owner := arrayOwner r, write := false, ranges := granules r x.word, entry := 56 + r % 8 }
        (((s.keep.lockLeave (arrayOwner r)).arr r fun a => { a with q0 := rest, running := some { x with start := s.dev.now } }).clu (r / 8) fun k =>
          { k with locks := k.locks ++ [l] }).sched (s.dev.now + 8) .chunkRow { a := r }

/-- The running command of a regranted array registers its read lock again before it goes on (R184, R287). -/
def State.relock (s : State) (r : Nat) (x : Cmd) : Change :=
  if s.waitsInCluster (arrayOwner r) (r / 8) || readConflict (s.clu (r / 8)).locks (granules r x.word) then
    s.retry (s.keep.lockJoin (arrayOwner r)) .chunkRow
  else ((s.keep.lockLeave (arrayOwner r)).clu (r / 8) fun k =>
    { k with locks := k.locks ++ [{ owner := arrayOwner r, write := false, ranges := granules r x.word, entry := 56 + r % 8 }] }).sched (s.dev.now + 1)
      .chunkRow { a := r }
/-- The value of a B element, weights included (R75). (DEDUCED, log entry 29.) -/
def weightOf (fsx : Bool) (fb code : Nat) : Num :=
  if fb = 14 then Num.ofInt (if code = 0 then -1 else 1) 0
  else if fb = 15 then Num.ofInt (2 * (code : Int) - 3) 0
  else decodeNum fsx (fmtCode fb) code
/-- The exact sum of one block, scaled (R82, R83). -/
def blockSum (fsx : Bool) (fa fb : Nat) (a b : Nat) (base sa sb : Nat) : Num :=
  let wa := fmtBits (fmtCode fa)
  let wb := fmtBits (fmtCode fb)
  let s := (List.range 48).foldl (fun acc k =>
    Num.add acc (Num.mul (decodeNum fsx (fmtCode fa) (a / 2 ^ (wa * (base + k)) % 2 ^ wa))
      (weightOf fsx fb (b / 2 ^ (wb * (base + k)) % 2 ^ wb)))) (Num.zero false)
  if sa = 255 ∨ sb = 255 then .nan
  else match s with
  | .fin _ 0 _ _ => Num.zero false
  | x => Num.scale (((sa : Int) - 127) + ((sb : Int) - 127)) x
/-- One output column's accumulator after a chunk. `g` is the granule as a number, `set` its weight set. -/
def columnStep (fsx : Bool) (fa fb : Nat) (chunk : Nat) (scale : Word) (g set : Nat) (acc : Nat) : Nat :=
  let ns := weightSets fb
  let b := g / 2 ^ (8 * (if fb = 14 then 24 * set else if fb = 15 then 48 * set else 0))
  let sbase := if ns = 1 then 248 else 256 - 8 * ns + 8 * set
  (List.range (chunkElems fa fb / 48)).foldl (fun acc blk =>
    let sb := g / 2 ^ (8 * (sbase + blk)) % 256
    let x := blockSum fsx fa fb chunk b (48 * blk) (bits scale (8 * blk) 8) sb
    toF32 (Num.add (f32 acc) (f32 (toF32 x)))) acc
/-- The accumulator of row i and output column q: a set's rows follow those of the sets before it (R292). -/
def accKey (ns i q : Nat) : Nat := (q / 128 * (256 / ns) + i) * 128 + q % 128
/-- Columns whose granule holds an uncorrectable word (R293). -/
def State.badColumn (s : State) (r g : Nat) : Option Nat :=
  (List.range 128).find? fun j => (List.range 32).any fun i => s.bad.contains (bstoreKey r (j * 65536 + g * 256) / 8 + i)
/-- EPI on an emitted value: 01 makes negative values and −0 into +0 and keeps NaN (R178). -/
def epilogue (x : Word) (v : Nat) : Nat :=
  if bits x 41 2 = 1 ∧ !isNan v ∧ v / 2 ^ 31 % 2 = 1 then 0 else v
/-- The fault record of a poisoned row (R293): array in the top of the detail, row and part, or row, granule and column. -/
def rowRecord (r row part : Nat) (how : Nat) : Word :=
  BitVec.ofNat 64 (if how = 0 then 0x145 + (row + part * 256 + r % 8 * 2 ^ 23) * 65536
    else 0x146 + (row + (how - 1) * 256 + r % 8 * 2 ^ 23) * 65536)
/-- The array consumes a chunk-row of its command, or waits for its feed or for room in q2. Arg: array. -/
def execChunkRow (s : State) : Out :=
  let r := s.dev.arg.a
  let a := s.arr r
  s.occur <| match a.running with
  | none => s.keep
  | some cmd =>
    if !((s.clu (r / 8)).locks.any fun l => l.owner == arrayOwner r) then s.relock r cmd
    else match a.feed with
    | [] => s.again .chunkRow
    | (ws, scale) :: rest =>
      if 512 ≤ (a.q2.filter ResultVec.entered).length ∨ (s.clu (r / 8)).gated then s.again .chunkRow
      else
        let x := cmd.word
        let m := cmdM x
        let fa := cmdFa x
        let fb := cmdFb x
        let ns := weightSets fb
        let i := cmd.rows % m
        let ch := cmd.rows / m
        let g := cmdBofs x + ch
        let chunk := leNat (ws.flatMap wordBytes)
        let fresh := decide (ch = 0) && x.getLsbD 40
        let acc0 : Map (BitVec 32) := a.acc
        let grans := (List.range 128).map fun j => leNat (s.bytesAt (bstoreKey r (j * 65536 + g * 256)) 256)
        let acc := (List.range (128 * ns)).foldl (fun (t : Map (BitVec 32)) q =>
          let k := accKey ns i q
          let old := if fresh then 0 else (t.get 0 k).toNat
          t.set k (BitVec.ofNat 32 (columnStep cmd.fsx fa fb chunk scale (grans.getD (q % 128) 0) (q / 128) old))) acc0
        let pois := if fresh then a.poisoned.drop i else a.poisoned
        let pois := match s.badColumn r g with
          | some j => pois.set i (1 + g + 256 * j)
          | none => if a.mismatch && (pois.find i).isNone then pois.set i 0 else pois
        let rows := cmd.rows + 1
        let isOver := decide (rows = m * (cmdKc x + 1))
        let emit := x.getLsbD 43 && decide (ch = cmdKc x)
        let t0 := a.q2.foldl (fun n v => max n (v.due + 1)) (s.dev.now + 6)
        let vecs : List ResultVec := if emit then (List.range (2 * ns)).map fun p =>
            let vals := (List.range 64).map fun j => epilogue x (acc.get 0 (accKey ns i (64 * p + j))).toNat
            { due := t0 + p
              words := (List.range 32).map fun w => BitVec.ofNat 64 (vals.getD (2 * w) 0 + vals.getD (2 * w + 1) 0 * 2 ^ 32)
              poison := (pois.find i).map (rowRecord r i p) }
          else []
        let c := s.keep.arr r fun a => { a with
          feed := rest, acc := acc, poisoned := pois, q2 := a.q2 ++ vecs, mismatch := false
          running := if isOver then none else some { cmd with rows := rows }
          lastRow := some s.dev.now, completed := if isOver then a.completed + 1 else a.completed }
        let c := vecs.foldl (fun c v => c.sched v.due .resultVector { a := r }) c
        if isOver then
          let c := (c.clu (r / 8) fun k => { k with locks := k.locks.filter fun l => l.owner != arrayOwner r }).sched
            (s.dev.now + 1) .commandStart { a := r }
          let c := match a.holder with
            | some (p, _, _) => c.count p 38
            | none => c
          if a.ending.isNone && decide (a.cnt ≤ a.completed + 1) then c.leaseOver r 0 else c.leaseDrained r
        else c.sched (s.dev.now + 1) .chunkRow { a := r }
/-- One result vector enters q2, or waits for room. Arg: array. -/
def execResultVector (s : State) : Out :=
  let r := s.dev.arg.a
  let a := s.arr r
  s.occur <|
    if 512 ≤ (a.q2.filter ResultVec.entered).length then s.again .resultVector
    else
      let done := a.q2.takeWhile ResultVec.entered
      match a.q2.dropWhile ResultVec.entered with
      | [] => s.keep
      | v :: rest => s.keep.arr r fun a => { a with q2 := done ++ { v with entered := true, due := s.dev.now } :: rest }

end Sys2Proof.Machine
end

