-- ==== Sys2Proof/Machine/Ring.lean ====
section
/-!
DEFINITION. Range-lock tables (R281) and ring rotate (R185, R232, R265).
-/

namespace Sys2Proof.Machine

/-! ## Registering locks (R281) -/

/-- Locks that stand in the way of an operation's range. -/
def lockConflict (ls : List Lock) (owner : Nat) (wr : Bool) (ranges : List (Nat × Nat)) : Bool :=
  ls.any fun l => decide (l.owner ≠ owner) && (l.write || wr) && ranges.any fun a => l.ranges.any fun b => overlaps a.1 a.2 b.1 b.2
/-- The lowest free entry of the 56 that serve copies and RROT. -/
def freeEntry (ls : List Lock) : Option Nat := (List.range 56).find? fun e => !ls.any fun l => l.entry == e
/-- Owner numbers: copies, rotations and arrays. -/
def copyOwner (id : Nat) : Nat := 4 * id
def ringOwner (clu : Nat) : Nat := 4 * clu + 1
/-- A context that has started is presented again in the next cycle, with its unit's answer. -/
def Change.respond (c : Change) (p sl act out : Nat) (pick : Hold → Bool) : Change :=
  c.ctx p sl fun x => if x.act.num = act ∧ x.holds.any pick then
    { x with outcome := some out, holds := (x.holds.filter fun h => !pick h) ++ [.realigned (c.dev.now + 1)] } else x
def Hold.isRotation : Hold → Bool
  | .rotation => true
  | _ => false

/-! ## RROT (R185) -/

/-- The live cores of a cluster, in ring order, by rank. -/
def State.ranks (s : State) (clu : Nat) : List Nat := (s.ring clu).map s.phys
def execRrot (d a b : Reg) (s : State) : Out :=
  let base := (s.w d).toNat
  let len := (s.w a).toNat
  let l := (s.ring s.myCluster).length
  let hops := (s.w b).toNat % l
  let bad := decide (base % 256 ≠ 0) || decide (len % 256 ≠ 0) || decide (len < 256) || decide (65536 < len) || decide (0x40000 < base + len)
  let twice := (s.clu s.myCluster).arrivals.any fun r => r.core == s.here && r.act != s.act.num
  let t := s.trapHere 0x150 (BitVec.ofNat 64 (base % 2 ^ 32 * 2 ^ 32 + len / 256 % 131072))
  s.present { src := s.srcW d ++ s.srcW a ++ s.srcW b } (if s.harvest then none else s.specWait) <|
    if s.harvest then .traps s.engineInHarvest s.keep
    else match s.me.outcome with
    | some 1 => .runs (s.keep.me fun x => { x with outcome := none })
    | some _ => .traps t (s.keep.me fun x => { x with outcome := none })
    | none =>
      if bad || twice then .traps t s.keep
      else
        let c := (s.opened s.keep).me fun x => { x with holds := x.holds ++ [.rotation] }
        .starts (c.sched s.dev.now .rotation { a := s.here, b := s.slot, c := s.act.num
                                               words := [BitVec.ofNat 64 base, BitVec.ofNat 64 len, BitVec.ofNat 64 hops] })

/-- Every participant of a cluster's sequencer is answered. -/
def Change.answerRing (c : Change) (clu out : Nat) : Change :=
  (c.dev.clusters.get {} clu).arrivals.foldl (fun c r => c.respond r.core r.slot r.act out Hold.isRotation) c
/-- An arrival reaches the sequencer once the held effects of its activation have left; the last one refuses the rotation, or
lets it register its write lock. Arg: core, slot, activation; base, length, hops. -/
def execRotation (s : State) : Out :=
  let g := s.dev.arg
  let clu := physCluster g.a
  let n (i : Nat) : Nat := (g.words.getD i 0).toNat
  s.occur <|
    if !((s.ctx g.a g.b).holds.any Hold.isRotation) || (s.ctx g.a g.b).act.num != g.c then s.keep
    else if (s.core g.a).relq.any fun h => h.org.act == g.c then s.again .rotation
    else if (s.clu clu).arrivals.any fun r => r.core == g.a then s.keep.respond g.a g.b g.c 2 Hold.isRotation
    else
      let r : Arrival := { core := g.a, slot := g.b, act := g.c, base := n 0, len := n 1, hops := n 2 }
      let c := s.keep.clu clu fun k => { k with arrivals := k.arrivals ++ [r] }
      let all := (s.clu clu).arrivals ++ [r]
      if !((s.ranks clu).all fun p => all.any fun x => x.core == p) then c
      else if all.all fun x => x.base == r.base && x.len == r.len && x.hops == r.hops then
        (c.dv fun d => { d with lockWait := d.lockWait ++ [ringOwner clu] }).sched s.dev.now .rangeLockRegister
          { a := ringOwner clu }
      else (c.answerRing clu 2).clu clu fun k => { k with arrivals := [] }
/-- The rotation starts: its lock stands, and it ends length/256 + hops + 8 cycles later. In length/256 cycles of that time, which the
manual leaves open, a row is exchanged at every participant, which takes all of its banks. -/
def State.startRotation (s : State) (c : Change) (clu : Nat) (entry : Nat) : Change :=
  match (s.clu clu).arrivals.head? with
  | none => c
  | some r =>
    let rows := r.len / 256
    let from_ := s.dev.now + 1 + Config.choice s.dev.fresh % (r.hops + 8)
    let l : Lock := { owner := ringOwner clu, write := true, ranges := (s.ranks clu).map fun p => (nearKey p r.base, r.len), entry := entry }
    let c := (c.tick.clu clu fun k => { k with locks := k.locks ++ [l], rotating := some s.dev.now }).sched
      (s.dev.now + rows + r.hops + 8) .rotationEnd { a := clu }
    if r.hops = 0 then c
    else (s.ranks clu).foldl (fun c p => (c.touch p r.base r.len).core p fun k => { k with rotFrom := from_, rotUntil := from_ + rows })
      ((List.range rows).foldl (fun c i => c.sched (from_ + i) .rotationEnd { a := clu, b := i + 1 }) c)
/-- Exchange one row: the bytes and tags of every rank go to the rank `hops` further on, all read before any is written; an uncorrectable
word goes as POISON (R402, R403).
(DEDUCED, log entry 31.) -/
def State.rotateRow (s : State) (c : Change) (clu : Nat) (r : Arrival) (off : Nat) : Change :=
  let ps := s.ranks clu
  let l := ps.length
  (List.range l).foldl (fun c i =>
    let src := ps.getD i 0
    let dst := ps.getD ((i + r.hops) % l) 0
    let o : Origin := match (s.clu clu).arrivals.find? fun x => x.core == dst with
      | some x => let y := (s.ctx dst x.slot).act
        { core := dst, slot := x.slot, act := x.act, dom := y.dom, ts := y.ts }
      | none => { core := dst }
    let c := s.fixWords c ((List.range 32).map (nearKey src off / 8 + ·))
    let c := (s.nearWrite c dst off (s.nearBytes src off 256)).conflict o true (nearKey dst off) 256
    (List.range 32).foldl (fun c w =>
      let from_ := nearKey src off / 8 + w
      if s.sramBad from_ then (c.putWord (nearKey dst off + 8 * w) (sramRecord from_) .poison).count src 33
      else c.setTag (nearKey dst off / 8 + w) (s.tagOf from_)) c) c
/-- A row of a rotation moves; at the end the lock clears and the participants go on. Arg: cluster; 0 for the end, else one more than
the row. -/
def execRotationEnd (s : State) : Out :=
  let clu := s.dev.arg.a
  s.occur <| match (s.clu clu).rotating, (s.clu clu).arrivals.head? with
  | some _, some r =>
    if s.dev.arg.b = 0 then
      (s.keep.answerRing clu 1).clu clu fun k =>
        { k with arrivals := [], rotating := none, locks := k.locks.filter fun l => l.owner != ringOwner clu }
    else s.rotateRow s.keep clu r (r.base + 256 * (s.dev.arg.b - 1))
  | _, _ => s.keep

end Sys2Proof.Machine
end

