-- ==== Sys2Proof/Machine/Barriers.lean ====
section
/-!
DEFINITION. Barriers, going ahead at one, and the queries (R189 to R192, R297 to R300).
-/

namespace Sys2Proof.Machine

/-! ## Barrier objects (R189) -/

/-- A barrier of a core: of its cluster below 64, else of its launch. -/
def State.barrier (s : State) (p b : Nat) : Barrier :=
  if b < 64 then (s.clu (physCluster p)).barriers.get {} b
  else match s.launchOf p with
    | some l => l.barriers.get {} b
    | none => {}
def Change.setBarrier (c : Change) (p b : Nat) (x : Barrier) : Change :=
  if b < 64 then c.clu (physCluster p) fun k => { k with barriers := k.barriers.set b x }
  else match (c.dev.cores.get {} p).launch with
    | some n => c.dv fun d => { d with launches := d.launches.upd {} n fun l => { l with barriers := l.barriers.set b x } }
    | none => c
/-- The launch of a core was dispatched by a graph engine (R299). -/
def State.graphLaunch (s : State) (p : Nat) : Bool := match s.launchOf p with
  | some l => l.producer == 2
  | none => false

/-! ## Arrivals (R190, R297 to R299) -/

/-- The timestamp that an arrival at epoch E leaves. -/
def State.arrivalTs (s : State) (e : Nat) : Nat := if s.graphLaunch s.here then s.act.ts else max s.act.ts (e + 1)
/-- BARS goes on speculatively. -/
def State.goesAhead (s : State) (e : Nat) : Bool :=
  s.act.maySpec && decide (s.slot ≤ 10) && decide ((s.clu s.myCluster).commits.length < 1024) && !s.graphLaunch s.here &&
    decide (s.act.ts ≤ e)
/-- An activation becomes speculative: its shadow is taken while its context is held, and it takes a commit-queue entry. -/
def Change.ahead (c : Change) (p sl act logical ts : Nat) : Change :=
  let sh : Shadow := { image := [], tags := [], pc := 0, mode := 0, stallcnt := 0, srseed := 0, status := 0, lcnt := 0, lbeg := 0
                       lend := 0, xw := [], targets := [], barrier := 0, ts := ts }
  let e : CommitEntry := { ts := ts, logical := logical, slot := sl, core := p, act := act }
  ((c.ctx p sl fun x => { x with shadow := some sh, holds := x.holds ++ [.copying] }).clu (physCluster p) fun k =>
    { k with commits := k.commits ++ [e] }).sched (c.dev.now + 1) .checkpoint { a := p, b := sl, c := 18
                                                                                words := [BitVec.ofNat 64 act] }
/-- BARS and BARW. -/
def State.arrive (s : State) (i : BitVec 8) (ahead : Bool) : Out :=
  let b := i.toNat
  let x := s.barrier s.here b
  let e := x.epoch
  let quiet : Option Wait :=
    if !ahead then none
    else if s.anyFill s.here s.slot then some .fill
    else if s.me.pipe.isEmpty then none else some .other
  s.issue {} (match s.specWait with
      | some w => some w
      | none => quiet) <|
    if s.harvest then .error s.notInHarvest
    else if x.parties = 0 then .error (s.trapHere 0x18C (BitVec.ofNat 64 b))
    else if e = 2 ^ 32 - 1 then .error (s.trapHere 0x195 (BitVec.ofNat 64 b))
    else
      let ts := s.arrivalTs e
      let c := s.keep.me fun y => { y with act := { y.act with ts := ts } }
      if x.arrived + 1 = x.parties then .ok (c.setBarrier s.here b { x with arrived := 0, epoch := e + 1 })
      else
        let c := c.setBarrier s.here b { x with arrived := x.arrived + 1 }
        if ahead && s.goesAhead e then .ok ((c.ahead s.here s.slot s.act.num s.myLogical (e + 1)).count s.here 22)
        else .ok (c.hold [.barrier b e])
def execBars (i : BitVec 8) (s : State) : Out := s.arrive i true
def execBarw (i : BitVec 8) (s : State) : Out := s.arrive i false
/-- BARI acts at once at the barrier's unit; the acknowledgement comes after a time the manual leaves open (R191). -/
def execBari (a : Reg) (i : BitVec 8) (s : State) : Out :=
  let b := i.toNat
  let n := (s.w a).toNat
  let x := s.barrier s.here b
  s.issue { src := s.srcW a } s.specWait <|
    if s.harvest then .error s.notInHarvest
    else if n = 0 ∨ 65536 ≤ n ∨ x.arrived ≠ 0 then .error (s.trapHere 0x18B (BitVec.ofNat 64 b))
    else
      .ok (((s.keep.setBarrier s.here b { x with parties := n, arrived := 0 }).hold
        [.until_ (s.dev.now + 1 + Config.delay s.dev.fresh) 7]).tick)

/-! ## The checkpoint (R300) -/

/-- What a context's shadow holds once the copy is complete. -/
def State.shadowOf (s : State) (p sl : Nat) (sh : Shadow) : Shadow :=
  let x := s.ctx p sl
  let k := s.wsKey p sl 0
  { sh with
    image := s.bytesAt k 4608, tags := (List.range 576).map fun i => s.tagOf (k / 8 + i)
    pc := x.pc, mode := x.mode, stallcnt := x.stallcnt, srseed := x.srseed, status := x.status, lcnt := x.lcnt
    lbeg := x.lbeg, lend := x.lend, xw := x.xw
    targets := (s.core p).tracks.filterMap fun t => if t.2.owner = sl then some (t.1, t.2.t) else none }
def Hold.isCopying : Hold → Bool
  | .copying => true
  | _ => false
/-- One cycle of the copy: 256 B through banks that nothing else needs; the last completes it. Arg: core, slot, cycles left;
activation. -/
def execCheckpoint (s : State) : Out :=
  let g := s.dev.arg
  let x := s.ctx g.a g.b
  s.occur <|
    match x.shadow with
    | none => s.keep
    | some sh =>
      if BitVec.ofNat 64 x.act.num ≠ g.words.getD 0 0 then s.keep
      else if s.takenBanks g.a ≠ 0 ∨ !x.pipe.isEmpty then s.again .checkpoint
      else if 1 < g.c then
        (s.keep.useBanks g.a 0xFFFF).sched (s.dev.now + 1) .checkpoint { g with c := g.c - 1 }
      else (s.keep.useBanks g.a 0xFFFF).ctx g.a g.b fun y =>
        { y with shadow := some (s.shadowOf g.a g.b sh), holds := y.holds.filter fun h => !h.isCopying }

/-! ## Queries (R192) -/

/-- SPECQ: the fill takes the barrier's value as it stands when it lands. -/
def execSpecq (d : Reg) (i : BitVec 8) (s : State) : Out :=
  s.issue { dst := s.dstW d } none <|
    let id := s.dev.fresh
    let c := s.fill s.keep (s.fillW d) 0
    .ok ((c.updFill id fun f => { f with probe := some (s.here, i.toNat) }).soon .fill { a := id })
def execSpecqSelf (d : Reg) (s : State) : Out :=
  s.issue { dst := s.dstW d } none
    (.ok (s.setW s.keep 1 d (BitVec.ofNat 64 (s.speculative.toNat * 2 ^ 63 + s.act.ts % 2 ^ 32))))
/-- The word that SPECQ fills. -/
def Barrier.word (b : Barrier) : Word := BitVec.ofNat 64 (b.epoch % 2 ^ 32 * 2 ^ 32 + b.parties % 65536 * 65536 + b.arrived % 65536)

end Sys2Proof.Machine
end

