-- ==== Sys2Proof/Machine/Crc.lean ====
section
/-!
DEFINITION. CRC-32C (R318).
-/

namespace Sys2Proof.Machine

/-- The Castagnoli polynomial, reflected: one bit, one byte, and a list of bytes. -/
def crcBit (c : Nat) : Nat := if c % 2 = 1 then (c / 2) ^^^ 0x82F63B78 else c / 2
def crcByte (c : Nat) (b : Byte) : Nat := (List.range 8).foldl (fun c _ => crcBit c) (c ^^^ b.toNat)
/-- All-ones initial value and final XOR. -/
def crc32c (bs : List Byte) : Nat := (bs.foldl crcByte 0xFFFFFFFF) ^^^ 0xFFFFFFFF
def crcWords (ws : List Word) : Nat := crc32c (ws.flatMap wordBytes)
/-- The words with 32 bits of word `i` from bit `lo` taken as zero. -/
def clear32 (ws : List Word) (i lo : Nat) : List Word :=
  ws.set i (BitVec.ofNat 64 ((ws.getD i 0).toNat - bits (ws.getD i 0) lo 32 * 2 ^ lo))
/-- The CRC field stands as the rest of the words asks. -/
def crcGood (ws : List Word) (i lo : Nat) : Bool := crcWords (clear32 ws i lo) == bits (ws.getD i 0) lo 32
/-- The words with their CRC field filled. -/
def crcFill (ws : List Word) (i lo : Nat) : List Word :=
  let z := clear32 ws i lo
  z.set i (z.getD i 0 + BitVec.ofNat 64 (crcWords z * 2 ^ lo))

end Sys2Proof.Machine
end

