-- ==== Sys2Proof/Machine/TaskOps.lean ====
section
/-!
DEFINITION. Tasks and graphs at the core (R193 to R196, R318).
-/

namespace Sys2Proof.Machine

/-! ## Blocks of local words (R145, R146) -/

/-- A block of `n` words at a local address, read by an instruction: the words it looks at, its bank, its trap and its data. -/
structure Block where
  trap : Option Trap
  words : List Nat
  wait : Option Wait
  data : List Word
  fwd : List (Option Byte)
def State.block (s : State) (regs : List Nat) (ea : Word) (n al : Nat) : Block :=
  let t := s.localTrap ea (8 * n) al false
  let go := s.reaches regs ea (8 * n) al false
  let e := ea.toNat
  let fwd := s.forwards .l e (8 * n)
  { trap := t, words := if go then s.readWords e (8 * n) fwd else []
    wait := if go then (match s.bankWait e (8 * n) with
      | some w => some w
      | none => if fwd.all Option.isSome then none else s.trackWait (nearKey s.here e) (8 * n)) else none
    data := (chunks 8 n (s.readBytes e (8 * n) fwd)).map bytesWord, fwd := fwd }

/-! ## TASK (R194, R318) -/

/-- The offset of the first bad word of a task block. -/
def taskBad (w0 w1 : Word) (ts : Nat) : Option Nat :=
  if bits w0 18 46 ≠ 0 ∨ bits w0 0 2 ≠ 0 then some 0
  else if bits w1 32 32 ≠ 0 ∨ bits w1 0 32 < ts then some 8 else none
/-- The 256-bit entry, with its CRC in word 1. -/
def State.taskEntry (s : State) (w : List Word) : List Word :=
  let sp := s.speculative
  let w0 := bits (w.getD 0 0) 0 18 + s.fsx.toNat * 2 ^ 18 + sp.toNat * 2 ^ 19 + (if sp then s.slot * 2 ^ 20 else 0) +
    s.myLogical * 2 ^ 24 + s.me.tenant * 2 ^ 39 + (if sp then s.my.bindCount.get 0 s.slot % 2 ^ 18 * 2 ^ 46 else 0)
  crcFill [BitVec.ofNat 64 w0, BitVec.ofNat 64 (bits (w.getD 1 0) 0 32), w.getD 2 0, w.getD 3 0] 1 32
def execTask (a b : Reg) (s : State) : Out :=
  let t := s.w a
  let regs := s.srcW a ++ s.srcW b
  let skew := decide ((s.w b).toNat % 8 ≠ 0)
  let blk := s.block regs (s.w b) 4 1
  s.issue { src := regs, mem := if s.harvest || skew then [] else blk.words }
    (if s.harvest || skew then none else match blk.wait with
      | some w => some w
      | none => s.noRoom 48) <|
    if s.harvest then .error s.notInHarvest
    else if skew then .error (s.trap 0x18D (s.w b) 0)
    else match blk.trap with
    | some t => .error t
    | none => match taskBad (blk.data.getD 0 0) (blk.data.getD 1 0) s.act.ts with
      | some o => .error (s.trap 0x18D (s.w b) (BitVec.ofNat 64 o))
      | none => match s.targetTrap t 0 with
        | some t => .error t
        | none => match s.overflow 48 with
          | some t => .error t
          | none => .ok (s.emit (s.readDone s.keep (s.w b).toNat 32 blk.fwd) (.task t.toNat (s.taskEntry blk.data)))

/-! ## TSNOW, GLAUNCH, GDONE (R195, R196) -/

def State.tsnow (s : State) (d : Reg) (v : Nat) : Out :=
  s.issue { dst := s.dstW d } none <|
    if s.harvest then .error s.notInHarvest else .ok (s.setW s.keep 1 d (BitVec.ofNat 64 v))
def execTsnow (d : Reg) (s : State) : Out := s.tsnow d s.act.ts
def execTsnowHz (d : Reg) (s : State) : Out := s.tsnow d s.my.horizon
/-- GLAUNCH hands the table to the graph engine of the die; what the engine rejects it fills POISON. -/
def execGlaunch (d a : Reg) (s : State) : Out :=
  s.issue { src := s.srcW a, dst := s.dstW d } (if s.harvest then none else s.specWait) <|
    if s.harvest then .error s.notInHarvest
    else
      let c := s.opened s.keep
      let fid := c.dev.fresh
      let c := s.fill c (s.fillW d) 1
      .ok (s.leave c (.glaunch (s.w a) fid))
def execGdone (a : Reg) (s : State) : Out :=
  let n := (s.w a).toNat
  s.issue { src := s.srcW a } (s.noRoom 16) <|
    if s.harvest then .error s.notInHarvest
    else if !s.graphLaunch s.here || decide (65536 ≤ n) then .error (s.trapHere 0x18E (s.w a))
    else match s.overflow 16 with
    | some t => .error t
    | none => .ok (s.emit s.keep (.gdone n))

end Sys2Proof.Machine
end

