-- ==== Sys2Proof/Machine/FabricOps.lean ====
section
/-!
DEFINITION. Remote invocation, group reads and harvest grants at the core (R197 to R200).
-/

namespace Sys2Proof.Machine

/-! ## INVOKE (R197) and GRPRD (R198) -/

/-- INVOKE at a completion level, with or without `.retry` (R197). (DEDUCED, log entry 33.) -/
def State.invoke (s : State) (d a b : Reg) (level : Nat) (retry : Bool) : Out :=
  let regs := s.srcW a ++ s.srcW b
  let skew := decide ((s.w b).toNat % 8 ≠ 0)
  let blk := s.block regs (s.w b) 3 1
  let w0 := blk.data.getD 0 0
  s.issue { src := regs, dst := s.dstW d, mem := if s.harvest || skew then [] else blk.words }
    (if s.harvest then none else match s.specWait with
      | some w => some w
      | none => if skew then none else blk.wait) <|
    if s.harvest then .error s.notInHarvest
    else if skew then .error (s.trap 0x1C2 (s.w b) 0)
    else match blk.trap with
    | some t => .error t
    | none =>
      if bits w0 10 54 ≠ 0 ∨ bits w0 8 2 = 3 then .error (s.trap 0x1C2 (s.w b) 0)
      else if 4096 ≤ (s.w a).toNat then .error (s.trapHere 0x1C3 (s.w a))
      else
        let c := s.opened (s.readDone s.keep (s.w b).toNat 24 blk.fwd)
        let fid := c.dev.fresh
        let c := s.fill c (s.fillW d) 1
        .ok (s.leave c (.invoke level (s.w a).toNat blk.data retry fid))
def execInvoke (d a b : Reg) (v : BitVec 2) (s : State) : Out := s.invoke d a b v.toNat false
def execInvokeRetry (d a b : Reg) (v : BitVec 2) (s : State) : Out := s.invoke d a b v.toNat true
def execGrprd (d a : Reg) (s : State) : Out :=
  s.issue { src := s.srcW a, dst := s.dstW d } none <|
    if s.harvest then .error s.notInHarvest
    else if bits (s.w a) 14 50 ≠ 0 then .error (s.trapHere 0x1C3 (s.w a))
    else
      let id := s.dev.fresh
      let c := s.fill s.keep (s.fillW d) 0
      .ok ((c.updFill id fun f => { f with probe := some (s.here, 256 + bits (s.w a) 0 14) }).soon .fill { a := id })

/-! ## HGRANT and HREVOKE (R199, R200) -/

/-- A range of a grant block: reserved bits, multiples of 256, inside near SRAM, clear of the workspaces. -/
def grantBad (w : Word) (wpbase : Nat) : Bool :=
  let len := bits w 32 18
  let base := bits w 0 18
  decide (bits w 50 14 ≠ 0) || decide (bits w 18 14 ≠ 0) || decide (len % 256 ≠ 0) || decide (base % 256 ≠ 0) ||
    decide (0x40000 < base + len) || overlaps base len wpbase 0xD800
/-- The offset of the first bad word of a grant block. -/
def State.grantFault (s : State) (w : List Word) : Option Nat :=
  let t := w.getD 2 0
  if grantBad (w.getD 0 0) s.my.wpbase then some 0
  else if grantBad (w.getD 1 0) s.my.wpbase then some 8
  else if decide (bits t 32 32 ≠ 0) || ((List.range 32).any fun n => t.getLsbD n && decide ((s.track s.here n).owner ≠ 15)) ||
      (decide (bits t 30 2 ≠ 0) && s.opCtx.mode.getLsbD 3) then some 16
  else if bits (w.getD 3 0) 1 63 ≠ 0 then some 24 else none
/-- Sluice has reached stage 2: grants are revoked and none takes effect (R427). -/
def State.noGrants (s : State) : Bool := decide (2 ≤ s.dev.power.actions)
/-- A grant takes effect: a free harvest slot may take work from the next cycle. (DEDUCED, log entry 39.) -/
def Change.grant (c : Change) (p : Nat) (g : Grant) : Change :=
  (c.core p fun k => { k with grant := some g, nextGrant := none }).sched (c.dev.now + 1) .harvestBinding { a := p }
def execHgrant (a : Reg) (s : State) : Out :=
  let blk := s.block (s.srcW a) (s.w a) 4 8
  s.issue { src := s.srcW a, mem := if s.slot = 0 then blk.words else [] }
    (match s.specWait with
      | some w => some w
      | none => if s.slot = 0 then blk.wait else none) <|
    if s.slot ≠ 0 then .error s.wrongContext
    else match blk.trap with
    | some t => .error t
    | none => match s.grantFault blk.data with
      | some o => .error (s.trap 0x18F (s.w a) (BitVec.ofNat 64 o))
      | none =>
        let w (i : Nat) : Word := blk.data.getD i 0
        let g : Grant := { base0 := bits (w 0) 0 18, len0 := bits (w 0) 32 18, base1 := bits (w 1) 0 18, len1 := bits (w 1) 32 18
                           tmask := bits (w 2) 0 32, issue := bits (w 3) 0 1 }
        let c := s.readDone s.keep (s.w a).toNat 32 blk.fwd
        .ok (if s.noGrants then c.revoke s.here
          else if s.my.grant.isSome then (c.revoke s.here).mine fun k => { k with nextGrant := some g }
          else c.grant s.here g)
/-- HREVOKE holds the context until the revocation has completed: cycle 11 of its timeline (R377); a grant that
was to follow takes no effect. -/
def execHrevoke (s : State) : Out :=
  s.issue {} none <|
    if s.harvest then .error s.notInHarvest
    else if s.my.grant.isNone then .ok s.keep
    else if s.my.revoking then
      .ok (((s.keep.revoke s.here).mine fun k => { k with nextGrant := none }).hold [.until_ (min s.my.revokeAt s.dev.now + 12) 1])
    else .ok ((s.keep.revoke s.here).hold [.until_ (s.dev.now + 12) 1])

end Sys2Proof.Machine
end

