-- ==== Sys2Proof/Machine/CopyOps.lean ====
section
/-!
DEFINITION. Copy instructions at the core: the shadow registers, the XGO launch, waiting for a copy and cancelling one (R186 to
R188, R332, R333, R336, R344).
-/

namespace Sys2Proof.Machine

/-! ## The layout record (R332) -/

def recW (w : List Word) (i : Nat) : Word := w.getD i 0
/-- Counts minus 1, extents, and strides of the six dimensions. -/
def recN (w : List Word) (d : Nat) : Nat := if d < 4 then bits (recW w 2) (16 * d) 16 else bits (recW w 3) (16 * (d - 4)) 16
def recE (w : List Word) (d : Nat) : Nat := if d < 3 then bits (recW w 10) (16 * d) 16 else 65536
def stride (w : Word) (hi : Bool) : Int := (BitVec.ofNat 32 (bits w (if hi then 32 else 0) 32)).toInt
def recSS (w : List Word) (d : Nat) : Int := stride (recW w (4 + d / 2)) (decide (d % 2 = 1))
def recDS (w : List Word) (d : Nat) : Int := stride (recW w (7 + d / 2)) (decide (d % 2 = 1))
def recFillen (w : List Word) : Bool := (recW w 3).getLsbD 44
def recBil (w : List Word) : Nat := bits (recW w 3) 40 4
def modeOf (n : Nat) : AddrMode := match n with | 0 => .l | 1 => .cd | 2 => .ci | _ => .g
def recDmode (w : List Word) : AddrMode := modeOf (bits (recW w 3) 38 2)
def recSmode (w : List Word) : AddrMode := modeOf (bits (recW w 3) 36 2)
def recEsz (w : List Word) : Nat := bits (recW w 3) 32 4
/-- The element size in bytes; a reserved ESZ names none, and the checks of the other words take 1. (DEDUCED, log entry 114.) -/
def recSize (w : List Word) : Nat := if recEsz w ≤ 3 then 2 ^ recEsz w else 1
def recLock (w : List Word) : Bool := (recW w 11).getLsbD 34
def recPri (w : List Word) : Nat := bits (recW w 11) 32 2
def recHaddr (w : List Word) : Nat := bits (recW w 11) 0 32
/-- Number of elements. -/
def recTotal (w : List Word) : Nat := (List.range 6).foldl (fun n d => n * (recN w d + 1)) 1
/-- The index of dimension `d` of the element with linear index `n` (R334). -/
def recIdx (w : List Word) (n d : Nat) : Nat :=
  n / (List.range d).foldl (fun m k => m * (recN w k + 1)) 1 % (recN w d + 1)
/-- The element is filled and its source is not read. -/
def recFilled (w : List Word) (n : Nat) : Bool := recFillen w && (List.range 3).any fun d => decide (recE w d ≤ recIdx w n d)
def sum6 (w : List Word) (n : Nat) (f : Nat → Int) : Int := (List.range 6).foldl (fun t d => t + recIdx w n d * f d) 0
def recSrc (w : List Word) (n : Nat) : Nat := (BitVec.ofInt 64 ((recW w 0).toNat + sum6 w n (recSS w))).toNat
/-- Interleave(d) of R335, for destinations in near SRAM. -/
def interleave (w : List Word) (a : Nat) : Nat :=
  let k := recBil w
  let near := (recDmode w = .l ∧ a < 0x40000) ∨ (recDmode w = .cd ∧ a / 8388608 ≤ 191)
  if k = 0 ∨ ¬ near then a else a - a / 16 % 16 * 16 + ((a / 16 % 16) ^^^ (a / 2 ^ (8 + k) % 16)) * 16
def recDst (w : List Word) (n : Nat) : Nat := interleave w (BitVec.ofInt 64 ((recW w 1).toNat + sum6 w n (recDS w))).toNat
/-- The bounding byte range of an affine side, whose counts are given: its first byte, modulo 2^64, and length (R336). -/
def affine (base : Nat) (size : Nat) (n : Nat → Nat) (f : Nat → Int) : Nat × Nat :=
  let lo := (List.range 6).foldl (fun t d => t + min 0 (n d * f d)) (base : Int)
  let hi := (List.range 6).foldl (fun t d => t + max 0 (n d * f d)) (base : Int)
  ((BitVec.ofInt 64 lo).toNat, (hi - lo).toNat + size)
/-- The source range: filled elements do not widen it, and it is empty where none is read. -/
def srcRange (w : List Word) : Nat × Nat :=
  if recFillen w && (List.range 3).any fun d => recE w d == 0 then (0, 0)
  else affine (recW w 0).toNat (recSize w) (fun d => if recFillen w then min (recN w d) (recE w d - 1) else recN w d) (recSS w)
/-- The destination range, after interleave, which moves no byte out of its 256. -/
def dstRange (w : List Word) : Nat × Nat :=
  let r := affine (recW w 1).toNat (recSize w) (recN w) (recDS w)
  if recBil w = 0 then r
  else
    let from_ := r.1 / 256 * 256
    let as := (List.range (recTotal w)).map fun n => (recDst w n + 2 ^ 64 - from_) % 2 ^ 64
    let lo := as.foldl min (as.headD 0)
    ((from_ + lo) % 2 ^ 64, as.foldl max lo - lo + recSize w)
/-- Two byte ranges meet, where the first may pass the end of the 64-bit address space. -/
def wrapOverlaps (a n b m : Nat) : Bool := overlaps a n b m || overlaps a n (2 ^ 64 + b) m
/-- The track whose view a local range lies in; a range in the view that no one track holds is refused. -/
def viewTrack (md : AddrMode) (r : Nat × Nat) : Except Unit (Option Nat) :=
  if md = .l ∧ 0 < r.2 ∧ wrapOverlaps r.1 r.2 0x40000 0x200000 then
    (if 0x40000 ≤ r.1 ∧ r.1 + r.2 ≤ 0x240000 ∧ (r.1 - 0x40000) / 65536 = (r.1 + r.2 - 1 - 0x40000) / 65536 then
      .ok (some ((r.1 - 0x40000) / 65536))
    else .error ())
  else .ok none

/-! ## The checks of XGO (R187) -/

/-- 0x148: the lowest word with a nonzero reserved field, and its lowest set reserved bit. -/
def lowBit (w : Word) (lo n : Nat) : Option Nat := ((List.range n).map (lo + ·)).find? fun i => w.getLsbD i
def reservedBad (w : List Word) : Option (Nat × Nat) :=
  match lowBit (recW w 3) 45 19 with
  | some b => some (3, b)
  | none => (lowBit (recW w 11) 35 29).map fun b => (11, b)
/-- 0x149: the lowest word that holds a failing value. -/
def valueBad (w : List Word) : Option Nat :=
  let s := recSize w
  let odd (x : Int) : Bool := decide (x % (s : Int) ≠ 0)
  let bad (i : Nat) : Bool :=
    if i = 0 then odd (recW w 0).toNat || (match viewTrack (recSmode w) (srcRange w) with | .error _ => true | _ => false)
    else if i = 1 then odd (recW w 1).toNat || (match viewTrack (recDmode w) (dstRange w) with | .error _ => true | _ => false)
    else if i = 3 then decide (3 < recEsz w) || decide (4 < recBil w)
    else if 4 ≤ i ∧ i ≤ 9 then odd (stride (recW w i) false) || odd (stride (recW w i) true)
    else if i = 11 then decide (recHaddr w % 4 ≠ 0) || decide (0x40000 ≤ recHaddr w)
    else false
  (List.range 12).find? bad
/-- Tracks in view: source first. -/
def viewTracks (w : List Word) : List Nat :=
  let one (md : AddrMode) (r : Nat × Nat) : List Nat := match viewTrack md r with
    | .ok (some t) => [t]
    | _ => []
  one (recSmode w) (srcRange w) ++ one (recDmode w) (dstRange w)

/-- The core's outstanding transfer IDs (R344). -/
def State.outstanding (s : State) (p : Nat) : List Nat :=
  let ofHeld (h : Held) : Option Nat := match h.eff with
    | .copy _ id => some id
    | _ => none
  (s.core p).hold.filterMap ofHeld ++ (s.core p).relq.filterMap ofHeld ++
    (s.dev.flights.filterMap fun f => if f.2.org.core == p then (match f.2.cargo with
      | .effect (.copy _ id) => some id
      | _ => none) else none) ++
    s.dev.copies.filterMap fun c => if c.2.core == p then some c.2.xid else none
/-- The next transfer ID at or after one, skipping those outstanding. -/
def nextId (out : List Nat) : Nat → Nat → Nat
  | 0, n => n
  | k + 1, n => if out.contains n then nextId out k (if n = 65535 then 1 else n + 1) else n
/-- The shadow registers as one snapshot. -/
def State.snapshot (s : State) : List Word := (List.range 12).map fun i => s.me.xw.get 0 i
def execXgo (d : Reg) (s : State) : Out :=
  let w := s.snapshot
  let out := s.outstanding s.here
  s.issue { dst := s.dstW d }
    (if s.harvest then none else if 256 ≤ out.length then some .engine else s.noRoom 112) <|
    if s.harvest then .error s.engineInHarvest
    else match reservedBad w with
    | some (i, b) => .error (s.trapHere 0x148 (BitVec.ofNat 64 (i * 256 + b)))
    | none => match valueBad w with
      | some i => .error (s.trapHere 0x149 (BitVec.ofNat 64 (i * 256)))
      | none => match (viewTracks w).find? fun t => !s.owns (BitVec.ofNat 5 t) with
        | some t => .error (s.ownTrap (BitVec.ofNat 5 t))
        | none => match s.overflow 112 with
          | some t => .error t
          | none =>
            let id := nextId out 257 s.my.nextXfer
            let c := s.keep.mine fun k => { k with
              nextXfer := if id = 65535 then 1 else id + 1, xstatus := k.xstatus.filter fun e => e.1 != id }
            .ok (s.setW (s.emit c (.copy w id)) 3 d (BitVec.ofNat 64 id))

/-! ## XLD and XST (R186) -/

/-- XLD (R186): the record is read at issue, and the context issues again three cycles later. (DEDUCED, log entry 32.) -/
def execXld (a : Reg) (s : State) : Out :=
  let blk := s.block (s.srcW a) (s.w a) 12 8
  s.issue { src := s.srcW a, mem := blk.words } blk.wait <|
    match blk.trap with
    | some t => .error t
    | none =>
      .ok (((s.readDone s.keep (s.w a).toNat 96 blk.fwd).me fun x =>
        { x with xw := blk.data.zipIdx.map fun e => (e.2, e.1) }).hold [.until_ (s.dev.now + 3) 1])
def execXst (a : Reg) (s : State) : Out := s.localStore (s.srcW a) (s.w a) 96 8 (s.snapshot.flatMap wordBytes)

/-! ## XWAIT and XCAN (R188) -/

/-- The ID names a copy that has not ended. -/
def State.copyPending (s : State) (p id : Nat) : Bool :=
  (s.outstanding p).contains id && !((s.core p).xstatus.any fun e => e.1 == id)
def execXwait (d a : Reg) (s : State) : Out :=
  let id := (s.w a).toNat
  s.issue { src := s.srcW a, dst := s.dstW d } none <|
    if s.copyPending s.here id then
      let fid := s.dev.fresh
      .ok ((s.fill s.keep (s.fillW d) 1).updFill fid fun f => { f with xid := some id })
    else
      let st := match s.my.xstatus.find? fun e => e.1 == id with
        | some e => e.2.2
        | none => 3
      .ok (s.fillAt s.keep (s.fillW d) s.dev.now st)
/-- The engine of a core: four to a cluster, 48 cores to an engine (R339). -/
def State.engineOf (s : State) (p : Nat) : Nat := physCluster p * 4 + indexOf ((s.logical p).getD 0) / 48
/-- Every element of a copy is performed. -/
def Copy.complete (k : Copy) : Bool := k.started && decide (recTotal k.words ≤ k.done + k.restart)
/-- XCAN acts at once: a held copy is removed; a released one stops in the next cycle and completes with OUT = 1; one whose elements are all performed
has ended and is left alone (R188, R343). -/
def execXcan (a : Reg) (s : State) : Out :=
  let id := (s.w a).toNat
  let mine (h : Held) : Bool := match h.eff with
    | .copy _ n => n == id
    | _ => false
  s.issue { src := s.srcW a } s.specWait <|
    if s.my.hold.any mine then
      .ok ((s.keep.mine fun k => { k with hold := k.hold.filter fun h => !mine h }).copyEnds s.here id 1)
    else
      let stop (o : Origin) (w : List Word) (c : Change) : Change :=
        let n := c.dev.fresh
        let k : Copy := { org := o, core := s.here, xid := id, words := w, engine := s.engineOf s.here, cancelled := true }
        (c.tick.dv fun d => { d with copies := d.copies.set n k }).sched (s.dev.now + 1) .copyCompletion { a := n, b := 1 }
      match s.my.relq.find? mine with
      | some h => .ok (stop h.org (match h.eff with | .copy w _ => w | _ => [])
          (s.keep.mine fun k => { k with relq := k.relq.filter fun h => !mine h }))
      | none =>
        match s.dev.flights.find? fun f => f.2.org.core == s.here && (match f.2.cargo with
            | .effect (.copy _ n) => n == id
            | _ => false) with
        | some f => .ok (stop f.2.org (match f.2.cargo with | .effect (.copy w _) => w | _ => []) (s.keep.landed f.1))
        | none =>
          match s.dev.copies.find? fun c => c.2.core == s.here && c.2.xid == id && !c.2.accepted && !c.2.complete with
          | some c => .ok ((s.keep.dv fun d => { d with copies := d.copies.set c.1 { c.2 with cancelled := true } }).sched
              (s.dev.now + 1) .copyCompletion { a := c.1, b := 1 })
          | none => .ok s.keep

end Sys2Proof.Machine
end

