-- ==== Sys2Proof/Machine/Speculation.lean ====
section
/-!
DEFINITION. Abort, cancellation, the commit horizon and commit (R300 to R316, R321, R322), and the reports of effects that fail
after release (R408).
-/

namespace Sys2Proof.Machine

/-! ## Reports of failed effects (R408) -/

/-- The home sends a report to the releasing core. -/
def Change.fail (c : Change) (o : Origin) (sub : Nat) (addr : Word) : Change :=
  c.soon .impreciseEffectFault { a := o.core, b := sub, c := o.slot + o.chan * 16 + o.rep.toNat * 1024 +
                                   (o.harvest && decide (o.tenant = 0)).toNat * 2048
                                 words := [addr, BitVec.ofNat 64 o.entry, o.report] }

/-! ## Workspace images -/

/-- Put back a workspace with its tags. -/
def Change.putImage (c : Change) (k : Nat) (img : List Byte) (tags : List Tag) : Change :=
  { c with ops := c.ops ++ (StoreOp.bytes k img :: tags.zipIdx.map fun t => StoreOp.tag (k / 8 + t.2) t.1) }

/-! ## Tags of tasks (R318, R322) -/

/-- The speculation tag of a slot's present activation. -/
def State.tagAt (s : State) (p sl : Nat) : Nat := tagNum ((s.logical p).getD 0) sl ((s.core p).bindCount.get 0 sl)
/-- The flight is a task entry. -/
def Flight.isTask (f : Flight) : Bool := match f.cargo with
  | .effect (.task ..) => true
  | _ => false
def Held.isTask (h : Held) : Bool := match h.eff with
  | .task .. => true
  | _ => false
/-- The cores that entries of a tag have been sent to: on their way, queued, or bound. -/
def State.tagHolders (s : State) (tag : Nat) : List Nat :=
  ((s.dev.flights.filterMap fun f => if f.2.org.tag = tag ∧ f.2.isTask then (match f.2.place with
      | .chan q => some q
      | _ => none) else none) ++
    s.dev.cores.filterMap fun c =>
      if (c.2.tasks.any fun m => m.org.tag == tag) || (c.2.ctxs.any fun x => x.2.live && x.2.act.parent == tag) then some c.1
      else none).eraseDups
/-- Send a notice for a tag to each core that received its entries, behind them on the same path. -/
def State.tellTag (s : State) (c : Change) (p tag : Nat) (release : Bool) : Change :=
  (s.tagHolders tag).foldl (fun c q =>
    let id := c.dev.fresh
    (c.dv fun d => { d with tagNotices := d.tagNotices.set id (p, q, tag, release, id) }).soon
      (if release then .releaseNotice else .cancelNotice) { a := id }) c

/-! ## Abort (R306) -/

/-- Reads of an activation that are still under way are not tracked any more (R304, R306). -/
def Change.untracked (c : Change) (p act : Nat) : Change :=
  (c.dv fun d => { d with
    flights := d.flights.map fun f => if f.2.org.core = p ∧ f.2.org.act = act then (f.1, { f.2 with tracked := false }) else f }).core p
    fun k => { k with strided := k.strided.map fun t => if t.org.act = act then { t with tracked := false } else t }
/-- Held effects after the checkpoint are dropped, pending fills will be discarded, tracked reads are removed, and the
dependants are cancelled: tagged tasks that have not left their core yet are dropped there. -/
def State.unwind (s : State) (c : Change) (p sl : Nat) : Change :=
  let act := (s.ctx p sl).act.num
  let c := c.dropHeld p fun h => h.org.act == act && h.after
  let c := c.dv fun d => { d with
    tracker := untrack d.tracker p sl act
    fills := d.fills.map fun f => if f.2.core = p ∧ f.2.slot = sl then (f.1, { f.2 with dst := none, dropped := true }) else f }
  let c := (c.untracked p act).core p fun k => { k with relq := k.relq.filter fun h => !(h.isTask && h.org.act == act && h.org.tag == s.tagAt p sl) }
  (s.tellTag c p (s.tagAt p sl) false).count p 23
/-- The workspace, its tags, the control registers and the track targets go back to the checkpoint. -/
def State.rewind (s : State) (c : Change) (p sl : Nat) (sh : Shadow) : Change :=
  let c := if sh.image.isEmpty then c else c.putImage (s.wsKey p sl 0) sh.image sh.tags
  let c := sh.targets.foldl (fun c t => if (s.track p t.1).t = t.2 then c else c.seek p t.1 t.2) c
  if sh.image.isEmpty then c
  else c.ctx p sl fun x => { x with
    pc := sh.pc, mode := sh.mode, stallcnt := sh.stallcnt, srseed := sh.srseed, status := sh.status, lcnt := sh.lcnt
    lbeg := sh.lbeg, lend := sh.lend, xw := sh.xw }
/-- Abort the activation in a slot; a speculative one runs again from its checkpoint unless its own entry was cancelled, and one that has
not run ahead ends with its entry's cancellation. (DEDUCED, log entry 128.) -/
def State.abortAct (s : State) (c : Change) (p sl : Nat) (again : Bool) : Change :=
  match (s.ctx p sl).shadow with
  | none => if again then c else c.quit p sl
  | some sh =>
    let act := (s.ctx p sl).act.num
    let c := s.rewind (s.unwind c p sl) p sl sh
    if again then
      c.ctx p sl fun x => { x with
        pipe := [], holds := if sh.image.isEmpty then x.holds else [.until_ (s.dev.now + 18) 6], next := none
        yieldUntil := 0, specTrap := false, outcome := none, joining := none
        act := { x.act with ended := false } }
    else
      ((c.clu (physCluster p) fun k => { k with commits := k.commits.filter fun e => !(e.core == p && e.act == act) }).ctx p sl
        fun x => { x with pipe := [] }).quit p sl

/-- An abort notice reaches the reader's core. Arg: notice. -/
def execAbort (s : State) : Out :=
  let id := s.dev.arg.a
  s.occur <| match s.dev.notices.find id with
  | none => s.keep
  | some n =>
    let c := s.keep.dv fun d => { d with notices := d.notices.drop id }
    let x := s.ctx n.core n.slot
    if x.live && x.act.num == n.act then s.abortAct c n.core n.slot true else c

/-! ## Cancel and release notices (R322) -/

/-- Entries of the tag on this notice's path that left before it, or a notice that did, are still on their way. -/
def State.tagBehind (s : State) (p q tag order : Nat) : Bool :=
  (s.dev.tagNotices.any fun n => decide (n.1 < order) && n.2.1 == p && n.2.2.1 == q && n.2.2.2.1 == tag) ||
  s.dev.flights.any fun f => decide (f.1 < order) && f.2.isTask && f.2.org.core == p && f.2.org.tag == tag && f.2.place == .chan q
def execCancelNotice (s : State) : Out :=
  let id := s.dev.arg.a
  s.occur <| match s.dev.tagNotices.find id with
  | none => s.keep
  | some (p, q, tag, _, order) =>
    if s.tagBehind p q tag order then s.again .cancelNotice
    else
      let c := (s.keep.dv fun d => { d with tagNotices := d.tagNotices.drop id }).core q fun k =>
        { k with tasks := k.tasks.filter fun m => m.org.tag != tag }
      (s.core q).ctxs.foldl (fun c x =>
        if x.2.live && x.2.act.parent == tag then s.abortAct c q x.1 false else c) c
def execReleaseNotice (s : State) : Out :=
  let id := s.dev.arg.a
  s.occur <| match s.dev.tagNotices.find id with
  | none => s.keep
  | some (p, q, tag, _, order) =>
    if s.tagBehind p q tag order then s.again .releaseNotice
    else
      (s.keep.dv fun d => { d with tagNotices := d.tagNotices.drop id }).core q fun k => { k with
        tasks := k.tasks.map fun m => if m.org.tag = tag then { m with org := { m.org with tag := 0 } } else m
        ctxs := k.ctxs.map fun x => if x.2.act.parent = tag then (x.1, { x.2 with act := { x.2.act with parent := 0 } }) else x }

/-! ## The horizon (R308, R309) -/

/-- The timestamp at which a message's effect counts: a task entry's own, else its sender's. -/
def effectTs (o : Origin) : Effect → Nat
  | .task _ ws => bits (ws.getD 1 0) 0 32
  | _ => o.ts
/-- What a live activation counts as: past its barrier in BARW, at the joined activation's in JOIN. -/
def ctxCount (k : Core) (x : Ctx) : Nat :=
  match x.holds.findSome? fun h => match h with
    | .barrier _ e => some e
    | _ => none with
  | some e => e + 1
  | none => match x.joining with
    | some sl => (k.ctx sl).act.ts
    | none => x.act.ts
/-- The timestamps that count on a core. -/
def Core.counts (k : Core) (dom : Nat) : List Nat :=
  (k.ctxs.filterMap fun x => if x.2.live && x.2.act.dom == dom then some (ctxCount k x.2) else none) ++
  (k.hold.filterMap fun h => if h.org.dom = dom ∧ h.eff.isMessage then some (effectTs h.org h.eff) else none) ++
  (k.relq.filterMap fun h => if h.org.dom = dom then some (effectTs h.org h.eff) else none) ++
  (k.tasks.filterMap fun m => if m.org.dom = dom then some m.org.ts else none) ++
  (k.chans.flatMap fun ch => ch.2.filterMap fun m => if m.org.dom = dom then some m.org.ts else none)
/-- Every timestamp that counts in a domain, those of saved launches among them. -/
def State.counts (s : State) (dom : Nat) : List Nat :=
  (s.dev.cores.flatMap fun c => c.2.counts dom) ++ (s.dev.saves.flatMap fun v => v.2.cores.flatMap fun c => c.2.counts dom) ++
  (s.dev.saves.flatMap fun v => v.2.copies.filterMap fun k => if k.2.org.dom = dom ∧ !k.2.accepted then some k.2.org.ts else none) ++
  (s.dev.flights.filterMap fun f => match f.2.cargo with
    | .effect e => if f.2.org.dom = dom then some (if f.2.miss then min (effectTs f.2.org e) f.2.org.markTs else effectTs f.2.org e) else none
    | _ => none) ++
  (s.dev.copies.filterMap fun k => if k.2.org.dom = dom ∧ !k.2.accepted then some k.2.org.ts else none) ++
  ((s.dev.arrays ++ s.dev.regrants ++ s.dev.saves.flatMap fun v => v.2.arrays).flatMap fun a => (a.2.running.toList ++ a.2.q0).filterMap fun x =>
    if x.dom = dom then some x.ts else none) ++
  (s.dev.breads.filterMap fun b => if b.2.org.dom = dom ∧ b.2.chan ≠ 64 then some b.2.org.ts else none) ++
  (s.dev.notices.filterMap fun n => if n.2.writer.dom = dom then some n.2.writer.ts else none) ++
  (s.dev.launches.filterMap fun l =>
    if l.2.dom = dom ∧ l.2.woken.length < (s.coresOf l.2).length then some l.2.ts else none) ++
  (s.dev.agenda.filterMap fun e =>
    if e.ev = .scopeMiss ∧ e.arg.c = dom then some e.arg.b
    else if e.ev = .launchRecord ∧ e.arg.a = 2 ∧ 4 * e.arg.b + 1 = dom then some (e.arg.words.getD 9 0).toNat
    else if e.ev = .nodeDone ∧ e.arg.words.length = 2 ∧ 4 * e.arg.a + 1 = dom then some (e.arg.words.getD 1 0).toNat else none)
def State.horizonOf (s : State) (dom : Nat) : Nat := (s.counts dom).foldl min (2 ^ 32 - 1)
/-- A slice is at work already: it has its next turn on the agenda (R312). -/
def State.committing (s : State) (clu : Nat) : Bool := s.dev.agenda.any fun e => decide (e.ev = .commit) && e.arg.a == clu
/-- A round: the value computed in the round before reaches every core of the domain, and the new one is computed. Then the
slices that are not at work look at their heads. Arg: domain. -/
def execCommitHorizon (s : State) : Out :=
  let dom := s.dev.arg.a
  let old := s.dev.horizons.get 0 dom
  let mine (k : Core) : Bool := match k.launch with
    | some n => (match s.launch? n with
      | some l => l.dom == dom
      | none => false)
    | none => false
  let clus := ((s.dev.cores.filter fun k => mine k.2).map fun k => physCluster k.1).eraseDups
  let gone (r : Reader) : Bool := match r with
    | .cluster _ d _ hi => d == dom && decide (hi < old)
    | .domain d _ hi => d == dom && decide (hi < old)
    | _ => false
  let c := s.keep.dv fun d => { d with
    horizons := d.horizons.set dom (max old (s.horizonOf dom))
    cores := d.cores.map fun k => if mine k.2 then (k.1, { k.2 with horizon := max k.2.horizon old }) else k
    tracker := (d.tracker.map fun e => (e.1, e.2.filter fun r => !gone r)).filter fun e => !e.2.isEmpty }
  s.occur (clus.foldl (fun c n => if (s.clu n).commits.isEmpty || s.committing n then c else c.sched (s.dev.now + 1) .commit { a := n }) c)

/-! ## Commit (R311, R312) -/

/-- The head of a slice: by timestamp, logical core and slot. -/
def CommitEntry.before (a b : CommitEntry) : Bool :=
  decide (a.ts < b.ts) || (a.ts == b.ts && (decide (a.logical < b.logical) || (a.logical == b.logical && decide (a.slot < b.slot))))
def headEntry : List CommitEntry → Option CommitEntry
  | [] => none
  | e :: l => match headEntry l with
    | none => some e
    | some x => some (if x.before e then x else e)
/-- The entry that a slice works on: the one whose commit is under way, else its head. -/
def Cluster.next (k : Cluster) : Option CommitEntry :=
  match k.commits.find? fun e => e.busy with
  | some e => some e
  | none => headEntry k.commits
def CommitEntry.same (a b : CommitEntry) : Bool := a.core == b.core && a.act == b.act
def Hold.isCommit : Hold → Bool
  | .commit => true
  | _ => false
/-- A local write that commit performs: its key, its bytes, and the words it covers only in part. -/
def State.heldWrite (s : State) (p : Nat) : Effect → Option (Nat × List Byte)
  | .localStore ea bs => some (nearKey p ea, bs)
  | .trackWrite t q bs => some (trackKey p t q 0, bs)
  | _ => none
/-- The cause that a partial write of a key range meets: an uncorrectable word's, a POISON word's or the reserved tag's (R149, R402). -/
def State.partialCause (s : State) (k n : Nat) : Option Nat :=
  ((List.range ((k + n + 7) / 8 - k / 8)).map (k / 8 + ·)).findSome? fun w =>
    if k ≤ w * 8 ∧ w * 8 + 8 ≤ k + n then none
    else if s.sramBad w then some 0x0A2
    else match s.tagOf w with
    | .poison => some ((s.wordAt (w * 8)).toNat % 512)
    | .res => some 0x0A1
    | _ => none
/-- A held local write waits in its turn: for its banks, as any access of the core (R255, R256), and for an earlier local read of its
activation that has still to take the bytes (R268). -/
def State.commitWaits (s : State) (p act : Nat) : Effect → Bool
  | .localStore ea bs => bankBits ea bs.length &&& s.takenBanks p != 0 ||
      ((s.core p).strided.any fun t => t.org.act == act && t.elems.any fun e => overlaps e.off t.size ea bs.length) ||
      s.dev.flights.any fun f => f.2.org.core == p && f.2.org.act == act && f.2.path == 0 && match f.2.place with
        | .near q o => q == p && overlaps o f.2.cargo.size ea bs.length
        | _ => false
  | _ => false
/-- Step 3: the activation is speculative no more; one that has ended releases what it holds and frees its slot, and an open one
releases what it holds. What it has still to send carries no tag. An error that was held until now is handled (R315). -/
def State.committed (s : State) (c : Change) (e : CommitEntry) : Change :=
  let p := e.core
  let sl := e.slot
  let x := s.ctx p sl
  let c := c.clu (physCluster p) fun k => { k with commits := k.commits.filter fun y => !y.same e }
  let c := (c.dv fun d => { d with tracker := untrack d.tracker p sl e.act }).count p 24
  let c := s.tellTag c p (s.tagAt p sl) true
  let plain (h : Held) : Held := if h.org.act = e.act then { h with after := false, org := { h.org with tag := 0 } } else h
  let c := c.core p fun k => { k with hold := k.hold.map plain, relq := k.relq.map plain }
  let c := c.ctx p sl fun x => { x with shadow := none, specTrap := false, holds := x.holds.filter fun h => !h.isCommit }
  if x.act.ended then (c.endAct p sl).ctx p sl fun x => { x with freeAt := s.dev.now }
  else
    let c := if x.act.open_ then (c.releaseHeld p x.act fun h => h.org.act == e.act).pump p else c
    if x.act.error.isSome then (c.ctx p sl fun x => { x with trapped := true }).sched s.dev.now .trapDelivery { a := p, b := 1, c := sl }
    else c
/-- One cycle of a slice: the head starts when the horizon admits it, and its reads are tracked no more (R304); then one held local write
a cycle. The slice of a gated cluster stands still (R427). Arg: cluster. -/
def execCommit (s : State) : Out :=
  let clu := s.dev.arg.a
  s.occur <| match (s.clu clu).next with
  | none => s.keep
  | some e =>
    let p := e.core
    let x := s.ctx p e.slot
    if (s.clu clu).gated then s.again .commit else
    let ready := !(s.core p).frozen && decide (e.ts ≤ (s.core p).horizon) && x.act.parent == 0 && !(x.holds.any Hold.isCopying) && x.pipe.isEmpty &&
      !(s.dev.notices.any fun n => n.2.core == p && n.2.act == e.act)
    if !e.busy && !ready then s.keep
    else
      let c := if e.busy then s.keep
        else ((s.keep.clu clu fun k => { k with commits := k.commits.map fun y => if y.same e then { y with busy := true } else y }).ctx
          p e.slot fun x => { x with holds := x.holds ++ [.commit] }).untracked p e.act
      let pick (h : Held) : Bool := h.org.act == e.act && h.after && (s.heldWrite p h.eff).isSome
      match (s.core p).hold.find? pick with
      | some h =>
        match s.heldWrite p h.eff with
        | none => c
        | some (k, bs) =>
          if s.commitWaits p e.act h.eff then c.sched (s.dev.now + 1) .commit { a := clu }
          else
          let c := match h.eff with
            | .localStore ea _ => c.useBanks p (bankBits ea bs.length) (decide (bs.length = 256 ∧ ea % 256 ≠ 0))
            | _ => c
          let c := c.core p fun q => { q with hold := q.hold.erase h }
          let c := match s.partialCause k bs.length with
            | some sub => c.fail h.org sub (match h.eff with
              | .localStore ea _ => BitVec.ofNat 64 ea
              | _ => localAddr k)
            | none =>
              let o : Origin := { h.org with ts := e.ts }
              let c := match h.eff with
                | .localStore ea _ => s.nearWrite (s.rememberAt (s.fixWords c (partialWords k bs.length)) p ea bs.length) p ea bs
                | .trackWrite t q _ => (s.trackTouched c p t q).write k bs
                | _ => c
              if (c.dev.victims k bs.length (some (o.dom, o.ts))).isEmpty then c
              else (c.conflict o true k bs.length).ctx p e.slot fun x => { x with holds := x.holds ++ [Hold.notices] }
          c.sched (s.dev.now + 1) .commit { a := clu }
      | none => (s.committed c e).sched (s.dev.now + 1) .commit { a := clu }

end Sys2Proof.Machine
end

