-- ==== Sys2Proof/Machine/System.lean ====
section
/-!
DEFINITION. The system group: control registers, contexts, saved records, ERET, halts, scans, the core map, translation and
key invalidation, PERFQ and the trace (R201 to R213, R416, R419, R422), with the events that answer them.
-/

namespace Sys2Proof.Machine

/-! ## Privilege (R32, R201) -/

def State.notPrivileged (s : State) : Trap := s.trapHere 0x006 (BitVec.ofNat 64 s.dev.cur.word)
/-- An instruction of the group: outside privileged mode it traps at once (R31); else it waits for commit while speculative. -/
def State.systemV (s : State) (fp : Foot) (wait : Option Wait) (body : Verdict) : Out :=
  if s.privileged then s.present fp (match s.specWait with
    | some w => some w
    | none => wait) body
  else .next (s.settle (.traps s.notPrivileged s.keep))
def State.system (s : State) (fp : Foot) (wait : Option Wait) (body : Except Trap Change) : Out :=
  s.systemV fp wait (s.verdict body)

/-! ## MTC and MFC (R62 to R66, R202) -/

/-- The register may be named outside privileged mode; the trap registers only in slot 15. -/
def State.userReg (s : State) (k : Nat) : Bool :=
  if 0x10 ≤ k ∧ k ≤ 0x13 then s.slot == 15 else k != 0x21
/-- CTXID. -/
def Ctx.id (x : Ctx) (sl : Nat) : Word := BitVec.ofNat 64 (x.pid % 65536 * 65536 + x.tenant % 128 * 16 + sl)
/-- The value of a control register. -/
def State.readReg (s : State) (k : Nat) : Word :=
  let x := s.me
  if k = 0 then x.mode else if k = 1 then x.stallcnt else if k = 2 then x.srseed else if k = 3 then x.status
  else if k = 4 then x.lcnt else if k = 5 then x.lbeg else if k = 6 then x.lend
  else if k = 8 then x.xdoneid else if k = 9 then x.xdonest
  else if k = 0xB then x.id s.slot
  else if k = 0xC then BitVec.ofNat 64 s.dev.now
  else if k = 0x10 then s.my.trapcause else if k = 0x11 then s.my.trappc else if k = 0x12 then s.my.trapaddr
  else if k = 0x13 then s.my.trapaux
  else if k = 0x20 then (if s.harvest then BitVec.ofNat 64 (2 ^ 63 + (s.slot - 11) * 0x1200) else BitVec.ofNat 64 x.wp)
  else if k = 0x21 then BitVec.ofNat 64 s.my.wpbase
  else x.xw.get 0 (k - 0x40)
/-- The value has a nonzero reserved bit; a WPBASE outside R53's values counts as one. -/
def reservedIn (k : Nat) (v : Word) : Bool :=
  if k = 0 then decide (bits v 4 60 ≠ 0)
  else if k = 3 then decide (bits v 1 63 ≠ 0)
  else if k = 0x21 then decide (v.toNat % 512 ≠ 0) || decide (0x32800 < v.toNat)
  else false
/-- The handler of a precise FSX mismatch sets the mode bit of the context it will resume (R72). (DEDUCED, log entry 113.) -/
def State.fsxRepair (s : State) (c : Change) (v : Word) : Change :=
  match s.my.handling with
  | some t =>
    if s.slot = 15 ∧ t.cause = 0x040 ∧ !t.imp then
      c.ctx s.here t.slot fun x => { x with mode := (x.mode &&& ~~~2#64) ||| (v &&& 2) }
    else c
  | none => c
/-- The write of a loop register takes effect from the context's next group; the handler of a precise trap rebuilds the loop state of
the context it will resume as well (R65). (DEDUCED, log entries 111, 112.) -/
def State.setLoop (s : State) (c : Change) (f : Ctx → Ctx) : Change :=
  let c := c.me fun x => f (s.loopStepped x)
  match s.my.handling with
  | some t => if s.slot = 15 ∧ !t.imp then c.ctx s.here t.slot f else c
  | none => c
/-- The write of a control register; read-only registers and fields ignore it. (DEDUCED, log entry 41.) -/
def State.writeReg (s : State) (c : Change) (k : Nat) (v : Word) : Change :=
  if k = 0 then s.fsxRepair (c.me fun x => { x with mode := (x.mode &&& 8) ||| (v &&& 7) }) v
  else if k = 1 then c.me fun x => { x with stallcnt := v }
  else if k = 2 then c.me fun x => { x with srseed := if v = 0 then 1 else v }
  else if k = 3 then c.me fun x => if v = 0 then { x with status := 0 } else x
  else if k = 4 then s.setLoop c fun x => { x with lcnt := v }
  else if k = 5 then s.setLoop c fun x => { x with lbeg := v }
  else if k = 6 then s.setLoop c fun x => { x with lend := v }
  else if k = 0x11 then c.mine fun q => { q with trappc := v }
  else if k = 0x12 then c.mine fun q => { q with trapaddr := v }
  else if k = 0x13 then c.mine fun q => { q with trapaux := v }
  else if k = 0x21 then c.mine fun q => { q with wpbase := v.toNat }
  else if 0x40 ≤ k then c.me fun x => { x with xw := x.xw.set (k - 0x40) v }
  else c
def execMtc (d : Reg) (k : BitVec 12) (s : State) : Out :=
  let n := k.toNat
  if s.privileged || s.userReg n then
    s.issue { src := s.srcW d } s.specWait <|
      if reservedIn n (s.w d) then .error (s.trapHere 0x043 (BitVec.ofNat 64 n))
      else .ok (s.writeReg s.keep n (s.w d))
  else .next (s.settle (.traps s.notPrivileged s.keep))
def execMfc (d : Reg) (k : BitVec 12) (s : State) : Out :=
  if s.privileged || s.userReg k.toNat then
    s.issue { dst := s.dstW d } none (.ok (s.setW s.keep 1 d (s.readReg k.toNat)))
  else .next (s.settle (.traps s.notPrivileged s.keep))

/-- SETWP (R203): the context's pending results complete first. -/
def execSetwp (a : Reg) (s : State) : Out :=
  let v := s.w a
  s.system { src := s.srcW a } (if s.me.pipe.isEmpty then none else some .other) <|
    if v.toNat % 512 ≠ 0 ∨ 0x3EE00 < v.toNat then .error (s.trap 0x191 v 0)
    else .ok (s.keep.me fun x => { x with wp := v.toNat })

/-! ## Contexts (R204) -/

def State.notSaveable (s : State) (k : BitVec 12) : Trap := s.trapHere 0x192 (BitVec.ofNat 64 k.toNat)
/-- The slot named is live and is not the issuer's. -/
def State.namesOther (s : State) (k : BitVec 12) : Bool := (s.my.ctx k.toNat).live && decide (k.toNat ≠ s.slot)
def execCtxkStop (k : BitVec 12) (s : State) : Out :=
  s.system {} none <|
    if s.namesOther k then
      .ok ((s.keep.ctx s.here k.toNat fun x => { x with stopped := true }).hold [.stopped k.toNat])
    else .error (s.notSaveable k)
def execCtxkGo (k : BitVec 12) (s : State) : Out :=
  s.system {} none <|
    if s.namesOther k then .ok (s.keep.ctx s.here k.toNat fun x => { x with stopped := false })
    else .error (s.notSaveable k)
/-- The activation ends without redelivery; its speculation is aborted. (DEDUCED, log entry 46.) -/
def State.kill (s : State) (c : Change) (p sl : Nat) : Change :=
  if (s.ctx p sl).shadow.isSome then s.abortAct c p sl false else c.quit p sl
def execCtxkKill (k : BitVec 12) (s : State) : Out :=
  s.system {} none <|
    if s.namesOther k then .ok (s.kill s.keep s.here k.toNat)
    else .error (s.notSaveable k)

/-! ## Saved records (R205) -/

/-- Two bits for each of 576 tags, 144 bytes. -/
def tagBytes (tags : List Tag) : List Byte :=
  (chunks 4 144 tags).map fun q => BitVec.ofNat 8 (q.foldr (fun t n => Tag.num t + 4 * n) 0)
def bytesTags (bs : List Byte) : List Tag := bs.flatMap fun b => (List.range 4).map fun i => Tag.ofCode (b.toNat / 4 ^ i % 4)
/-- The activation word of a record. -/
def Act.word (a : Act) : Word :=
  BitVec.ofNat 64 (a.ts % 2 ^ 32 + a.chan % 64 * 2 ^ 32 + a.prio % 8 * 2 ^ 40 + a.rep.toNat * 2 ^ 43 + a.maySpec.toNat * 2 ^ 44 +
    a.open_.toNat * 2 ^ 45)
/-- A workspace image as it is read: bits 63:8 of the predicate word zero (R51). -/
def readImage (img : List Byte) : List Byte := img.zipIdx.map fun b => if 0x141 ≤ b.2 ∧ b.2 < 0x148 then 0 else b.1
/-- Write a workspace with its tags; bits 63:8 of the predicate word ignore it (R51). -/
def Change.putWorkspace (c : Change) (k : Nat) (img : List Byte) (tags : List Tag) : Change :=
  { c with ops := c.ops ++ (StoreOp.bytes k (img.take 0x141) :: StoreOp.bytes (k + 0x148) (img.drop 0x148) ::
      tags.zipIdx.map fun t => StoreOp.tag (k / 8 + t.2) t.1) }
/-- The 5,120 bytes of a context's record, from a workspace image and the context's registers. -/
def record (img : List Byte) (tags : List Tag) (x : Ctx) (sl : Nat) : List Byte :=
  readImage img ++ tagBytes tags ++
    ([x.pc, x.mode, x.stallcnt, x.srseed, x.status, x.lcnt, x.lbeg, x.lend, x.id sl, x.act.word] ++
      (List.range 12).map (x.xw.get 0)).flatMap wordBytes ++ List.replicate 192 0
def State.recordAt (s : State) (p sl : Nat) : List Byte :=
  let k := s.wsKey p sl 0
  record (s.bytesAt k 4608) ((List.range 576).map fun i => s.tagOf (k / 8 + i)) (s.ctx p sl) sl
/-- The slot holds effects that are not released. -/
def State.unreleased (s : State) (p sl : Nat) : Bool :=
  let act := (s.ctx p sl).act.num
  ((s.core p).hold.any fun h => h.org.act == act) || ((s.core p).relq.any fun h => h.org.act == act)
def execCsave (a : Reg) (k : BitVec 12) (s : State) : Out :=
  let sl := k.toNat
  let x := s.my.ctx sl
  let ea := s.w a
  s.system { src := s.srcW a } (if x.live && x.stopped && s.anyFill s.here sl then some .fill else none) <|
    if !(x.live && x.stopped && x.shadow.isNone && !s.unreleased s.here sl) then .error (s.notSaveable k)
    else match s.checkAccess .g ea 5120 256 true with
    | some t => .error t
    | none =>
      let c := ((chunks 256 20 (s.recordAt s.here sl)).zipIdx).foldl
        (fun c e => s.leave c (.store .g (ea.toNat + 256 * e.2) e.1)) s.keep
      .ok (c.hold [.performed .dev])

/-- Word `i` of a record's 640. -/
def recWord (ws : List Word) (off : Nat) : Word := ws.getD (off / 8) 0
/-- A record has a nonzero reserved field, or names a slot of another class. -/
def recordBad (ws : List Word) (sl : Nat) : Bool :=
  let id := recWord ws 4816
  let a := recWord ws 4824
  decide (bits (recWord ws 4760) 4 60 ≠ 0) || decide (bits (recWord ws 4784) 1 63 ≠ 0) || decide (bits id 32 32 ≠ 0) ||
    decide (bits id 11 5 ≠ 0) || decide (bits a 46 18 ≠ 0) || decide (bits a 38 2 ≠ 0) || (ws.drop 616).any (· != 0) ||
    decide (slotClass (bits id 0 4) ≠ slotClass sl)
/-- A context as a record gives it, stopped. -/
def Change.loadRecord (c : Change) (p sl dom : Nat) (ws : List Word) (base : Nat) : Change :=
  let num := c.dev.fresh
  let now := c.dev.now
  let wpbase := (c.dev.cores.get {} p).wpbase
  let id := recWord ws 4816
  let a := recWord ws 4824
  let bs := (ws.take 594).flatMap wordBytes
  let act : Act := {
    num := num, chan := bits a 32 6, prio := bits a 40 3, cls := slotClass sl, rep := a.getLsbD 43, maySpec := a.getLsbD 44
    open_ := a.getLsbD 45, ts := bits a 0 32, dom := dom }
  ((c.tick.putWorkspace base (bs.take 4608) (bytesTags (bs.drop 4608))).ctx p sl fun x => {
    live := true, stopped := true, pc := recWord ws 4752, wp := if 11 ≤ sl ∧ sl ≤ 14 then x.wp else slotWp wpbase sl
    mode := recWord ws 4760, stallcnt := recWord ws 4768, srseed := recWord ws 4776, status := recWord ws 4784
    lcnt := recWord ws 4792, lbeg := recWord ws 4800, lend := recWord ws 4808
    pid := bits id 16 16, tenant := bits id 4 7, xw := (List.range 12).map fun i => (i, recWord ws (4832 + 8 * i))
    act := act, stallUntil := now + 1 })
def Hold.isAck : Hold → Bool
  | .ack _ => true
  | _ => false
/-- CREST reads the record's 640 words by `.g` and is performed when the last has come.
(DEDUCED, log entry 45.) -/
def execCrest (a : Reg) (k : BitVec 12) (s : State) : Out :=
  let sl := k.toNat
  let ea := s.w a
  let mine (b : Bread) : Bool := b.org.core == s.here && b.org.slot == s.slot && decide (b.chan = 64)
  s.systemV { src := s.srcW a } none <|
    if (s.my.ctx sl).live then .traps (s.notSaveable k) s.keep
    else match s.me.outcome with
    | some _ =>
      let c := (s.keep.me fun x => { x with outcome := none }).dv fun d => { d with breads := d.breads.filter fun b => !mine b.2 }
      match s.dev.breads.find? fun b => mine b.2 with
      | none => .runs c
      | some (_, b) =>
        let ws := (List.range 640).map fun i => match b.got.find? fun g => g.1 == i with
          | some g => g.2
          | none => (0, false)
        match ws.find? fun w => w.2 with
        | some w => .traps (s.recordTrap w.1 ea) c
        | none =>
          let vs := ws.map fun w => w.1
          if recordBad vs sl then .traps (s.notSaveable k) c
          else .runs (c.loadRecord s.here sl (s.my.ctx 0).act.dom vs (if 11 ≤ sl ∧ sl ≤ 14 then reserveKey s.here sl 0
            else nearKey s.here (slotWp s.my.wpbase sl)))
    | none => match s.checkAccess .g ea 5120 256 false with
      | some t => .traps t s.keep
      | none =>
        let id := s.dev.fresh
        let b : Bread := { org := s.origin, core := s.here, chan := 64, total := 640, unit := 640, got := [] }
        let c := (s.keep.tick.dv fun d => { d with breads := d.breads.set id b }).hold [.ack id]
        .starts ((List.range 640).foldl (fun c i =>
          let fid := c.dev.fresh
          let f : Flight := { org := s.origin, cargo := .block id i 8, place := .virt (ea.toNat + 8 * i), grp := some id }
          (c.tick.dv fun d => { d with flights := d.flights.set fid f }).soon .translation { a := fid }) c)

/-! ## ERET (R206, R401) -/

/-- The trapped context goes on at TRAPPC, and past a register breakpoint (R417). -/
def State.resume (s : State) (c : Change) (t : Trap) : Change :=
  if t.imp || !(s.my.ctx t.slot).trapped then c
  else c.ctx s.here t.slot fun x =>
    { x with trapped := false, pc := s.my.trappc
             stepPast := if t.cause = 0x181 ∧ t.aux.getLsbD 17 then some s.my.trappc else none }

/-- ERET (R206): the handler returns. (DEDUCED, log entry 44.) -/
def execEret (s : State) : Out :=
  match s.my.handling with
  | some t =>
    if s.slot = 15 then
      s.issue {} (if s.anyFill s.here 15 then some .fill else none)
        (.ok ((s.resume (((s.keep.endAct s.here 15).mine fun k => { k with handling := none, firmware := false }).me fun x =>
          { x with freeAt := s.dev.now }) t).soon .trapDelivery { a := s.here }))
    else if s.privileged then s.issue {} none (.error (s.trapHere 0x190 0))
    else .next (s.settle (.traps s.notPrivileged s.keep))
  | none =>
    if s.privileged then s.issue {} s.specWait (.error (s.trapHere 0x190 0))
    else .next (s.settle (.traps s.notPrivileged s.keep))

/-! ## Halts (R207, R416) -/

/-- The request travels to the core; a number that names no live logical core reaches none.
(DEDUCED, log entry 42.) -/
def State.haltOp (s : State) (c : Reg) (how : Nat) : Out :=
  let l := (s.w c).toNat
  s.system { src := s.srcW c } none
    (.ok (if s.retired l then s.keep else s.keep.soon .haltRequest { a := s.phys l, b := how }))
def execHalt (c : Reg) (s : State) : Out := s.haltOp c 0
def execHaltBounce (c : Reg) (s : State) : Out := s.haltOp c 1
def execHaltOff (c : Reg) (s : State) : Out := s.haltOp c 2
/-- A request reaches the core: from the next cycle it binds nothing and its grant is revoked; a core that is halted stays so. Arg: core; 0 halt, 1 with refusal,
2 off. -/
def execHaltRequest (s : State) : Out :=
  let p := s.dev.arg.a
  s.occur (if s.dev.arg.b = 2 then s.keep.core p fun k => { k with halt := .none }
    else match (s.core p).halt with
    | .halted _ => s.keep.core p fun k => { k with halt := .halted (s.dev.arg.b == 1) }
    | _ => ((s.keep.core p fun k => { k with halt := .requested (s.dev.arg.b == 1) }).revoke p).sched (s.dev.now + 1) .halted { a := p })
/-- The core is halted once slots 0 to 14 are free. Arg: core. -/
def execHalted (s : State) : Out :=
  let p := s.dev.arg.a
  s.occur <| match (s.core p).halt with
  | .requested b =>
    if (s.core p).ctxs.any fun x => x.2.live && decide (x.1 ≤ 14) then s.again .halted
    else s.keep.core p fun k => { k with halt := .halted b }
  | _ => s.keep

/-! ## SCAN (R208, R422) -/

/-- A pattern set takes 200 µs. -/
def scanCycles : Nat := 210000
/-- The scan may run: a service-tenant harvest context on its own core, or a service core on a core that nothing maps to; and the
core holds no other live context. -/
def State.scanAllowed (s : State) (p : Nat) : Bool :=
  let others := (s.core p).ctxs.any fun x => x.2.live && !(decide (p = s.here) && decide (x.1 = s.slot))
  !others && (if p = s.here then s.harvest && s.me.service else (s.logical p).isNone && serviceCore s.here)
def execScan (d : Reg) (s : State) : Out :=
  let p := (s.w d).toNat
  s.system { src := s.srcW d, dst := s.dstW d } none <|
    if 19584 ≤ p then .error (s.trapHere 0x193 (s.w d))
    else if !s.scanAllowed p then .ok (s.fillSoon s.keep (s.fillW d) 4)
    else
      let fid := s.dev.fresh
      .ok (((s.fill s.keep (s.fillW d) 1).core p fun k => { k with scanning := true }).sched (s.dev.now + scanCycles)
        .scanComplete { a := p, b := fid })
/-- The pattern set has ended: whether the core passes and its signature come from outside the program. Arg: core, fill. -/
def execScanComplete (s : State) : Out :=
  let p := s.dev.arg.a
  s.occur <| if !(s.core p).scanning then s.keep
    else
      let v := BitVec.ofNat 64 (Config.choice s.dev.fresh % 2 + bits (Config.word s.dev.fresh) 0 32 * 2 ^ 32)
      (((s.keep.core p fun k => { k with scanning := false }).dv fun d => { d with scans := d.scans.filter (· != p), fills := match d.fills.find s.dev.arg.b with
        | some f => d.fills.set s.dev.arg.b { f with left := 0, val := v }
        | none => d.fills }).sched s.dev.now .fill { a := s.dev.arg.b }).tick

/-! ## The logical core map (R12, R13, R209, R424) -/

/-- The map as it will stand when every pending entry has taken effect. -/
def State.nextMap (s : State) : Map (Nat × Bool) := s.dev.coreMapNext.foldl (fun m e => m.set e.1 e.2) s.dev.coreMap
/-- A launch whose wake has begun stands on a cluster. -/
def Dev.onCluster (d : Dev) (clu : Nat) : Bool := d.launches.any fun l => l.2.phase != .queued && l.2.has clu
/-- Firmware puts the parked entries of a core back into their rings, and their banks are discarded (R379). -/
def Change.unparkAll (c : Change) (p : Nat) : Change :=
  let c := (c.dev.cores.get {} p).parked.foldl (fun c x =>
    (c.op (.wipe (reserveKey p x.slot 0) 8192)).soon .harvestBinding { a := p, b := 3, c := x.ctx.tenant, words := x.ctx.entryWords }) c
  match c.dev.cores.find p with
  | some _ => c.core p fun k => { k with parked := [] }
  | none => c
/-- A record of the error log: time, unit and index, tenant, code, and two words of detail (R411).
(DEDUCED, log entry 58.) -/
def Change.logErr (c : Change) (unit index tenant code : Nat) (d0 d1 : Word) : Change :=
  let r : List Word := [BitVec.ofNat 64 c.dev.now,
    BitVec.ofNat 64 (unit * 2 ^ 32 + tenant % 128 * 2 ^ 17 + index % 256 * 512 + code), d0, d1]
  c.dv fun d => { d with log := (d.log ++ [r]).drop ((d.log.length + 1) - 4096) }
/-- The words of bytes. -/
def byteWords (bs : List Byte) : List Word := (chunks 8 ((bs.length + 7) / 8) bs).map bytesWord
/-- The UDP payload of a frame of the host port (R388): its header, whose second word is `w1`, and its bytes. -/
def hostFrame (type tenant seq : Nat) (w1 : Word) (bs : List Byte) : List Word :=
  [BitVec.ofNat 64 (type * 2 ^ 56 + tenant % 128 * 2 ^ 49 + bs.length % 2 ^ 17 * 2 ^ 32 + seq % 2 ^ 32), w1] ++ byteWords bs
/-- The device sends something through a port: destination 0 is an Ethernet port, d + 1 the device d. -/
def Change.send (c : Change) (dest : Nat) (ws : List Word) : Change := c.dv fun d => { d with sent := d.sent ++ [(dest, ws)] }
/-- Bytes go out through an Ethernet port, in frames of up to 8,192 of them, each with the device's next sequence number. (DEDUCED, log
entry 73.) -/
def Change.sendFrames (c : Change) (dest type tenant : Nat) (w1 : Word) (bs : List Byte) : Change :=
  (chunks 8192 (max 1 ((bs.length + 8191) / 8192)) bs).foldl (fun c b =>
    (c.send dest (hostFrame type tenant c.dev.frameSeq w1 b)).dv fun d => { d with frameSeq := (d.frameSeq + 1) % 2 ^ 32 }) c
/-- An answer to a frame of the host: the frame's sequence number, a code, and bytes. (DEDUCED, log entry 73.) -/
def Change.hostReply (c : Change) (type tenant seq : Nat) (code : Word) (bs : List Byte) : Change :=
  c.sendFrames 0 type tenant 0 (natBytes 8 seq ++ wordBytes code ++ bs)
/-- The cores of a cluster's spare column that no logical number maps to and that pass their tests (R12, R423). -/
def Dev.sparesLeft (d : Dev) (clu : Nat) : Nat :=
  ((List.range 12).filter fun y =>
    let p := (clu / 12 * 12 + y) * 204 + clu % 12 * 17 + 16
    !(d.coreMap.any fun e => e.2.1 == p && !e.2.2) && !(d.cores.get {} p).dead).length
/-- The first retirement, of logical core `l`, raises the replace request: the error log, REPLACE, the pin REPLACE_N, and a notice with
the count of retired cores and the lowest number of spares left in any cluster (R424). -/
def Change.replaceRequest (c : Change) (l : Nat) : Change :=
  if c.dev.power.replace then c
  else
    let retired := (c.dev.coreMap.filter fun e => e.2.2).length
    let spares := ((List.range 96).map c.dev.sparesLeft).foldl min 12
    ((c.logErr 0 0 0 0x1E7 (BitVec.ofNat 64 l) 0).dv fun d => { d with power := { d.power with replace := true, replaceN := false } }).sendFrames
      0 4 0 0 (natBytes 8 0x1E7 ++ natBytes 8 retired ++ natBytes 8 spares)
/-- Take over the pending entries of the clusters on which no launch stands. A halt and the breakpoints belong to the logical
core, and move with it (R416, R417); a core that is retired gives up its parked harvest entries (R379). -/
def Change.takeMap (c : Change) : Change :=
  let go := c.dev.coreMapNext.filter fun e => !c.dev.onCluster (clusterOf e.1)
  let was (l : Nat) : Nat := (c.dev.coreMap.get (defaultPhys l, false) l).1
  let old (l : Nat) : Core := c.dev.cores.get {} (was l)
  let moved := go.filter fun e => was e.1 != e.2.1
  let c := (go.filter fun e => e.2.2).foldl (fun x e => x.unparkAll (was e.1)) (c.dv fun d => { d with
    coreMap := go.foldl (fun m e => m.set e.1 e.2) d.coreMap, coreMapNext := d.coreMapNext.filter fun e => d.onCluster (clusterOf e.1) })
  let c := moved.foldl (fun c e => c.core (was e.1) fun k => { k with halt := .none, breaks := [] }) c
  let c := moved.foldl (fun c e =>
    let c := c.core e.2.1 fun k => { k with halt := (old e.1).halt, breaks := (old e.1).breaks }
    match (old e.1).halt with
    | .requested _ => c.sched (c.dev.now + 1) .halted { a := e.2.1 }
    | _ => c) c
  (go.filter fun e => e.2.2).foldl (fun c e => c.replaceRequest e.1) c
def execCmap (a : Reg) (s : State) : Out :=
  let v := s.w a
  let l := bits v 0 15
  let gone := v.getLsbD 16
  let p := bits v 17 15
  let m := s.nextMap
  let now : State := { s with dev := { s.dev with coreMap := m } }
  s.system { src := s.srcW a } none <|
    if v.getLsbD 15 ∨ bits v 32 32 ≠ 0 ∨ 18432 ≤ l then .error (s.trapHere 0x193 v)
    else if 19584 ≤ p ∨ physCluster p ≠ clusterOf l ∨ (now.logical p).isSome then .error (s.trapHere 0x193 v)
    else
      .ok (s.keep.dv fun d => { d with coreMapNext := d.coreMapNext.set l (p, gone) }).takeMap

/-! ## Translations and keys (R210, R211) -/

/-- Invalidate cached translations; a walk for such an address starts again from level 4, so that no access uses an old entry (R352). A
walk does not know its page before its leaf, so those of the largest page around the named unit start again.
(DEDUCED, log entry 43.) -/
def Change.invalidate (c : Change) (pick : Trans → Bool) (walk : Walk → Bool) : Change :=
  c.dv fun d => { d with
    cached := d.cached.map fun e => (e.1, e.2.filter fun t => !pick t)
    walks := d.walks.map fun e => if walk e.2 then (e.1, { e.2 with again := true }) else e }
/-- Held until the units have acknowledged, after a time the manual leaves open. -/
def Change.untilAck (c : Change) : Change := (c.hold [.until_ (c.dev.now + 1 + Config.delay c.dev.fresh) 1]).tick
def execStinvPage (a : Reg) (k : BitVec 12) (s : State) : Out :=
  let t := k.toNat
  let pid := bits (s.w a) 0 16
  let unit := bits (s.w a) 16 41
  s.system { src := s.srcW a } none <|
    .ok ((s.keep.invalidate
      (fun e => decide (e.tenant = t ∧ e.pid = pid ∧ e.page / 2 ^ e.size = unit * 65536 / 2 ^ e.size))
      (fun w => decide (w.tenant = t ∧ w.pid = pid ∧ w.unit / 16384 = unit / 16384))).untilAck)
def execStinvPid (a : Reg) (k : BitVec 12) (s : State) : Out :=
  let t := k.toNat
  let pid := bits (s.w a) 0 16
  s.system { src := s.srcW a } none <|
    .ok ((s.keep.invalidate (fun e => decide (e.tenant = t ∧ e.pid = pid)) (fun w => decide (w.tenant = t ∧ w.pid = pid))).untilAck)
def execStinvAll (k : BitVec 12) (s : State) : Out :=
  let t := k.toNat
  s.system {} none <|
    .ok ((s.keep.invalidate (fun e => decide (e.tenant = t)) (fun w => decide (w.tenant = t))).untilAck)
def execKeyld (a : Reg) (k : BitVec 12) (s : State) : Out :=
  let blk := s.block (s.srcW a) (s.w a) 8 8
  s.system { src := s.srcW a, mem := blk.words } blk.wait <|
    match blk.trap with
    | some t => .error t
    | none =>
      .ok ((s.readDone s.keep (s.w a).toNat 64 blk.fwd).dv fun d => { d with keys := d.keys.set k.toNat blk.data }).untilAck
def execKeyldClr (k : BitVec 12) (s : State) : Out :=
  s.system {} none (.ok ((s.keep.dv fun d => { d with keys := d.keys.drop k.toNat }).untilAck))

/-! ## PERFQ (R212, R419) -/

/-- The value that a core gives for an event. -/
def State.counter (s : State) (p ev : Nat) : Word :=
  if ev = 0 then BitVec.ofNat 64 s.dev.now
  else if ev = 6 then BitVec.ofNat 64 s.dev.now - (s.core p).counters.get 0 6
  else if ev = 21 then BitVec.ofNat 64 (s.core p).holdMax
  else if ev = 42 then (match (s.core p).halt with
    | .halted _ => 1
    | _ => 0)
  else if ev = 44 then BitVec.ofNat 64 (s.dev.traces.get {} (dieOf (physCluster p))).state
  else if 45 ≤ ev then 0
  else (s.core p).counters.get 0 ev
/-- The non-retired logical cores of a scope. (DEDUCED, log entry 51.) -/
def State.scopeCores (s : State) (sc sel : Nat) : List Nat :=
  (if sc = 0 then [sel]
    else if sc = 1 then (List.range 192).map (logicalAt sel)
    else (List.range 18432).filter fun l => decide (sc = 3) || decide (dieOf (clusterOf l) = sel)).filter fun l => !s.retired l
/-- The reduction: 0 sum, 1 minimum, 2 maximum. -/
def reduceRound (op : Nat) : List Word → Word
  | [] => 0
  | v :: vs =>
    if op = 0 then vs.foldl (· + ·) v
    else if op = 1 then vs.foldl (fun a b => if b.ult a then b else a) v
    else vs.foldl (fun a b => if a.ult b then b else a) v
def State.perfq (s : State) (op : Nat) (d : Reg) (c : BitVec 2) (e : BitVec 6) : Out :=
  let v := (s.w d).toNat
  let sc := c.toNat
  let bad := (decide (sc = 0) && decide (18432 ≤ v)) || (decide (sc = 1) && decide (96 ≤ v)) || (decide (sc = 2) && decide (4 ≤ v))
  s.system { src := s.srcW d, dst := s.dstW d } none <|
    if bad then .error (s.illegal 4)
    else
      let fid := s.dev.fresh
      let c := s.fill s.keep (s.fillW d) 1
      .ok ((c.sched (s.dev.now + 1 + Config.delay c.dev.fresh % 1100) .perfqResult
        { a := fid, b := op, c := sc, words := [BitVec.ofNat 64 v, BitVec.ofNat 64 e.toNat] }).tick)
def execPerfqSum (d : Reg) (c : BitVec 2) (e : BitVec 6) (s : State) : Out := s.perfq 0 d c e
def execPerfqMin (d : Reg) (c : BitVec 2) (e : BitVec 6) (s : State) : Out := s.perfq 1 d c e
def execPerfqMax (d : Reg) (c : BitVec 2) (e : BitVec 6) (s : State) : Out := s.perfq 2 d c e
/-- The round reaches the cores. Arg: fill, operation, scope; selector, event. -/
def execPerfqResult (s : State) : Out :=
  let g := s.dev.arg
  let n (i : Nat) : Nat := (g.words.getD i 0).toNat
  let v := reduceRound g.b ((s.scopeCores g.c (n 0)).map fun l => s.counter (s.phys l) (n 1))
  s.occur ((s.keep.dv fun d => { d with fills := match d.fills.find g.a with
    | some f => d.fills.set g.a { f with left := 0, val := v }
    | none => d.fills }).sched s.dev.now .fill { a := g.a })

/-! ## The trace (R213, R413) -/

/-- A trigger word: its kind and its reserved bits. -/
def triggerBad (w : Word) : Bool := decide (6 ≤ bits w 60 4) || decide (bits w 48 12 ≠ 0)
/-- A block that arms nothing. The dump area must lie in HBM. -/
def traceBad (w : List Word) : Bool :=
  let g (i : Nat) : Word := w.getD i 0
  decide (bits (g 0) 9 39 ≠ 0) || (g 0).getLsbD 7 || decide (96 ≤ bits (g 0) 0 7) || triggerBad (g 1) || triggerBad (g 2) ||
    decide (bits (g 3) 48 16 ≠ 0) || decide (bits (g 3) 0 12 ≠ 0) || decide (bits (g 4) 5 59 ≠ 0) || decide (20 < bits (g 4) 0 5) ||
    decide (2 ^ 39 < (g 3).toNat + 12 * 2 ^ 20 + 4096 + 16 * 2 ^ bits (g 4) 0 5) ||
    (w.drop 5).any (· != 0)
def execTrarm (a : Reg) (s : State) : Out :=
  let blk := s.block (s.srcW a) (s.w a) 8 8
  s.system { src := s.srcW a, mem := blk.words } blk.wait <|
    match blk.trap with
    | some t => .error t
    | none =>
      let die := dieOf (bits (blk.data.getD 0 0) 0 7)
      let t : Trace := if traceBad blk.data then { state := 4 } else { state := 1, block := blk.data, armedAt := s.dev.now }
      .ok ((s.readDone s.keep (s.w a).toNat 64 blk.fwd).dv fun d => { d with
        traces := if bits (blk.data.getD 0 0) 0 7 < 96 then d.traces.set die t else d.traces })
def execTrarmOff (s : State) : Out :=
  s.system {} none (.ok (s.keep.dv fun d => { d with traces := [] }))
/-- A die looks at its triggers: it records, or may start to in this cycle; not in the cycle of its arming (R414). -/
def Trace.watching (t : Trace) (now : Nat) : Bool := (t.state == 1 || t.state == 2) && decide (t.armedAt < now)
/-- A stop trigger at every die that records in this cycle, one that starts in it among them. -/
def execTrarmStop (s : State) : Out :=
  s.system {} none (.ok (s.keep.dv fun d => { d with traces := d.traces.map fun t =>
    (t.1, if t.2.watching s.dev.now then { t.2 with seen := (9, 0) :: t.2.seen } else t.2) }))

end Sys2Proof.Machine
end

