-- ==== Sys2Proof/Machine/Home.lean ====
section
/-!
DEFINITION. Device memory at its home: the physical map, the keys of lines, translation tables and leaves, tiers and the event
queue, and reads and writes at every home (R145, R345 to R357, R402).
-/

namespace Sys2Proof.Machine

/-! ## The physical map (R345) -/

/-- The tier of a physical address: 0 HBM, 1 CXL within its port's capacity, 2 host; none for a hole. The ports interleave in
256-byte runs, as the stacks do. (DEDUCED, log entry 49.) -/
def State.tierOf (s : State) (pa : Nat) : Option Nat :=
  if pa < 2 ^ 39 then some 0
  else if 2 ^ 44 ≤ pa ∧ pa < 2 ^ 45 then
    (if (pa - 2 ^ 44) / 2048 * 256 + pa % 256 < s.dev.cxl.get 0 (pa / 256 % 8) then some 1 else none)
  else if 2 ^ 47 ≤ pa ∧ pa < 2 ^ 48 then some 2
  else none
/-- The station of an access from a core (R347); a service core's accesses and those of other devices use the stations of die D0.
(DESIGN CHOICE, log entry 125.) -/
def stationOf (p va : Nat) : Nat := dieOf (physCluster p) * 16 + ((va / 2 ^ 21 % 16) ^^^ (va / 2 ^ 25 % 16))

/-! ## Keys (R211, R353) -/

/-- The 64 bytes of a line as they read under key material: what the key that stored them has sealed is opened under this one, the data
itself where both are the same; a line that nothing has stored reads as the memory stands. (DESIGN CHOICE, log entry 9.) -/
def State.line (s : State) (l : Nat) (want : List Word) : List Byte :=
  let raw := s.bytesAt (64 * l) 64
  match s.dev.lineKeys.get [] l with
  | [] => raw
  | k => if k = want then raw else openLine l (want.flatMap wordBytes) (sealLine l (k.flatMap wordBytes) raw)
/-- Bytes of device memory under key material. -/
def State.physBytes (s : State) (pa n : Nat) (want : List Word) : List Byte :=
  (List.range n).map fun i => (s.line ((pa + i) / 64) want).getD ((pa + i) % 64) 0
/-- Write bytes of one line under key material: a line stored under another key is read under this one and stored whole. -/
def State.physWrite (s : State) (c : Change) (pa : Nat) (bs : List Byte) (want : List Word) : Change :=
  let l := pa / 64
  let old := s.dev.lineKeys.get [] l
  let c := if old.isEmpty || old == want then c else c.write (64 * l) (s.line l want)
  (c.write pa bs).dv fun d => { d with lineKeys := d.lineKeys.set l want }

/-! ## Table entries (R347 to R350) -/

/-- An eight-byte table word through its home slice. A table line reads as it was stored.
(DEDUCED, log entry 50.) -/
def State.tableWord (s : State) (pa : Nat) : Word := s.wordAt pa
/-- The line of a physical word holds an uncorrectable error. -/
def State.lineBad (s : State) (pa : Nat) : Bool := (List.range 8).any fun i => s.bad.contains (pa / 64 * 8 + i)
def leafSize : Nat → Nat
  | 0 => 16 | 1 => 21 | _ => 30
/-- The byte of a table that an address selects at a level. -/
def tableIndex (level va : Nat) : Nat :=
  8 * (match level with
    | 4 => va / 2 ^ 48 % 512
    | 3 => va / 2 ^ 39 % 512
    | 2 => va / 2 ^ 30 % 512
    | 1 => va / 2 ^ 21 % 512
    | _ => va / 2 ^ 16 % 32)
def leafTier (e : Word) : Nat := bits e 4 2
def leafKey (e : Word) : Nat := bits e 48 10
/-- The first address of a leaf's frame. -/
def leafFrame (e : Word) : Nat := bits e 12 36 * 4096
def leafRank (e : Word) : Nat := bits e 46 12
/-- A leaf breaks a rule of R349. -/
def State.leafBad (s : State) (level : Nat) (e : Word) : Bool :=
  let t := leafTier e
  decide (bits e 58 6 ≠ 0) || decide (bits e 7 5 ≠ 0) || decide (2 < level) ||
    (if t = 3 then decide (bits e 12 34 ≠ 0) || e.getLsbD 6
     else decide (leafFrame e % 2 ^ leafSize level ≠ 0) || (decide (t = 0) && e.getLsbD 6) ||
      decide (s.tierOf (leafFrame e) ≠ some t) || decide (s.tierOf (leafFrame e + 2 ^ leafSize level - 1) ≠ some t) ||
      (decide (t = 1) && (List.range 8).any fun i => decide (s.tierOf (leafFrame e + 2 ^ leafSize level - 2048 + 256 * i + 255) ≠ some 1)))
def nonLeafBad (level : Nat) (e : Word) : Bool :=
  decide (bits e 48 16 ≠ 0) || decide (bits e 2 10 ≠ 0) || decide (level = 0) || decide (2 ^ 39 ≤ leafFrame e)

/-- What one table read of a walk gives: a failure with the bits [63:16] of its record, the next table, or a leaf. -/
inductive Reading where
  | fails (cause detail : Nat)
  | table (level pa : Nat)
  | leaf (level : Nat) (e : Word)
deriving DecidableEq, Repr
/-- One read: level 5 is the PID entry. -/
def State.walkRead (s : State) (tenant pid va level table : Nat) : Reading :=
  let t := s.dev.tenants.get {} tenant
  let unit := va / 65536 % 2 ^ 41
  if level = 5 then
    if t.pidn ≤ pid then .fails 0x096 unit
    else
      let a := t.pidTable + 8 * pid
      let e := s.tableWord a
      if s.lineBad a then .fails 0x0A0 (a / 64 * 64)
      else if !e.getLsbD 0 then .fails 0x096 unit
      else if bits e 48 16 ≠ 0 ∨ bits e 1 11 ≠ 0 ∨ 2 ^ 39 ≤ leafFrame e then .fails 0x092 unit
      else .table 4 (leafFrame e)
  else
    let a := table + tableIndex level va
    let e := s.tableWord a
    if s.lineBad a then .fails 0x0A0 (a / 64 * 64)
    else if !e.getLsbD 0 then .fails 0x090 unit
    else if e.getLsbD 1 then (if s.leafBad level e then .fails 0x092 unit else .leaf level e)
    else if nonLeafBad level e then .fails 0x092 unit
    else .table (level - 1) (leafFrame e)
/-- A whole walk on the tables as they stand. (DEDUCED, log entry 61.) -/
def State.walkAll (s : State) (tenant pid va : Nat) : Nat → Nat → Nat → Reading
  | 0, level, table => .table level table
  | n + 1, level, table => match s.walkRead tenant pid va level table with
    | .table l t => State.walkAll s tenant pid va n l t
    | r => r

/-- A device is marked failed in some group (R392). (DEDUCED, log entry 55.) -/
def State.deviceFailed (s : State) (d : Nat) : Bool := s.dev.groups.any fun g => decide (bits g.2 0 12 = d ∧ bits g.2 32 4 = 3)
/-- The device of a rank, when its rank-map entry is valid, belongs to the tenant, and is not marked failed (R350, R380). -/
def State.rankDevice (s : State) (tenant rank : Nat) : Option Nat :=
  let e := s.dev.ranks.get 0 rank
  if e.getLsbD 31 ∧ bits e 24 7 = tenant ∧ !s.deviceFailed (bits e 0 12) then some (bits e 0 12) else none

/-- Where an access goes under a leaf, or its failure: `rd`, `wr` say what it needs. Host memory stands as device 4,096. -/
def State.leafPlace (s : State) (tenant va level : Nat) (e : Word) (rd wr : Bool) : Except Nat (Place × List Word) :=
  if (rd && !e.getLsbD 2) || (wr && !e.getLsbD 3) then .error 0x091
  else if leafTier e = 3 then
    (match s.rankDevice tenant (leafRank e) with
      | none => .error 0x094
      | some d => .ok (.away d va, []))
  else match s.dev.keys.find (leafKey e) with
  | none => .error 0x093
  | some k =>
    let pa := leafFrame e + va % 2 ^ leafSize level
    if leafTier e = 2 then .ok (.away 4096 pa, []) else .ok (.phys pa, k)

/-! ## The event queue (R357) -/

/-- Post a record to a core's queue: KIND 0 and 1 merge with an unread record of the same unit and tenant.
(DEDUCED, log entry 48.) -/
def Change.postEvent (c : Change) (p sl tenant kind page : Nat) : Change :=
  let c := c.count p (25 + kind)
  let same (e : Nat × Word) : Bool := e.1 == tenant && bits e.2 59 4 == kind && bits e.2 16 41 == page
  let bump (w : Word) : Word := if bits w 8 8 = 255 then w else w + 256
  c.core p fun k =>
    if k.events.any same then
      { k with events := k.events.map fun e => if same e then (e.1, bump e.2) else e }
    else if 64 ≤ k.events.length then { k with eventsLost := true }
    else { k with eventsLost := false
                  events := k.events ++ [(tenant, BitVec.ofNat 64 (2 ^ 63 + kind * 2 ^ 59 + k.eventsLost.toNat * 2 ^ 58 + page * 65536 +
                    256 + sl))] }
/-- A graph instance's end record: its generation, and the node that was corrupt (R330, R357). -/
def Change.postEnd (c : Change) (p sl tenant gen : Nat) (bad : Option Nat) : Change :=
  let body := match bad with
    | some n => 2 ^ 48 + n % 65536 * 2 ^ 32
    | none => 0
  c.core p fun k =>
    if 64 ≤ k.events.length then { k with eventsLost := true }
    else { k with eventsLost := false
                  events := k.events ++ [(tenant, BitVec.ofNat 64 (2 ^ 63 + 2 * 2 ^ 59 + k.eventsLost.toNat * 2 ^ 58 + body + gen * 65536 + sl))] }

/-! ## Reads and writes at a home -/

/-- The record of an uncorrectable word at its home (R397, R402); a reserve-bank word's names its place in the core's banks. (DESIGN
CHOICE, log entry 131.) -/
def badRecord (k : Nat) : Word :=
  BitVec.ofNat 64 (
    if k < nearBase then 0x0A0 + k / 64 * 64 * 65536
    else if bstoreBase ≤ k ∧ k < reserveBase then
      0x0A3 + (k - bstoreBase) % 8388608 * 65536 + (k - bstoreBase) / 8388608 % 8 * 2 ^ 39
    else if trackBase ≤ k ∧ k < bstoreBase then
      (positionRecord k).toNat
    else (sramRecord (k / 8)).toNat)
/-- What a read of bytes at a key meets: a record, or nothing. -/
def State.readRecord (s : State) (k n fresh : Nat) : Option Word :=
  (wordsOf k n).findSome? fun w =>
    if s.bad.contains w then some (badRecord (8 * w))
    else match s.tagOf w with
    | .poison => some (s.wordAt (8 * w))
    | .res => some (freeRecord 0x0A1 fresh)
    | _ => none
/-- An uncorrectable near-SRAM word becomes POISON when a read finds it; an error that can be corrected is (R402). -/
def State.poisonBad (s : State) (c : Change) (k n : Nat) : Change :=
  (wordsOf k n).foldl (fun c w =>
    if s.sramBad w then c.sramPoison w else if s.sramSoft w then c.sramFix w else c) c
/-- The bytes at a place, once its reads are allowed. -/
def State.placeBytes (s : State) (pl : Place) (n : Nat) (key : List Word) : List Byte :=
  match pl with
  | .near p o => s.nearBytes p o n
  | .bstore r o => s.bytesAt (bstoreKey r o) n
  | .phys pa => s.physBytes pa n key
  | _ => []
/-- Write bytes at a place. -/
def State.placeWrite (s : State) (c : Change) (pl : Place) (bs : List Byte) (key : List Word) : Change :=
  match pl with
  | .near p o => s.nearWrite c p o bs
  | .bstore r o => c.write (bstoreKey r o) bs
  | .phys pa => s.physWrite c pa bs key
  | _ => c
/-- An access from another core touches what a core has granted (R376). -/
def Change.touchPlace (c : Change) (pl : Place) (n : Nat) : Change :=
  match pl with
  | .near p o => c.touch p o n
  | _ => c

end Sys2Proof.Machine
end

