-- ==== Sys2Proof/Machine/CopyEngine.lean ====
section
/-!
DEFINITION. The copy engines: queueing and starting a copy, its locks, its reads, its writes, and its completion (R246, R281,
R334 to R344).
-/

namespace Sys2Proof.Machine

/-! ## Addresses of elements (R336) -/

/-- Where an element of `n` bytes lies: a position of a track with a byte in it, or another place. -/
inductive Spot where
  | track (t q b : Nat)
  | place (pl : Place)
deriving DecidableEq, Repr
def State.spot (s : State) (p : Nat) (md : AddrMode) (v n : Nat) : Except Nat Spot :=
  if md = .l ∧ 0x40000 ≤ v ∧ v + n ≤ 0x240000 then
    .ok (.track ((v - 0x40000) / 65536) ((v - 0x40000) / 256 % 256) (v % 256))
  else if md = .l then (if v + n ≤ 0x40000 then .ok (.place (.near p v)) else .error 0x081)
  else match s.badRange (physCluster p) md v n with
  | some (c, _) => .error c
  | none => .ok (.place (s.place p md v))

/-- The FILL pattern of an element (R334). -/
def fillPattern (w : List Word) : List Byte :=
  let f := bits (recW w 10) 48 16
  let two := natBytes 2 f
  if recEsz w = 0 then natBytes 1 f else (List.replicate (recSize w / 2) two).flatten
/-- Length of the run of elements from `n` whose bytes are contiguous and lie in one aligned block (R340); `same` says which
elements may stand beside element `n`. -/
def elemRun (addr : Nat → Nat) (same : Nat → Bool) (n size total block : Nat) : Nat :=
  1 + ((List.range (block / size - 1)).takeWhile fun i =>
    decide (n + i + 1 < total) && same (n + i + 1) && decide (addr (n + i + 1) = addr n + (i + 1) * size) &&
      decide (addr (n + i + 1) / block = addr n / block)).length
/-- The parts of a run of `m` elements from `n` at address `a` that lie in one place: all of it, or its words under `.ci`, which stand in
different cores. (DEDUCED, log entry 53.) -/
def runParts (md : AddrMode) (a size n m : Nat) : List (Nat × Nat) :=
  if md = .ci then
    (List.range ((a + m * size + 7) / 8 - a / 8)).map fun j =>
      let lo := max a (8 * (a / 8 + j))
      (n + (lo - a) / size, (min (a + m * size) (8 * (a / 8 + j) + 8) - lo) / size)
  else [(n, m)]

/-! ## Ranges and locks (R281) -/

/-- The bytes of flat storage that an address range of a mode covers; the range may pass the end of the address space (R336). -/
def State.modeRanges (s : State) (p : Nat) (md : AddrMode) (lo n : Nat) : List (Nat × Nat) :=
  let clu := physCluster p
  let piece (a m b e : Nat) : List (Nat × Nat) := if max a b < min (a + m) e then [(max a b, min (a + m) e - max a b)] else []
  let cut (b e : Nat) : List (Nat × Nat) := piece lo (min n (2 ^ 64 - lo)) b e ++ piece 0 (lo + n - 2 ^ 64) b e
  match md with
  | .l =>
    ((cut 0 0x40000).map fun r => (nearKey p r.1, r.2)) ++ (cut 0x40000 0x240000).map fun r => (trackKey p 0 0 (r.1 - 0x40000), r.2)
  | .cd => (List.range 200).flatMap fun sel =>
      (cut (sel * 8388608) (sel * 8388608 + if 192 ≤ sel then 8388608 else 0x40000)).map fun r =>
        if 192 ≤ sel then (bstoreKey (clu * 8 + (sel - 192)) (r.1 % 8388608), r.2)
        else (nearKey (s.phys (logicalAt clu sel)) (r.1 % 8388608), r.2)
  | .ci => (cut 0 0x3000000).flatMap fun r => (List.range ((r.1 + r.2 + 7) / 8 - r.1 / 8)).map fun i =>
      let w := r.1 / 8 + i
      let a := max r.1 (8 * w)
      (nearKey (s.phys (logicalAt clu (w % 192))) (w / 192 * 8 + a % 8), min (r.1 + r.2) (8 * w + 8) - a)
  | .g => []
/-- The physical lines that a `.g` side reaches, as the tables stand. (DEDUCED, log entry 54.) -/
def State.sideLines (s : State) (o : Origin) (addr : Nat → Nat) (used : Nat → Bool) (total : Nat) : List Nat :=
  ((List.range total).filterMap fun n =>
    if !used n then none
    else match s.walkAll o.tenant o.pid (addr n) 6 5 0 with
    | .leaf level e => (match s.leafPlace o.tenant (addr n) level e false false with
      | .ok (.phys pa, _) => some (pa / 64)
      | _ => none)
    | _ => none).eraseDups
/-- The locks that a copy registers: those of its cluster's table and those of the home slices. -/
def State.copyLocks (s : State) (id : Nat) (k : Copy) : List Lock × List Lock :=
  let w := k.words
  let side (md : AddrMode) (r : Nat × Nat) (wr : Bool) (addr : Nat → Nat) (used : Nat → Bool) : List Lock × List Lock :=
    if r.2 = 0 then ([], [])
    else if md = .g then
      let ls := s.sideLines k.org addr used (recTotal w)
      ([], if ls.isEmpty then [] else [{ owner := copyOwner id, write := wr, ranges := ls.map fun l => (64 * l, 64) }])
    else ([{ owner := copyOwner id, write := wr, ranges := s.modeRanges k.core md r.1 r.2 }], [])
  let a := side (recSmode w) (srcRange w) false (recSrc w) (fun n => !recFilled w n)
  let b := side (recDmode w) (dstRange w) true (recDst w) (fun _ => true)
  (a.1 ++ b.1, a.2 ++ b.2)
/-- Give locks of a cluster's table its lowest free entries; none if there is no room. -/
def placeLocks : List Lock → List Lock → Option (List Lock)
  | [], t => some t
  | l :: ls, t => match freeEntry t with
    | none => none
    | some e => placeLocks ls (t ++ [{ l with entry := e }])
/-- Every slice has room for the entries that new locks take there, 128 in all. -/
def sliceRoom (t new : List Lock) : Bool :=
  (List.range 128).all fun n =>
    let uses (l : Lock) : Bool := l.ranges.any fun r => sliceOf r.1 == n
    decide (((t ++ new).filter uses).length ≤ 128)
/-- Register every lock of an operation in one step; none when a table lacks room or a range conflicts. -/
def State.tryLocks (s : State) (c : Change) (clu owner : Nat) (ls : List Lock × List Lock) : Option Change :=
  let bad (t : List Lock) (l : Lock) : Bool := lockConflict t owner l.write l.ranges
  if ls.1.any (bad (s.clu clu).locks) || ls.2.any (bad s.dev.sliceLocks) || !sliceRoom s.dev.sliceLocks ls.2 then none
  else match placeLocks ls.1 (s.clu clu).locks with
  | none => none
  | some t => some ((c.clu clu fun k => { k with locks := t }).dv fun d => { d with sliceLocks := d.sliceLocks ++ ls.2 })

/-- The home slices in which locks take entries. -/
def slicesOf (ls : List Lock) : List Nat := (ls.flatMap fun l => l.ranges.map fun r => sliceOf r.1).eraseDups
/-- The home slices that a waiting operation needs. -/
def State.waiterSlices (s : State) (o : Nat) : List Nat :=
  if o % 4 ≠ 0 then []
  else match s.dev.copies.find (o / 4) with
  | some k => slicesOf (s.copyLocks (o / 4) k).2
  | none => []
/-- An operation that tried before this one still waits, for its cluster's table or for a slice that both need: they register in the
order in which they first tried (R281). -/
def State.lockBehind (s : State) (o : Nat) : Bool :=
  s.waitsInCluster o (s.waiterCluster o) ||
    (s.dev.lockWait.takeWhile (· != o)).any fun x => (s.waiterSlices x).any (s.waiterSlices o).contains
/-- An access of a copy meets a lock of another operation, for which it waits (R341). -/
def State.copyLocked (s : State) (copy k n : Nat) (wr : Bool) : Bool :=
  (lockHit ((s.locksAt k).filter fun l => l.owner != copyOwner copy) k n wr).isSome

/-! ## Starting a copy (R339) -/

/-- The copy stands in its engine's queue no more: its elements are all performed, or it has been stopped. -/
def Copy.over (k : Copy) : Bool := k.accepted || k.cancelled || k.complete
/-- A copy is among the first 16 of its engine's queue, and fewer than 16 run. -/
def State.amongFirst (s : State) (id : Nat) (k : Copy) : Bool :=
  let queue := s.dev.copies.filter fun e => e.2.engine == k.engine && !e.2.over
  decide ((queue.filter fun e => decide (e.1 < id)).length < 16) && decide ((queue.filter fun e => e.2.started).length < 16)
/-- The queue of an engine has moved: its waiting copies look again in the next cycle. -/
def Change.queueMoved (c : Change) (engine : Nat) : Change :=
  (c.dev.copies.filter fun e => e.2.engine == engine && !e.2.started && !e.2.over).foldl (fun c e =>
    c.sched (c.dev.now + 1) .copyStart { a := e.1 }) c
/-- A copy that an earlier one of the same engine has still to join the queue before (R339). -/
def State.copyBehind (s : State) (id engine : Nat) : Bool :=
  s.dev.flights.any fun f => decide (f.1 < id) && (match f.2.cargo with
    | .effect (.copy ..) => s.engineOf f.2.org.core == engine
    | _ => false)
/-- Track sides of a copy: source, destination. -/
def srcTrack (w : List Word) : Option Nat := match viewTrack (recSmode w) (srcRange w) with
  | .ok t => t
  | _ => none
def dstTrack (w : List Word) : Option Nat := match viewTrack (recDmode w) (dstRange w) with
  | .ok t => t
  | _ => none
/-- The engine has its next turn in the next cycle. -/
def Change.engineTurn (c : Change) (e : Nat) : Change :=
  if c.dev.engineDue.contains e then c
  else (c.dv fun d => { d with engineDue := e :: d.engineDue }).sched (c.dev.now + 1) .copyRequest { a := e }
/-- How many consecutive indices from `n`, of at most `k`, meet a test. -/
def visitLen (f : Nat → Bool) : Nat → Nat → Nat
  | 0, _ => 0
  | k + 1, n => if f n then visitLen f k (n + 1) + 1 else 0
/-- The position of its track at which an address of the track view lies. -/
def viewPos (v : Nat) : Nat := (v - 0x40000) / 256 % 256
/-- Some element from `n` on is read from the source. -/
def readsFrom (w : List Word) (n : Nat) : Bool := decide (n + visitLen (recFilled w) (recTotal w - n) n < recTotal w)
/-- A copy's stream on a track has passed its last position there. -/
def Change.leaveTrack (c : Change) (p t id : Nat) : Change :=
  c.trk p t fun k => if k.stream.contains id then { k with stream := k.stream.filter (· != id), failed := false } else k
def Change.endStream (c : Change) (p : Nat) (t : Option Nat) (id : Nat) : Change := match t with
  | some t => c.leaveTrack p t id
  | none => c
def Change.endStreams (c : Change) (id : Nat) (k : Copy) : Change :=
  (c.endStream k.core (srcTrack k.words) id).endStream k.core (dstTrack k.words) id
/-- A side of a running copy whose last element has passed lets go of its track; a copy with both sides in one track ends there with its
destination. -/
def Change.passStreams (c : Change) (id : Nat) : Change :=
  match c.dev.copies.find id with
  | none => c
  | some k =>
    let c := if srcTrack k.words ≠ dstTrack k.words ∧ !readsFrom k.words k.next then c.endStream k.core (srcTrack k.words) id else c
    if recTotal k.words ≤ k.done + k.restart then c.endStream k.core (dstTrack k.words) id else c
/-- The copy runs; a track side streams from now on, behind a copy that streams there already (R246). (DEDUCED, log entry 120.) -/
def Change.runCopy (c : Change) (id : Nat) (k : Copy) : Change :=
  let c := (c.dv fun d => { d with copies := d.copies.set id { k with started := true }
                                   lockWait := d.lockWait.filter (· != copyOwner id) }).count k.core 36
  let c := ((srcTrack k.words).toList ++ (dstTrack k.words).toList).foldl (fun c t =>
    (c.trk k.core t fun x => { x with stream := if x.stream.contains id then x.stream else x.stream ++ [id] }).touchTrack k.core t) c
  (c.passStreams id).engineTurn k.engine
/-- A released copy joins its engine's queue; a queued one starts, or waits to register its locks. Arg: copy, which has the
number of the flight that brought it. -/
def execCopyStart (s : State) : Out :=
  let id := s.dev.arg.a
  s.occur <| match s.flight with
  | some f => (match f.cargo with
    | .effect (.copy ws xid) =>
      let k : Copy := { org := f.org, core := f.org.core, xid := xid, words := ws, engine := s.engineOf f.org.core }
      if s.copyBehind id k.engine || decide (384 ≤ k.engine) then s.again .copyStart
      else ((s.keep.landed id).dv fun d => { d with copies := d.copies.set id k }).sched (s.dev.now + 1) .copyStart { a := id }
    | _ => s.keep)
  | none => match s.dev.copies.find id with
    | none => s.keep
    | some k =>
      if k.started || k.over || !s.amongFirst id k then s.keep
      else if recLock k.words then
        (if s.dev.lockWait.contains (copyOwner id) then s.keep
          else (s.keep.lockJoin (copyOwner id)).sched (s.dev.now + 1) .rangeLockRegister { a := copyOwner id })
      else s.keep.runCopy id k

/-- A waiting copy or rotation tries to register its locks. Arg: owner. -/
def execRangeLockRegister (s : State) : Out :=
  let o := s.dev.arg.a
  let clu := s.waiterCluster o
  s.occur <|
    if !s.dev.lockWait.contains o then s.keep
    else if s.lockBehind o then s.again .rangeLockRegister
    else if o % 4 = 1 then
      (match (s.clu clu).arrivals.head? with
        | none => s.keep.lockLeave o
        | some r =>
          let rs := (s.ranks clu).map fun p => (nearKey p r.base, r.len)
          match freeEntry (s.clu clu).locks, lockConflict (s.clu clu).locks o true rs with
          | some e, false => s.startRotation (s.keep.lockLeave o) clu e
          | _, _ => s.again .rangeLockRegister)
    else match s.dev.copies.find (o / 4) with
    | none => s.keep.lockLeave o
    | some k =>
      match s.amongFirst (o / 4) k, s.tryLocks s.keep clu o (s.copyLocks (o / 4) k) with
      | true, some c => c.runCopy (o / 4) k
      | _, _ => s.again .rangeLockRegister

/-! ## Faults and progress of elements (R337) -/

/-- Element `n` has faulted with a cause. -/
def Copy.faulted (k : Copy) (n cause : Nat) : Copy :=
  { k with fault := match k.fault with
      | some (m, x) => if m ≤ n then some (m, x) else some (n, cause)
      | none => some (n, cause) }
def Change.updCopy (c : Change) (id : Nat) (f : Copy → Copy) : Change :=
  match c.dev.copies.find id with
  | none => c
  | some k => c.dv fun d => { d with copies := d.copies.set id (f k) }
/-- Elements have been performed; when they are all, the copy ends. -/
def Change.didElements (c : Change) (id m : Nat) : Change :=
  match c.dev.copies.find id with
  | none => c
  | some k =>
    let c := c.updCopy id fun k => { k with done := k.done + m }
    if recTotal k.words ≤ k.done + m + k.restart then (c.soon .copyCompletion { a := id }).queueMoved k.engine else c
/-- The record of a faulting element in a POISON word, as R337's table states it. (DEDUCED, log entry 132.) -/
def elementRecord (n cause : Nat) : Word := BitVec.ofNat 64 (cause + n % 2 ^ 48 * 65536)
/-- The bytes of element `n` that stand, byte by byte: an element of a higher index has not written them (R341). -/
def Copy.mayWrite (k : Copy) (key n : Nat) : Bool := match k.wrote.find key with
  | some m => decide (m ≤ n)
  | none => true
/-- Perform elements from `n` on at consecutive bytes from a key of near SRAM or a track. -/
def State.putElements (s : State) (c : Change) (id n key : Nat) (data : List (Nat × List Byte)) : Change :=
  (data.zipIdx.foldl (fun (a : Change × Nat) d =>
    let (c, k0) := a
    let (cause, bs) := d.1
    let m := n + d.2
    let w := k0 / 8
    (match c.dev.copies.find id with
      | none => c
      | some k =>
        if cause ≠ 0 then
          ((if (k.bads.find w).isSome then c else (c.putWord (8 * w) (elementRecord m cause) .poison).updCopy id fun k =>
            { k with bads := k.bads.set w (elementRecord m cause) }).updCopy id fun k => k.faulted m cause)
        else if (k.bads.find w).isSome then c
        else bs.zipIdx.foldl (fun c b =>
          if k.mayWrite (k0 + b.2) m then
            (match s.dev.cores.find ((k0 - nearBase) / 262144) with
              | some _ => if k0 < trackBase then s.nearWrite c ((k0 - nearBase) / 262144) ((k0 + b.2 - nearBase) % 262144) [b.1]
                else c.write (k0 + b.2) [b.1]
              | none => c.write (k0 + b.2) [b.1]).updCopy id fun k => { k with wrote := k.wrote.set (k0 + b.2) m }
          else c) c,
      k0 + bs.length)) (c, key)).1
/-- Perform elements in device memory or a B-store: a faulting element, and one that writes part of an uncorrectable word, is
not written. -/
def State.putFar (s : State) (c : Change) (id n : Nat) (pl : Place) (key : List Word) (data : List (Nat × List Byte)) : Change :=
  (data.zipIdx.foldl (fun (a : Change × Nat) d =>
    let (c, off) := a
    let (cause, bs) := d.1
    let m := n + d.2
    let at_ : Place := match pl with
      | .bstore r o => .bstore r (o + off)
      | .phys pa => .phys (pa + off)
      | x => x
    let k0 := at_.key
    let broken := (wordsOf k0 bs.length).any fun w => s.bad.contains w && !(decide (k0 ≤ 8 * w) && decide (8 * w + 8 ≤ k0 + bs.length))
    let c :=
      if cause ≠ 0 then c.updCopy id fun k => k.faulted m cause
      else if broken then c.updCopy id fun k => k.faulted m (if k0 < nearBase then 0x0A0 else 0x0A3)
      else match c.dev.copies.find id with
      | none => c
      | some k =>
        let old := (s.apply c).placeBytes at_ bs.length key
        let new := bs.zipIdx.map fun b => if k.mayWrite (k0 + b.2) m then b.1 else old.getD b.2 0
        ((s.apply c).placeWrite c at_ new key).updCopy id fun k =>
          { k with wrote := (List.range bs.length).foldl (fun t b => if k.mayWrite (k0 + b) m then t.set (k0 + b) m else t) k.wrote }
    (c, off + bs.length)) (c, 0)).1
/-- Bytes of a list of elements. -/
def dataBytes (data : List (Nat × List Byte)) : Nat := data.foldl (fun n d => n + d.2.length) 0

/-! ## A track side (R246, R338, R342) -/

/-- A marker check has passed: ERR clears (R248). (DEDUCED, log entry 108.) -/
def Change.markerPassed (c : Change) (p t : Nat) : Change := c.trk p t fun k => { k with err := false, failed := false }
/-- The head comes to a position: it stands there and its marker passes, or what to do first. -/
inductive Heading where
  | there
  | moving (c : Change)
  | broken
deriving Repr
def State.headTo (s : State) (c : Change) (id p t q : Nat) : Heading :=
  let k := s.track p t
  if k.shifting || k.align || k.h != k.t || k.stream.head? != some id then .moving c
  else if k.h ≠ q then .moving ((c.trk p t fun k => { k with failed := false }).seek p t q)
  else match k.check k.h with
  | none => .there
  | some m =>
    let raw := k.marker ((k.h + k.off) % 256)
    let done := s.dev.now + { k with mofs := m : Track }.cost
    if crc8 (raw / 256 % 256) ≠ raw % 256 && k.failed then .broken
    else .moving (((c.trk p t fun k => Track.aligning { k with mofs := m } done).sched done .autoRealign { a := p, b := t, c := 16 }).count p 11)
/-- A position holds more errors than its code corrects (R249). -/
def State.posBroken (s : State) (p t q : Nat) : Bool := (List.range 32).any fun i => s.bad.contains (trackKey p t q 0 / 8 + i)

/-! ## Requests (R340) -/

/-- Data has come back to the engine; a stopped copy into a track has no use for what stands behind its next element (R367). -/
def Change.arrived (c : Change) (id n : Nat) (cycle : Nat) (data : List (Nat × List Byte)) : Change :=
  c.updCopy id fun k =>
    if k.paused && (dstTrack k.words).isSome && decide (k.next ≤ n) then k else { k with ready := k.ready ++ [(n, cycle, data)] }
/-- A copy that is running and not stopped. -/
def Copy.live (k : Copy) : Bool := k.started && !k.cancelled && !k.accepted
/-- An element that the FILL pattern fills. -/
def fillElement (w : List Word) : Nat × List Byte := (0, fillPattern w)
/-- A part of a request or a write of a copy sets out; `pl` is the place of its run's first part. -/
def State.copyFlies (s : State) (c : Change) (k : Copy) (md : AddrMode) (v : Nat) (pl : Place) (wr : Bool) (q : Cargo) : Change :=
  let pl := if md = .ci then s.place k.core md v else pl
  let fid := c.dev.fresh
  let c := c.tick.dv fun d => { d with flights := d.flights.set fid { org := k.org, cargo := q, place := pl, write := wr } }
  match pl with
  | .virt _ => c.soon .translation { a := fid }
  | _ => c.soon .arrivingAccess { a := fid }
/-- A request of a copy holds its tag: a part of it is under way, or on its way back (R340). -/
def State.reqOpen (s : State) (id : Nat) (k : Copy) (r : Nat × Nat) : Bool :=
  let within_ (n : Nat) : Bool := decide (r.1 ≤ n) && decide (n < r.1 + r.2)
  (k.ready.any fun x => decide (s.dev.now < x.2.1) && within_ x.1) || s.dev.flights.any fun f => match f.2.cargo with
    | .copyRead i n .. => i == id && within_ n
    | _ => false
/-- One request of a copy, if it can make one. A track side reads all the elements of a visit, filled ones between them included; where
both sides lie in one track, an element is written before the next is read (R342). -/
def State.requestOf (s : State) (c : Change) (id : Nat) (k : Copy) : Change :=
  let w := k.words
  let total := recTotal w
  let n := k.next
  let size := recSize w
  let onTo (c : Change) (m : Nat) : Change := (c.updCopy id fun k => { k with next := n + m }).passStreams id
  if k.mismatch then
    onTo ((c.updCopy id fun k => { k with mismatch := false }).arrived id n s.dev.now [(0x1E0, List.replicate size 0)]) 1
  else if recFilled w n then
    let m := elemRun (recDst w) (recFilled w) n size total 256
    onTo (c.arrived id n s.dev.now (List.replicate m (fillElement w))) m
  else
    let v := recSrc w n
    match s.spot k.core (recSmode w) v size with
    | .error cause => onTo (c.arrived id n s.dev.now [(cause, List.replicate size 0)]) 1
    | .ok (.track t q _) =>
      let both := dstTrack w = some t
      let m := if both then 1 else visitLen (fun i => recFilled w i || viewPos (recSrc w i) == q) (total - n) n
      let locked (i : Nat) : Bool := !recFilled w (n + i) && s.copyLocked id (trackKey k.core t q (recSrc w (n + i) % 256)) size false
      if (both ∧ n ≠ k.done + k.restart) ∨ (List.range m).any locked then c
      else
        let visit (f : Nat → Nat × List Byte) : List (Nat × List Byte) :=
          (List.range m).map fun i => if recFilled w (n + i) then fillElement w else f (n + i)
        match s.headTo c id k.core t q with
        | .moving c => c
        | .broken => onTo (c.arrived id n s.dev.now (visit fun _ => (0x101, List.replicate size 0))) m
        | .there =>
          let one (i : Nat) : Nat × List Byte :=
            let a := trackKey k.core t q (recSrc w i % 256)
            if s.posBroken k.core t q then (0x108, List.replicate size 0)
            else match s.readRecord a size s.dev.fresh with
            | some r => (r.toNat % 512, List.replicate size 0)
            | none => (0, s.bytesAt a size)
          onTo ((c.markerPassed k.core t).arrived id n s.dev.now (visit one)) m
    | .ok (.place pl) =>
      let m := elemRun (recSrc w) (fun i => !recFilled w i) n size total 256
      (runParts (recSmode w) v size n m).foldl (fun c r => s.copyFlies c k (recSmode w) (recSrc w r.1) pl false (.copyRead id r.1 r.2 (r.2 * size)))
        (onTo (c.updCopy id fun k => { k with reqs := k.reqs.filter (s.reqOpen id k) ++ [(n, m)] }) m)
/-- The first running copy after the round-robin pointer that still has elements to request. -/
def afterKey (last : Nat) (ks : List Nat) : Option Nat := match ks.find? fun k => decide (last < k) with
  | some k => some k
  | none => ks.head?
/-- The tags of an engine that are held: its requests under way, and those whose data is on its way back (R340). -/
def State.tagsHeld (s : State) (e : Nat) : Nat :=
  (s.dev.copies.filter fun k => k.2.engine == e).foldl (fun n k => n + (k.2.reqs.filter (s.reqOpen k.1 k.2)).length) 0
/-- One cycle of an engine: at most one request; its writes follow in the same cycle. Arg: engine. -/
def execCopyRequest (s : State) : Out :=
  let e := s.dev.arg.a
  let mine := s.dev.copies.filter fun k => k.2.engine == e && k.2.live
  let open_ := mine.filter fun k => !k.2.paused && decide (k.2.next < recTotal k.2.words)
  let c := s.keep.dv fun d => { d with engineDue := d.engineDue.filter (· != e) }
  s.occur <|
    if mine.isEmpty then c
    else if (s.clu (e / 4)).gated then c.engineTurn e
    else
      let c := match afterKey (s.dev.engineRr.get 0 e) (open_.map fun k => k.1) with
        | none => c
        | some id => match s.dev.copies.find id with
          | none => c
          | some k =>
            if 1024 ≤ s.tagsHeld e then c
            else s.requestOf (c.dv fun d => { d with engineRr := d.engineRr.set e id }) id k
      (c.sched s.dev.now .copyWrite { a := e }).engineTurn e

/-! ## Writes (R340 to R342) -/

/-- Element `n`, if it has come back. -/
def Copy.element (k : Copy) (now n : Nat) : Option (Nat × List Byte) :=
  (k.ready.find? fun r => decide (r.1 ≤ n) && decide (n < r.1 + r.2.2.length) && decide (r.2.1 ≤ now)).bind fun r => r.2.2[n - r.1]?
/-- The first of the elements that a copy writes next: for a track side the lowest index, else the first that has come back. -/
def Copy.pickReady (k : Copy) (now : Nat) : Option Nat :=
  if (dstTrack k.words).isSome then
    (if (k.element now (k.done + k.restart)).isSome then some (k.done + k.restart) else none)
  else (k.ready.find? fun r => decide (r.2.1 ≤ now)).map fun r => r.1
/-- The elements from `n` on that one write takes: those of a visit of a track's position, as far as a stopped copy has come, or those that have come back and whose bytes
are contiguous in one block. -/
def Copy.writeRun (k : Copy) (now n : Nat) : Nat :=
  let w := k.words
  match dstTrack w with
  | some t =>
    if srcTrack w = some t then 1
    else visitLen (fun i => viewPos (recDst w i) == viewPos (recDst w n)) ((if k.paused then k.next else recTotal w) - n) n
  | none => elemRun (recDst w) (fun i => (k.element now i).isSome) n (recSize w) (recTotal w) 256
/-- Take elements off the runs that have come back. -/
def Copy.takeReady (k : Copy) (n m : Nat) : Copy :=
  { k with ready := k.ready.flatMap fun r =>
      let low := if r.1 < n then [(r.1, r.2.1, r.2.2.take (n - r.1))] else []
      let high := if n + m < r.1 + r.2.2.length then [(max r.1 (n + m), r.2.1, r.2.2.drop (n + m - r.1))] else []
      low ++ high }
/-- One write of a copy, of elements from `n` on; a visit of a track is written when all its elements have come back. A write to an
uncorrectable position replaces its code, and the words that no element writes keep their bytes, FULL. (DESIGN CHOICE, log entry
137.) -/
def State.writeOf (s : State) (c : Change) (id : Nat) (k : Copy) (n : Nat) : Change :=
  let w := k.words
  let size := recSize w
  let m := k.writeRun s.dev.now n
  match (List.range m).mapM fun i => k.element s.dev.now (n + i) with
  | none => c
  | some data =>
    match s.spot k.core (recDmode w) (recDst w n) size with
    | .error cause =>
      (c.updCopy id fun k => (k.takeReady n 1).faulted n (match data.head? with
        | some (x, _) => if x = 0 then cause else x
        | none => cause)).didElements id 1
    | .ok (.track t q _) =>
      if (List.range m).any fun i => s.copyLocked id (trackKey k.core t q (recDst w (n + i) % 256)) size true then c
      else
        let put (c : Change) (data : List (Nat × List Byte)) : Change :=
          data.zipIdx.foldl (fun c d => s.putElements c id (n + d.2) (trackKey k.core t q (recDst w (n + d.2) % 256)) [d.1])
            (s.trackTouched c k.core t q)
        let visited (c : Change) : Change :=
          let c := (List.range 32).foldl (fun c i => c.op (.bad (trackKey k.core t q 0 / 8 + i) false)) c
          (((c.conflict k.org true (trackKey k.core t q 0) 256).updCopy id fun k => k.takeReady n m).didElements id m).passStreams id
        match s.headTo c id k.core t q with
        | .moving c => c
        | .broken => visited (put c (data.map fun d => (0x101, d.2)))
        | .there => visited ((put (c.markerPassed k.core t) data).count k.core 37 (dataBytes (data.filter fun d => d.1 = 0)))
    | .ok (.place pl) =>
      (runParts (recDmode w) (recDst w n) size n m).foldl (fun c r =>
        s.copyFlies c k (recDmode w) (recDst w r.1) pl true (.copyWrite id r.1 ((data.drop (r.1 - n)).take r.2))) (c.updCopy id fun k => k.takeReady n m)
/-- At most one write of an engine in a cycle, round-robin. Arg: engine. -/
def execCopyWrite (s : State) : Out :=
  let e := s.dev.arg.a
  let can := s.dev.copies.filter fun k => k.2.engine == e && k.2.live && (k.2.pickReady s.dev.now).isSome
  s.occur <| match afterKey (s.dev.engineWr.get 0 e) (can.map fun k => k.1) with
  | none => s.keep
  | some id => match s.dev.copies.find id with
    | none => s.keep
    | some k => match k.pickReady s.dev.now with
      | none => s.keep
      | some n => s.writeOf (s.keep.dv fun d => { d with engineWr := d.engineWr.set e id }) id k n

/-! ## Completion (R283, R343) -/

/-- The status word (R188). -/
def Copy.status (k : Copy) : Word :=
  if k.cancelled then 1
  else match k.fault with
  | some (n, cause) => BitVec.ofNat 64 (n % 2 ^ 32 * 65536 + cause * 128 + 2)
  | none => 0
/-- Bytes of the input buffer in use: what stands on the channels and in the task queue, and what repeatable activations that are
not open keep for redelivery (R222, R237). (DEDUCED, log entry 107.) -/
def Core.inputBytes (k : Core) : Nat :=
  let kept := k.ctxs.flatMap fun x => if x.2.live ∧ x.2.act.rep ∧ !x.2.act.open_ then x.2.act.kept ++ x.2.act.trig.toList else []
  let all := k.chans.flatMap (fun c => c.2) ++ k.tasks ++ kept
  (all.foldl (fun (a : List Nat × Nat) m => if a.1.contains m.seq then a else (m.seq :: a.1, a.2 + m.cost)) ([], 0)).2
/-- Room for a message that the device makes, and for one that an instruction sends. -/
def Core.roomDevice (k : Core) (cost : Nat) : Bool := decide (k.inputBytes + cost ≤ 16384)
def Core.roomSent (k : Core) (cost : Nat) : Bool := decide (k.inputBytes + cost + 2048 ≤ 16384)
/-- Put a message on its channel; it counts as arrived from the next cycle. -/
def Change.acceptMsg (c : Change) (p : Nat) (m : Msg) : Change :=
  let now := c.dev.now
  c.core p fun k => { k with
    seq := k.seq + 1, chans := k.chans.upd [] m.chan fun l => l ++ [{ m with seq := k.seq + 1, at_ := now }] }
/-- The core's bindings look again in the next cycle. -/
def Change.clearLocks (c : Change) (clu owner : Nat) : Change :=
  (c.clu clu fun k => { k with locks := k.locks.filter fun l => l.owner != owner }).dv fun d =>
    { d with sliceLocks := d.sliceLocks.filter fun l => l.owner != owner, lockWait := d.lockWait.filter (· != owner) }
/-- A copy's flights go with it. -/
def Change.dropCopyFlights (c : Change) (id : Nat) : Change :=
  c.dv fun d => { d with flights := d.flights.filter fun f => match f.2.cargo with
    | .copyRead k .. => k != id
    | .copyWrite k .. => k != id
    | _ => true }
/-- A copy has ended or is stopped: a stopped one stops at once, and its completion sets out; the completion message is accepted when it
has room. Arg: copy, 1 to stop it. (DEDUCED, log entry 52.) -/
def execCopyCompletion (s : State) : Out :=
  let id := s.dev.arg.a
  s.occur <| match s.dev.copies.find id with
  | none => s.keep
  | some k =>
    if k.accepted || !(k.cancelled || decide (recTotal k.words ≤ k.done + k.restart)) then s.keep
    else
      let clu := physCluster k.core
      let c := if k.cancelled then
          (((s.keep.dropCopyFlights id).clearLocks clu (copyOwner id)).endStreams id k).queueMoved k.engine
        else s.keep
      if s.dev.arg.b = 1 then c.soon .copyCompletion { a := id }
      else if !(s.core k.core).roomDevice 16 then c.sched (s.dev.now + 1) .copyCompletion { a := id }
      else
        let m : Msg := {
          org := k.org, device := true, chan := 2, words := [(BitVec.ofNat 64 (recPri k.words), false)], cost := 16
          entry := recHaddr k.words, done := some (BitVec.ofNat 64 k.xid, k.status) }
        let c := ((c.clearLocks clu (copyOwner id)).copyEnds k.core k.xid k.status).acceptMsg k.core m
        c.updCopy id fun k => { k with accepted := true, ready := [], wrote := [], bads := [] }

end Sys2Proof.Machine
end

