-- ==== Sys2Proof/Machine/Fetch.lean ====
section
/-!
DEFINITION. Fetching a group: its words, its decoding, the checks that are made before it issues (R18 to R23, R29 to R31), the
privileged forms, and the two events of a group that fails them.
-/

namespace Sys2Proof.Machine

/-! ## Words (R23) -/

/-- Local stores that were issued one to three cycles ago and touch an instruction word, newest first. -/
def State.freshStores (s : State) (p a : Nat) : List (Nat × Nat × List Byte) :=
  (s.core p).recent.filter fun r => decide (r.1 < s.dev.now) && decide (s.dev.now ≤ r.1 + 3) && overlaps a 4 r.2.1 r.2.2.length
/-- Undo a store in the bytes of a word. -/
def undoStore (a : Nat) (bs : List Byte) (r : Nat × Nat × List Byte) : List Byte :=
  bs.zipIdx.map fun b => if r.2.1 ≤ a + b.2 ∧ a + b.2 < r.2.1 + r.2.2.length then r.2.2.getD (a + b.2 - r.2.1) b.1 else b.1
/-- The instruction word at an address of near SRAM. Of the stores of the last three cycles it may miss the latest ones: word `n`
of the group takes a choice of its own. (DESIGN CHOICE, log entry 14.) -/
def State.fetchWord (s : State) (p a n : Nat) : Nat :=
  let late := s.freshStores p a
  leNat (if late.isEmpty then s.nearBytes p a 4
    else (late.take (Config.choice (s.dev.fresh + n) % (late.length + 1))).foldl (undoStore a) (s.nearBytes p a 4))
/-- The fault of an instruction word: an uncorrectable word becomes POISON, and a POISON word raises what it records. -/
def State.fetchPoison (s : State) (p a : Nat) : Option (Trap × Change) :=
  let w := nearKey p a / 8
  if s.sramBad w then
    some (s.recordTrap (sramRecord w) (localAddr (w * 8)), s.keep.sramPoison w)
  else if s.tagOf w = .poison then some (s.recordTrap (s.wordAt (w * 8)) (localAddr (w * 8)), s.keep)
  else none
/-- A group's words, which are one word of storage, are read: an error in it that can be corrected is (R402). -/
def State.fetchFixed (s : State) : Change := s.fixWords s.keep [nearKey s.here s.dev.cur.addr.toNat / 8]

/-! ## Destinations (R22) -/

/-- The workspace register that a word's destination field names: kind 0 w, 1 v, 2 m, 3 p, and its code; a queue is none. -/
def destOf (w : Nat) : Option (Nat × Nat) :=
  let op := w / 2 ^ 20 % 128
  let d := w / 2 ^ 15 % 32
  let kind : Option Nat :=
    if w / 2 ^ 30 % 2 = 0 then
      if [0x07, 0x08, 0x0E, 0x10, 0x13, 0x16, 0x20, 0x21, 0x29, 0x2C, 0x30, 0x31, 0x32, 0x42, 0x49, 0x4A, 0x52, 0x54, 0x55, 0x61,
        0x6B, 0x6D, 0x6E, 0x71, 0x78, 0x7C].contains op then some 0
      else if [0x17, 0x23, 0x25, 0x27, 0x3D, 0x3E, 0x53].contains op then some 1
      else none
    else if (decide (1 ≤ op) && decide (op ≤ 0x1D)) || [0x28, 0x2A, 0x62, 0x6A, 0x70, 0x7B].contains op ||
        (op == 0x7C && decide (w % 4 < 2)) then some 0
    else if op = 0x20 ∨ op = 0x21 ∨ op = 0x29 then some 3
    else if op = 0x4C ∨ op = 0x4D ∨ (0x6C ≤ op ∧ op ≤ 0x6F) then some 2
    else if 0x30 ≤ op ∧ op ≤ 0x75 then some 1
    else none
  match kind with
  | some 1 => if d < 16 then some (1, d) else none
  | some k => some (k, d)
  | none => none
/-- The two words of a pair name one register: two predicates share a word. (DEDUCED, log entry 12.) -/
def clash (w0 w1 : Nat) : Option (Nat × Nat) :=
  match destOf w0, destOf w1 with
  | some (k, a), some (k', b) => if k = k' ∧ (a = b ∨ k = 3) then some (k, a) else none
  | _, _ => none

/-! ## The group -/

/-- A fetched group: its size, its words and what they decode to. -/
inductive Fetched where
  | fault (t : Trap) (c : Change)
  | lone (w : Nat) (d : Decoded)
  | pair (w0 w1 : Nat) (d0 d1 : Decoded)

/-- The reason for which a word is illegal in its place: 5 and 6 are those of a pair's header (R20, R30). -/
def illegalReason (first : Bool) (w : Nat) : Option Nat :=
  let h := headerOf w
  let own : Nat := match decodeWord w with
    | .ok _ => 9
    | .error r => r.num
  let head : Nat := if first then (if !h.lone && h.ar then 5 else 9) else if h.lone || !h.ar || h.stall != 0 then 6 else 9
  let r := min own head
  if r < 9 then some r else none
/-- A fault of the group being presented. -/
def State.fetchTrap (s : State) (cause : Nat) (aux : Nat) : Fetched := .fault (s.trapHere cause (BitVec.ofNat 64 aux)) s.keep
def State.illegalAt (s : State) (second : Bool) (w reason : Nat) : Fetched :=
  .fault ({ s with dev := { s.dev with cur := { s.dev.cur with word := w, second := second } } : State }.illegal reason) s.keep
/-- Fetch the group at the address of the current context, with the checks of items 1 to 4 of R31. -/
def State.fetch (s : State) : Fetched :=
  let p := s.dev.cur.core
  let a := s.dev.cur.addr.toNat
  if a % 4 ≠ 0 ∨ 0x40000 ≤ a then s.fetchTrap 0x005 0
  else match s.fetchPoison p a with
  | some (t, c) => .fault t c
  | none =>
    let w0 := s.fetchWord p a 0
    if 2 ^ 31 ≤ w0 then
      match illegalReason true w0, decodeWord w0 with
      | some r, _ => s.illegalAt false w0 r
      | none, .ok d => .lone w0 d
      | none, .error r => s.illegalAt false w0 r.num
    else if a % 8 ≠ 0 then s.fetchTrap 0x002 w0
    else match s.fetchPoison p (a + 4) with
    | some (t, c) => .fault t c
    | none =>
      let w1 := s.fetchWord p (a + 4) 1
      match illegalReason true w0, illegalReason false w1, decodeWord w0, decodeWord w1 with
      | some r, _, _, _ => s.illegalAt false w0 r
      | none, some r, _, _ => s.illegalAt true w1 r
      | none, none, .ok d0, .ok d1 =>
        (match clash w0 w1 with
          | some (k, c) => s.fetchTrap 0x003 (k * 32 + c)
          | none => .pair w0 w1 d0 d1)
      | none, none, _, _ => s.illegalAt false w0 1
/-- The words of the group may be old ones: the choices are used up. -/
def State.fetchChoice (s : State) : Bool :=
  let p := s.dev.cur.core
  let a := s.dev.cur.addr.toNat
  !((s.freshStores p a).isEmpty && (s.freshStores p (a + 4)).isEmpty)

/-! ## The events -/

/-- The group at the current context's address raises its fault of these causes, if it has one. -/
def State.fetchRaises (s : State) (causes : List Nat) : Out :=
  match s.fetch with
  | .fault t c => if causes.contains t.cause then .next (s.settle (.traps t c)) else s.occur s.keep
  | _ => s.occur s.keep
def execIllegalEncoding (s : State) : Out := s.fetchRaises [0x001, 0x002]
def execFetchFault (s : State) : Out := s.fetchRaises [0x005]

end Sys2Proof.Machine
end

