-- ==== Sys2Proof/Machine/Traps.lean ====
section
/-!
DEFINITION. Traps after they are raised: the paths of their classes (R399, R400, R406), redelivery (R237), delivery to slot 15
(R398, R399), and the reports of failed effects (R408, R409).
-/

namespace Sys2Proof.Machine

/-! ## Classes of causes (R399, R406) -/

def consumption (cause : Nat) : Bool := [0x0A0, 0x0A2, 0x0A3, 0x108, 0x146, 0x1E0].contains cause
def systemClass (cause : Nat) : Bool := cause == 0x1E0 || cause == 0x1E1
/-- Log what a core has met (R411). -/
def State.logCore (s : State) (c : Change) (p code : Nat) (detail : Word) : Change :=
  let l := (s.logical p).getD p
  c.logErr 0 (indexOf l) ((s.core p).ctx 0).tenant code (BitVec.ofNat 64 l) detail

/-! ## Launch faults at the core (R400, R406) -/

/-- The fault goes to the dispatcher; the context that raised it stays stopped. -/
def Change.toDispatcher (c : Change) (p sl : Nat) (t : Trap) : Change :=
  let c := c.ctx p sl fun x => { x with trapped := true }
  match (c.dev.cores.get {} p).launch with
  | none => c
  | some n => (c.soon .launchFault { a := n, b := p, c := sl, words := [t.pc, BitVec.ofNat 64 t.cause, t.aux] }).count p 41

/-! ## Redelivery (R237) -/

/-- Put messages back at the head of their channels, in their order; channel 64 is the task queue. -/
def Core.putBack (k : Core) (ms : List Msg) : Core :=
  let ids := ms.map fun m => m.seq
  let k := { k with
    chans := k.chans.map fun e => (e.1, (ms.filter fun m => m.chan == e.1) ++ e.2.filter fun m => !ids.contains m.seq)
    tasks := (ms.filter fun m => m.chan == 64) ++ k.tasks }
  (ms.filter fun m => m.chan != 64 && (k.chans.find m.chan).isNone).foldl (fun k m => { k with
    chans := k.chans.upd [] m.chan fun l => l ++ [m] }) k
/-- The messages that go back: the triggering one first, then the others in the order of their acceptance. -/
def insertSeq (m : Msg) : List Msg → List Msg
  | [] => [m]
  | x :: l => if m.seq < x.seq then m :: x :: l else x :: insertSeq m l
def Act.messages (a : Act) : List Msg :=
  (a.trig.map fun m => { m with tries := m.tries + 1 }).toList ++
    (a.kept.filter fun m => match a.trig with
      | some t => t.seq != m.seq
      | none => true).foldr insertSeq []
/-- An error of the consumption class in an activation that is not speculative. -/
def State.consumed (s : State) (c : Change) (p sl : Nat) (t : Trap) : Change :=
  let x := s.ctx p sl
  let c := s.logCore c p t.cause t.aux
  let tries := match x.act.trig with
    | some m => m.tries
    | none => 2
  if 11 ≤ sl ∧ sl ≤ 14 ∧ !x.act.open_ then
    let c := s.logCore (c.quit p sl) p 0x1E5 t.aux
    if tries = 0 then c.soon .harvestBinding { a := p, b := 2, c := x.tenant, words := x.entryWords } else c
  else if x.act.rep ∧ !x.act.open_ ∧ x.act.trig.isSome ∧ tries < 2 then
    ((s.logCore (c.quit p sl) p 0x1E5 t.aux).core p fun k => k.putBack x.act.messages).count p 15
  else c.toDispatcher p sl t

/-! ## Raising a trap -/

/-- Slot 15 is bound no earlier than 4 cycles after a trap is raised, after a time that the manual leaves open (R399, R435). -/
def Change.deliverSoon (c : Change) (p : Nat) : Change :=
  (c.sched (c.dev.now + 4 + Config.delay c.dev.fresh) .trapDelivery { a := p }).tick
/-- Pending traps stand in the order of cycle and slot. -/
def insertTrap (n : Nat) (t : Trap) : List (Nat × Trap) → List (Nat × Trap)
  | [] => [(n, t)]
  | x :: l => if n < x.1 ∨ (n = x.1 ∧ t.slot < x.2.slot) then (n, t) :: x :: l else x :: insertTrap n t l
/-- 3,600 s in cycles. -/
def errorWindow : Nat := 3780000000000
/-- Firmware counts a pipeline error of a physical core; with the third in a window it logs 0x1E4, schedules an in-field scan of the core
and counts anew (R405). (DEDUCED, log entry 124.) -/
def State.pipeError (s : State) (c : Change) (p : Nat) (aux : Word) : Change :=
  let l := ((s.core p).pipeErrors.filter fun t => decide (s.dev.now < t + errorWindow)) ++ [s.dev.now]
  if l.length < 3 then c.core p fun k => { k with pipeErrors := l }
  else ((s.logCore c p 0x1E4 aux).core p fun k => { k with pipeErrors := [] }).dv fun d =>
    { d with scans := if d.scans.contains p then d.scans else d.scans ++ [p] }
/-- The group of a context has raised a trap: the context stops, and the trap takes the path of its class. -/
def State.raise (s : State) (c : Change) (p sl : Nat) (t : Trap) : Change :=
  let now := s.dev.now
  let x := s.ctx p sl
  let c := if t.cause = 0x1E0 then s.pipeError (c.count p 34) p t.aux else if t.cause = 0x0B0 ∧ t.aux.toNat % 512 = 0 then c.count p 29 else c
  let c := (c.seen p 2 t.cause).ctx p sl fun x =>
    { x with next := none, joining := none, outcome := none, stepPast := none }
  if x.shadow.isSome then
    if consumption t.cause then
      let n := x.act.errAborts + 1
      let c := if 3 ≤ n then c else s.logCore (s.logCore c p t.cause t.aux) p 0x1E5 t.aux
      (s.abortAct c p sl true).ctx p sl fun x => { x with
        act := { x.act with errAborts := n, error := if 3 ≤ n then some t else none }, specTrap := decide (3 ≤ n) }
    else c.ctx p sl fun x => { x with specTrap := true }
  else if consumption t.cause then
    let c := s.consumed c p sl t
    match (s.core p).handling with
    | some h => if sl = 15 ∧ (s.core p).firmware then s.logCore c p 0x1E3 h.aux else c
    | none => c
  else if sl = 15 then
    (match (s.core p).handling with
      | some h =>
        if (s.core p).firmware then s.logCore (c.toDispatcher p sl t) p 0x1E3 h.aux else c.toDispatcher p sl t
      | none => c.toDispatcher p sl t)
  else
    ((c.ctx p sl fun x => { x with trapped := true }).core p fun k => { k with traps := insertTrap now t k.traps }).deliverSoon p

/-! ## Delivery (R398, R399) -/

/-- The next trap to deliver, when it is due: imprecise reports follow the precise traps of their cycle. -/
def Core.nextTrap (k : Core) (now : Nat) : Option (Trap × Core) :=
  let due (t : Nat × Trap) : Bool := decide (t.1 + 4 ≤ now)
  match k.traps, k.reports with
  | t :: ts, r :: rs =>
    if t.1 ≤ r.1 then (if due t then some (t.2, { k with traps := ts }) else none)
    else if due r then some (r.2, { k with reports := rs }) else none
  | t :: ts, [] => if due t then some (t.2, { k with traps := ts }) else none
  | [], r :: rs => if due r then some (r.2, { k with reports := rs }) else none
  | [], [] => none
/-- TRAPCAUSE while a trap is handled. -/
def Trap.word (t : Trap) (lost : Bool) : Word :=
  BitVec.ofNat 64 (t.sub % 512 * 2 ^ 23 + t.rep.toNat * 2 ^ 22 + t.chan % 64 * 2 ^ 16 + t.slot % 16 * 2 ^ 12 +
    lost.toNat * 2 ^ 11 + t.imp.toNat * 2 ^ 9 + t.cause % 512)
/-- The trap is handled by signed firmware: a system-class cause, a service-tenant harvest context, which a report names as it stood when
the effect was issued, or a service core. -/
def State.forFirmware (s : State) (p : Nat) (t : Trap) : Bool :=
  systemClass t.cause || serviceCore p ||
    (if t.imp then t.service else decide (11 ≤ t.slot) && decide (t.slot ≤ 14) && (s.ctx p t.slot).service)
/-- No handler is installed (R400). -/
def State.noHandler (s : State) (p : Nat) : Bool :=
  let b := (s.core p).wpbase
  decide (b < 0x100) || decide (leNat (s.nearBytes p (b - 0x100) 4) = 0)
/-- Slot 15 is bound to a trap: contained, not repeatable, not speculative, with slot 0's MODE and CHK = 0. Its timestamp is the
trapped context's. -/
def State.takeTrap (s : State) (c : Change) (p : Nat) (t : Trap) : Change :=
  let x := s.ctx p t.slot
  let zero := s.ctx p 0
  let fw := s.forFirmware p t
  let lost := t.imp && (s.core p).lost
  let t := if t.imp then t else { t with chan := x.act.chan, rep := x.act.rep && !x.act.open_ }
  let act : Act := { cls := .service, ts := if t.imp then zero.act.ts else x.act.ts, dom := zero.act.dom }
  let entry := if fw then Config.firmwareEntry.toNat else (s.core p).wpbase - 0x100
  let c := s.bind c p 15 entry act []
  let c := c.ctx p 15 fun y => { y with mode := zero.mode &&& ~~~1#64, pid := zero.pid, tenant := zero.tenant }
  let c := c.core p fun k => { k with
    handling := some t, firmware := fw, lost := k.lost && !t.imp
    trapcause := t.word lost, trappc := t.pc, trapaddr := t.addr, trapaux := t.aux }
  if t.imp then (c.count p 40).count p 35 else c.count p 40
/-- Slot 15 takes the next trap when it is free, and the trapped context's pending results have come; or an activation that has just
committed meets the error that was held until then (R315). Arg: core; 1 and the slot for a held error.
(DEDUCED, log entries 60, 62, 78.) -/
def execTrapDelivery (s : State) : Out :=
  let p := s.dev.arg.a
  let k := s.core p
  s.occur <|
    if s.dev.arg.b = 1 then
      (match (s.ctx p s.dev.arg.c).act.error with
        | some t => s.consumed (s.keep.ctx p s.dev.arg.c fun x => { x with trapped := false, act := { x.act with error := none } }) p s.dev.arg.c t
        | none => s.keep)
    else if k.handling.isSome || !slotFree s.dev p 15 then s.keep
    else if k.frozen then s.again .trapDelivery
    else match k.nextTrap s.dev.now with
    | none => s.keep
    | some (t, k') =>
      if !t.imp && !(k.ctx t.slot).pipe.isEmpty then s.again .trapDelivery
      else
        let c := s.keep.core p fun _ => k'
        if !s.forFirmware p t && s.noHandler p then
          (c.toDispatcher p t.slot t).soon .trapDelivery { a := p }
        else s.takeTrap c p t

/-! ## Reports (R408, R409) -/

/-- A report of a failed effect reaches the core that released it. Arg: core, cause, slot with channel, REP and the mark of a
service-tenant harvest context; address, entry, report word. -/
def execImpreciseEffectFault (s : State) : Out :=
  let g := s.dev.arg
  let p := g.a
  let w (i : Nat) : Word := g.words.getD i 0
  let t : Trap := { cause := 0x0C0, pc := w 1, addr := w 0, aux := w 2, slot := g.c % 16, imp := true, sub := g.b
                    chan := g.c / 16 % 64, rep := decide (g.c / 1024 % 2 = 1), service := decide (g.c / 2048 % 2 = 1) }
  s.occur (if 16 ≤ (s.core p).reports.length then
      s.logCore (s.keep.core p fun k => { k with lost := true }) p 0x1E6 (w 2)
    else (s.keep.core p fun k => { k with reports := k.reports ++ [(s.dev.now, t)] }).deliverSoon p)

end Sys2Proof.Machine
end

