-- ==== Sys2Proof/Machine/Fills.lean ====
section
/-!
DEFINITION. Fills (R58), deposits (R60), releases (R234), scope misses (R277) and Towpath deliveries (R40), with the orders that
accesses keep on their way (R268, R274).
-/

namespace Sys2Proof.Machine

/-! ## Fills -/

/-- A microsecond, at the nominal clock of 1.05 GHz. (DEDUCED, log entry 40.) -/
def microsecond : Nat := 1050
/-- A word of the group table: BEAT counts the microseconds since the last heartbeat (R198). -/
def State.groupWord (s : State) (i : Nat) : Word :=
  match s.dev.groups.find i with
  | none => 0
  | some w => BitVec.ofNat 64 (w.toNat % 2 ^ 40 + min (2 ^ 24 - 1) ((s.dev.now - s.dev.beats.get 0 i) / microsecond) * 2 ^ 40)
/-- The value of a fill as it lands. (DEDUCED, log entry 38.) -/
def State.fillValue (s : State) (f : Fill) : Word :=
  match f.probe with
  | some (p, b) => if b < 256 then (s.barrier p b).word else s.groupWord (b - 256)
  | none => extend f.size f.sx f.val.toNat
/-- Put a word with a tag into a save (R59). -/
def Saved.putWord (v : Saved) (k : Nat) (x : Word) (t : Tag) : Saved :=
  { v with mem := putBytes v.mem k (wordBytes x), tags := kput .full v.tags (k / 8) t }
/-- The launch whose save holds an activation. -/
def State.savedWith (s : State) (f : Fill) : Option Nat :=
  (s.dev.saves.find? fun v =>
    let k := v.2.cores.get {} f.core
    (k.ctxs.any fun x => x.1 == f.slot && x.2.live && x.2.act.num == f.act) ||
      k.parked.any fun x => x.slot == f.slot && x.ctx.act.num == f.act).map fun v => v.1
/-- A long-latency result lands: a value FULL or a record POISON, whatever the tag; one of an activation that has been saved lands
in its save. Arg: fill. -/
def execFill (s : State) : Out :=
  let id := s.dev.arg.a
  s.occur <| match s.dev.fills.find id with
  | none => s.keep
  | some f =>
    if 0 < f.left then s.keep
    else
      let c := s.keep.dv fun d => { d with fills := d.fills.drop id }
      match f.dst with
      | none => c
      | some k =>
        let (x, t) := match f.record with
          | some r => (r.2, Tag.poison)
          | none => (s.fillValue f, Tag.full)
        match s.savedWith f with
        | some n => c.dv fun d => { d with saves := d.saves.upd {} n fun v => v.putWord k x t }
        | none => (c.putWord k x t).op (.bad (k / 8) false)

/-! ## Orders on the way to a home (R268, R274, R351) -/

/-- An effect that keeps the release order of its stream: a store, a deposit, or an atomic without a return. -/
def Flight.streams (f : Flight) : Bool :=
  match f.cargo with
  | .effect (.store ..) => true
  | .effect (.deposit ..) => true
  | .effect (.atomic _ _ _ _ _ none) => true
  | _ => false
/-- The virtual address of an access on the device path. -/
def Flight.virtual (f : Flight) : Option Nat :=
  match f.place with
  | .virt a => some a
  | _ => f.va
/-- Two accesses go to one 64 KiB unit of one address space. -/
def Flight.sameUnit (f g : Flight) : Bool :=
  f.org.tenant == g.org.tenant && f.org.pid == g.org.pid && match f.virtual, g.virtual with
    | some a, some b => a / 65536 == b / 65536
    | _, _ => false
/-- Two accesses of one context meet one location: by their places, or by one virtual address. -/
def Flight.meets (f g : Flight) : Bool :=
  let n := f.cargo.size
  let m := g.cargo.size
  match f.place, g.place with
  | .near p a, .near q b => p == q && overlaps a n b m
  | .bstore p a, .bstore q b => p == q && overlaps a n b m
  | .phys a, .phys b => overlaps a n b m
  | .away d a, .away e b => d == e && overlaps a n b m
  | _, _ => match f.virtual, g.virtual with
    | some a, some b => f.sameUnit g && overlaps a n b m
    | _, _ => false
/-- Two effects of one core are of one stream: to the near SRAM of one core, to one B-store, or to one unit of one address
space (R274). -/
def Flight.sameStream (f g : Flight) : Bool :=
  f.streams && g.streams && match f.place, g.place with
  | .near p _, .near q _ => p == q
  | .bstore p _, .bstore q _ => p == q
  | _, _ => f.path == 2 && g.path == 2 && f.sameUnit g
def Flight.isCopy (f : Flight) : Bool :=
  match f.cargo with
  | .copyRead .. => true
  | .copyWrite .. => true
  | _ => false
def Flight.isDeposit (f : Flight) : Bool :=
  match f.cargo with
  | .effect (.deposit ..) => true
  | _ => false
def Flight.isAtomic (f : Flight) : Bool :=
  match f.cargo with
  | .effect (.atomic ..) => true
  | _ => false
/-- `g` came to its home before `f`, and still stands there. -/
def Flight.cameBefore (g f : Flight) : Bool := decide (0 < g.came) && (f.came == 0 || decide (g.came < f.came))
/-- An access that still stands at its station will come, by the tables as they are, to a location that `f` has reached by another
virtual address (R266). (DEDUCED, log entry 63.) -/
def State.willMeet (s : State) (f g : Flight) : Bool :=
  match f.place, g.place with
  | .virt _, _ => false
  | _, .virt b => (match s.walkAll g.org.tenant g.org.pid b 6 5 0 with
    | .leaf level e => (match s.leafPlace g.org.tenant b level e false false with
      | .ok (pl, _) => f.meets { g with place := pl }
      | .error _ => false)
    | _ => false)
  | _, _ => false
/-- An access waits for an earlier one of its core that is on its way: of its stream (R274), or of its context on its path to a location
they share (R268). A deposit that has reached its word is on its way no more. -/
def State.stillBehind (s : State) (id : Nat) (f : Flight) : Bool :=
  s.dev.flights.any fun e =>
    let g := e.2
    decide (e.1 < id) && g.org.core == f.org.core && !g.isCopy && !(g.isDeposit && g.home) &&
      (f.sameStream g || (f.org.slot == g.org.slot && f.path == g.path && (f.meets g || s.willMeet f g)))
/-- An access of the same core to the same unit that came to the station before it has not left it: they leave in that order (R351). -/
def State.stationBehind (s : State) (id : Nat) (f : Flight) : Bool :=
  decide (0 < f.stood) && s.dev.flights.any fun e =>
    e.1 != id && e.2.org.core == f.org.core && decide (0 < e.2.stood) && decide (e.2.stood < f.stood) && f.sameUnit e.2 &&
      match e.2.place with
      | .virt _ => true
      | _ => false
/-- A deposit waits behind an earlier one of its core that waits at the same word (R60). -/
def State.queuedBehind (s : State) (id : Nat) (f : Flight) : Bool :=
  s.dev.flights.any fun e => decide (e.1 < id) && e.2.org.core == f.org.core && e.2.isDeposit && e.2.home && f.meets e.2
def State.heldBack (s : State) (id : Nat) (f : Flight) : Bool :=
  s.stillBehind id f || s.stationBehind id f || (f.isDeposit && s.queuedBehind id f)
def Change.updFlight (c : Change) (id : Nat) (f : Flight → Flight) : Change :=
  match c.dev.flights.find id with
  | none => c
  | some x => c.dv fun d => { d with flights := d.flights.set id (f x) }
/-- Banks that an arriving access may not take in this cycle (R256): those that items 1 to 5 have, and those for which an access that
came before it has waited 8 cycles. A waiting deposit, which a cycle tries last, keeps its bank from accesses that came after it, but
for those to its own word (R60). -/
def State.barred (s : State) (p id : Nat) (f : Flight) : Nat :=
  s.shutBanks p ||| s.used p ||| (if f.waited < 8 then s.elementBank p else 0) ||| s.flightBanks p fun n g =>
    n != id && ((decide (8 ≤ g.waited) && (decide (f.waited < 8) || g.cameBefore f)) ||
      (g.isDeposit && decide (0 < g.waited) && decide (f.waited < 8) && g.cameBefore f && g.place.key / 8 != f.place.key / 8))
/-- A bank of a near-SRAM access is taken in this cycle. -/
def State.bankTaken (s : State) (id : Nat) (f : Flight) (pl : Place) (n : Nat) : Bool :=
  match pl with
  | .near p o => decide (bankBits o n &&& s.barred p id f ≠ 0)
  | _ => false
/-- The present access stands at its home, and is tried again in the next cycle; `bank` says that it waits for a bank. -/
def State.waitHere (s : State) (c : Change) (id : Nat) (bank : Bool) (ev : Instr) : Change :=
  let n := c.dev.fresh + 1
  s.retry (c.tick.updFlight id fun f =>
    { f with home := true, came := if f.came = 0 then n else f.came, waited := if bank then f.waited + 1 else 0 }) ev
def Change.usePlace (c : Change) (pl : Place) (n : Nat) : Change :=
  match pl with
  | .near p o => c.useBanks p (bankBits o n)
  | _ => c
/-! ## Other devices (R280, R349, R356) -/

/-- A packet leaves for another device by the fabric port that the Wharf's route table names for it (R381): its destination is written
as port × 8192 + device + 1. (DESIGN CHOICE, log entry 122.) -/
def Dev.line (d : Dev) (device : Nat) : Nat := d.routes.get 0 device * 8192 + device + 1
def Change.toDevice (c : Change) (device : Nat) (ws : List Word) : Change := c.send (c.dev.line device) ws
/-- An event that comes no earlier than those of its class that are under way: a class from this device to itself keeps its order
(R381). -/
def Change.inClass (c : Change) (same : Instr → Bool) (ev : Instr) (arg : Arg) : Change :=
  (c.sched ((c.dev.agenda.filter fun e => same e.ev).foldl (fun n e => max n e.at_) (c.dev.now + 1 + Config.delay c.dev.fresh)) ev arg).tick
/-- Another device is answered: 0 and the data of a read, or a failure's record. (DESIGN CHOICE, log entry 122.) -/
def Change.answerAway (c : Change) (device id : Nat) (r : Except Word (List Byte)) : Change :=
  c.toDevice device (match r with
    | .ok bs => [BitVec.ofNat 64 (16 + id * 256), 0] ++ byteWords bs
    | .error e => [BitVec.ofNat 64 (17 + id * 256), e])

/-- An effect is dropped at its home: one report for the whole store (R149, R408), or an answer to the device that it came from. -/
def Change.dropEffect (c : Change) (id : Nat) (f : Flight) (cause : Nat) : Change :=
  match f.from_ with
  | some d => (c.answerAway d id (.error (BitVec.ofNat 64 cause))).landed id
  | none =>
    let c := if f.told then c else c.fail f.org cause (BitVec.ofNat 64 f.ea)
    (c.dv fun d => { d with flights := d.flights.map fun e =>
      if e.2.org.core = f.org.core ∧ e.2.grp = f.grp then (e.1, { e.2 with told := true }) else e }).landed id

/-! ## Releases -/

/-- One effect of a core leaves in a cycle, in order; a fence mark at the head of the queue stands until every effect of its
activation before it is performed at its scope (R160). Arg: core. -/
def execRelease (s : State) : Out :=
  let p := s.dev.arg.a
  s.occur <| match (s.core p).relq with
  | [] => s.keep.core p fun k => { k with relDue := false }
  | h :: rest =>
    let c := (s.keep.core p fun k => { k with relDue := false }).heldRead p
    match h.eff with
    | .fence sc =>
      if s.dev.flights.any fun f => f.2.org.core == p && f.2.org.act == h.org.act && f.2.pending s.dev.now sc then c.pump p
      else (c.core p fun k => { k with relq := rest }).pump p
    | e => (s.depart (c.core p fun k => { k with relq := rest }) h.org e (h.ready - s.dev.now) h.bad h.again).pump p

/-! ## Scope misses -/

/-- A scope-miss message is accepted once it has room. Arg: core, timestamp, domain; its two words. -/
def execScopeMiss (s : State) : Out :=
  let g := s.dev.arg
  let x := (s.core g.a).ctx 0
  let m : Msg := {
    org := { core := g.a, ts := g.b, dom := g.c, tenant := x.tenant, pid := x.pid }
    device := true, chan := 3, words := g.words.map fun w => (w, false), cost := 24 }
  s.occur (if (s.launchOf g.a).map (fun l => l.dom) ≠ some g.c then
      (if s.dev.launches.any fun l => l.2.dom == g.c then s.again .scopeMiss else s.keep)
    else if (s.core g.a).roomDevice 24 then s.keep.acceptMsg g.a m else s.again .scopeMiss)

/-! ## Towpath -/

/-- The launches of a core and of a neighbour differ: one of them has still to accept the wake (R216). -/
def State.apart (s : State) (p q : Nat) : Bool := (s.core p).launch != (s.core q).launch
/-- A vector that was pushed is delivered into the place it reserved. Arg: core, the place's number. -/
def execTowpathDelivery (s : State) : Out :=
  let p := s.dev.arg.a
  let n := s.dev.arg.b
  let l := (s.logical p).getD 0
  let west := (s.core p).fromWest.any fun t => t.id == n
  let set (t : Tow) : Tow := if t.id = n then { t with ready := true } else t
  s.occur (if s.apart p (if west then s.west l else s.east l) then s.again .towpathDelivery
    else s.keep.core p fun k => { k with fromWest := k.fromWest.map set, fromEast := k.fromEast.map set })

end Sys2Proof.Machine
end

