-- ==== Sys2Proof/Machine/Arrival.lean ====
section
/-!
DEFINITION. Accesses that arrive at their homes: stores, loads, words of block reads, elements of copies, atomics and waiting
tracked reads (R148 to R151, R156, R159, R256, R271, R282 to R284, R304, R337).
-/

namespace Sys2Proof.Machine

/-! ## Routers (R363) -/

/-- A tenant's rectangle holds a cluster. -/
def Tenant.owns (t : Tenant) (clu : Nat) : Bool :=
  let w := t.entry.getD 0 0
  w.getLsbD 63 && decide (bits w 10 4 ≤ clu % 12 ∧ clu % 12 ≤ bits w 10 4 + bits w 3 4 ∧ bits w 7 3 ≤ clu / 12 ∧
    clu / 12 ≤ bits w 7 3 + bits w 0 3)
/-- Every router between a core and a cluster passes a tenant's message: both lie in its rectangle; the service tenant passes everywhere. -/
def State.passes (s : State) (tenant p clu : Nat) : Bool :=
  tenant == 0 || ((s.dev.tenants.get {} tenant).owns (physCluster p) && (s.dev.tenants.get {} tenant).owns clu)
def State.routed (s : State) (tenant p q : Nat) : Bool := s.passes tenant p (physCluster q)
/-- The first router that finds a message that leaves its tenant's rectangle drops it and logs its header: that of the sender, which has
the target before it. (DESIGN CHOICE, log entry 123.) -/
def State.dropRouted (s : State) (c : Change) (id : Nat) (f : Flight) (q : Nat) : Change :=
  (c.logErr 1 (physCluster f.org.core) f.org.tenant 0x1ED (BitVec.ofNat 64 ((s.logical q).getD q))
    (BitVec.ofNat 64 (f.org.tenant * 2 ^ 32 + (s.logical f.org.core).getD 0))).landed id
/-- The core or array that an access of another core of a tenant reaches, in a cluster that the tenant does not own. -/
def State.strays (s : State) (f : Flight) : Option Nat :=
  match f.place with
  | .near p _ => if p = f.org.core ∨ s.routed f.org.tenant f.org.core p then none else some p
  | .bstore r _ => if s.passes f.org.tenant f.org.core (r / 8) then none else some r
  | _ => none

/-! ## Other devices (R280, R356) -/

/-- A cause with which another device may answer: the manual does not say what that device holds. -/
def awayCause (n : Nat) : Nat := [0x090, 0x091, 0x092, 0x093, 0x094, 0x096, 0x0A0, 0x0B0].getD (n % 8) 0x090
/-- The record of a failed translation (R350). -/
def unitRecord (cause va : Nat) : Word := BitVec.ofNat 64 (cause + va / 65536 % 2 ^ 41 * 65536)
def AtomicOp.num : AtomicOp → Nat
  | .add => 0 | .and => 1 | .or => 2 | .xor => 3 | .min => 4 | .max => 5 | .minu => 6 | .maxu => 7
  | .cas => 8 | .xchg => 9 | .fadd => 10 | .fmin => 11 | .fmax => 12
/-- What an access asks of another device: its kind (0 read, 1 write, 2 and 3 an atomic without and with a return), its operation and
length, and its data. (DESIGN CHOICE, log entry 122.) -/
def Cargo.request : Cargo → List Word
  | .effect (.store _ _ bs) => BitVec.ofNat 64 (1 + bs.length * 65536) :: byteWords bs
  | .effect (.atomic _ op _ x cmp fill) =>
    [BitVec.ofNat 64 ((if fill.isSome then 3 else 2) + op.num * 256 + op.width * 65536), x, cmp]
  | .copyWrite _ _ data => BitVec.ofNat 64 (1 + (data.flatMap fun e => e.2).length * 65536) :: byteWords (data.flatMap fun e => e.2)
  | g => [BitVec.ofNat 64 (g.size * 65536)]
/-- What leaves through the Wharf for another device: the virtual address, tenant and PID, and the request (R349); for the host, an RDMA
frame through the port that the management configuration names, with the address in its header and the PID in its first two bytes
(R356, R388, R390). (DESIGN CHOICE, log entry 122.) -/
def Change.sendAway (c : Change) (f : Flight) (d a : Nat) (q : Cargo) : Change :=
  if d = 4096 then
    (match q with
      | .copyWrite _ _ data => c.sendFrames (4097 + c.dev.rdmaPort) 5 f.org.tenant (BitVec.ofNat 64 a) (natBytes 2 f.org.pid ++ data.flatMap fun e => e.2)
      | q => c.sendFrames (4097 + c.dev.rdmaPort) 6 f.org.tenant (BitVec.ofNat 64 a) (natBytes 2 f.org.pid ++ natBytes 2 q.size))
  else c.toDevice d ([BitVec.ofNat 64 a, BitVec.ofNat 64 (f.org.tenant * 65536 + f.org.pid)] ++ q.request)
/-- An access goes out through the Wharf, and its answer is awaited for a time that the manual leaves open (R267, R280). -/
def State.sendOut (s : State) (id : Nat) (f : Flight) (d a : Nat) (q : Cargo) (ev : Instr) : Change :=
  ((s.keep.sendAway f d a q).updFlight id fun f => { f with gone := true }).soon ev { a := id }
/-- The answer of another device to a read of `n` bytes: bytes, or a record, both open.
(DESIGN CHOICE, log entry 10.) -/
def State.awayAnswer (s : State) (pa n : Nat) : Except Word (List Byte) :=
  if Config.choice s.dev.fresh % 2 = 0 then .ok (((List.range ((n + 7) / 8)).flatMap fun i => wordBytes (Config.data s.dev.fresh i)).take n)
  else
    let cause := awayCause (Config.choice (s.dev.fresh + 1))
    .error (if 0x0A0 ≤ cause then freeRecord cause (s.dev.fresh + 1) else unitRecord cause pa)
/-- No element of a copy faults on a lock: it waits (R341). -/
def copyCause (cause : Nat) : Nat := if cause = 0x0B0 then 0x0A0 else cause
/-! ## Reads -/

/-- What an arriving read comes to: it waits, or it has been performed. -/
inductive Arrived where
  | waits (c : Change)
  | done (c : Change) (r : Except Word (List Byte))

/-- An arriving read of `n` bytes at its home; forwarded bytes take the place of those found. -/
def State.readHome (s : State) (id : Nat) (f : Flight) (n : Nat) (fwd : List (Option Byte)) : Arrived :=
  let merge (bs : List Byte) : List Byte := bs.zipIdx.map fun b => (fwd.getD b.2 none).getD b.1
  if 0 < n && (List.range n).all fun i => (fwd.getD i none).isSome then
    .done (s.keep.landed id) (.ok (merge (List.replicate n 0)))
  else match f.place with
  | .away d a =>
    if f.gone then .done (s.keep.landed id).tick.tick (s.awayAnswer a n)
    else if s.heldBack id f then .waits (s.again .arrivingAccess)
    else .waits (s.sendOut id f d a f.cargo .arrivingAccess)
  | pl =>
    let k := pl.key
    if s.heldBack id f then .waits (s.again .arrivingAccess)
    else if !f.home && (lockHit (s.locksAt k) k n false).isSome then
      .done ((s.keep.landed id).tick.count f.org.core 29) (.error (freeRecord 0x0B0 s.dev.fresh))
    else if (wordsOf k n).any fun w => s.tagOf w == .empty then .waits (s.waitHere s.keep id false .arrivingAccess)
    else if f.tracked && s.trackerFull k n then .waits (s.waitHere s.keep id false .trackedRead)
    else if s.bankTaken id f pl n then .waits (s.waitHere s.keep id true .arrivingAccess)
    else
      let c := (s.poisonBad s.keep k n).usePlace pl n
      let c := if f.path = 0 then c else c.touchPlace pl n
      let c := if f.tracked then c.track f.org k n else c
      .done (c.landed id).tick (match s.readRecord k n s.dev.fresh with
        | some r => .error r
        | none => .ok (merge (s.placeBytes pl n f.key)))

/-- A word of a block read has come; a unit that is whole, and the next to be delivered, is offered to its channel, and a record
read for CREST is whole with its last word (R156, R205). -/
def Change.blockWord (c : Change) (id idx : Nat) (r : Except Word (List Byte)) : Change :=
  match c.dev.breads.find id with
  | none => c
  | some b =>
    let w : Word × Bool := match r with
      | .ok bs => (bytesWord bs, false)
      | .error e => (e, true)
    let got := (idx, w.1, w.2) :: b.got
    let c := c.dv fun d => { d with breads := d.breads.set id { b with got := got } }
    let has (u : Nat) : Bool := (List.range b.unit).all fun i => got.any fun g => g.1 == u * b.unit + i
    if idx / b.unit = b.sent ∧ has b.sent then
      (if b.chan = 64 then c.respond b.org.core b.org.slot b.org.act 1 Hold.isAck else c.soon .messageAccept { a := id, b := 1 })
    else c

/-! ## Copies -/

/-- A copy's access waits for what its core released before it to the same home (R284), and for local elements in progress there. -/
def State.copyHeld (s : State) (id : Nat) (k : Copy) (pl : Place) : Bool :=
  (s.dev.flights.any fun e =>
    decide (e.1 < id) && e.2.org.core == k.core && e.2.streams && !(e.2.isDeposit && e.2.home) && match e.2.place, pl with
      | .near p _, .near q _ => p == q
      | .bstore p _, .bstore q _ => p == q
      | .virt _, .phys _ => true
      | .phys a, .phys b => sliceOf a == sliceOf b
      | .virt _, .away .. => true
      | .away .., .away .. => true
      | _, _ => false) ||
    match pl with
    | .near p _ => p == k.core && (s.core p).strided.any fun t => t.store && decide (t.num ≤ id)
    | _ => false
/-- Read the elements `now` of a copy's request, and send the data back when they are all there. -/
def State.copyTake (s : State) (id : Nat) (f : Flight) (n m size : Nat) (now : List Nat) (banks : Nat)
    (back : Change → List (Nat × List Byte) → Change) : Change :=
  let a := f.place.key
  let read (i : Nat) : Nat × List Byte := match s.readRecord (a + i * size) size s.dev.fresh with
    | some r => (r.toNat % 512, List.replicate size 0)
    | none => (0, (s.placeBytes f.place (m * size) f.key).drop (i * size) |>.take size)
  let got := now.foldl (fun g i => g.set i (read i)) f.got
  let c := now.foldl (fun c i => s.poisonBad c (a + i * size) size) s.keep
  let c := (match f.place with
    | .near p _ => c.useBanks p banks
    | _ => c).touchPlace f.place (m * size)
  if got.length = m then back c (got.map fun e => e.2)
  else s.waitHere (c.updFlight id fun f => { f with got := got }) id false .arrivingAccess
/-- Elements of a copy are read, each as soon as its word is FULL; the request returns when all of them have been read (R263, R340). -/
def State.copyReadHome (s : State) (id : Nat) (f : Flight) (copy n m bytes : Nat) : Change :=
  match s.dev.copies.find copy with
  | none => s.keep.landed id
  | some k =>
    let size := bytes / m
    let back (c : Change) (data : List (Nat × List Byte)) : Change :=
      ((c.landed id).arrived copy n (s.dev.now + 1 + Config.delay s.dev.fresh) data).tick
    if s.copyHeld copy k f.place || s.stationBehind id f then s.again .arrivingAccess
    else match f.place with
    | .away d pa =>
      if !f.gone then s.sendOut id f d pa f.cargo .arrivingAccess
      else back s.keep.tick (match s.awayAnswer pa bytes with
        | .ok bs => (chunks size m bs).map fun b => (0, b)
        | .error r => List.replicate m (copyCause (r.toNat % 512), List.replicate size 0))
    | pl =>
      let a := pl.key
      let now := (List.range m).filter fun i =>
        (f.got.find i).isNone && s.tagOf ((a + i * size) / 8) != .empty && !s.copyLocked copy (a + i * size) size false
      let banks := match pl with
        | .near _ o => now.foldl (fun b i => b ||| bankBits (o + i * size) size) 0
        | _ => 0
      match pl, now with
      | _, [] => s.waitHere s.keep id false .arrivingAccess
      | .near p _, _ =>
        if banks &&& s.barred p id f ≠ 0 then s.waitHere s.keep id true .arrivingAccess
        else s.copyTake id f n m size now banks back
      | _, _ => s.copyTake id f n m size now banks back
/-- Elements of a copy are written; one to a range that another operation has locked waits (R341). -/
def State.copyWriteHome (s : State) (id : Nat) (f : Flight) (copy n : Nat) (data : List (Nat × List Byte)) : Change :=
  match s.dev.copies.find copy with
  | none => s.keep.landed id
  | some k =>
    let bytes := dataBytes data
    let isOver (c : Change) : Change := ((c.landed id).didElements copy data.length).count k.core 37 (dataBytes (data.filter fun e => e.1 = 0))
    let faults (c : Change) (cause : Nat) : Change := data.zipIdx.foldl (fun c e =>
      if e.1.1 = 0 ∧ cause = 0 then c else c.updCopy copy fun k => k.faulted (n + e.2) (if e.1.1 = 0 then cause else e.1.1)) c
    if s.stationBehind id f then s.again .arrivingAccess
    else match f.place with
    | .away d pa =>
      let c := s.keep.tick.tick
      if f.gone then
        isOver (faults c (if d ≠ 4096 ∧ Config.choice s.dev.fresh % 2 = 1 then copyCause (awayCause (Config.choice (s.dev.fresh + 1))) else 0))
      else
        let place (e : (Nat × List Byte) × Nat) : Nat := pa + dataBytes (data.take e.2)
        let key (e : (Nat × List Byte) × Nat) : Nat := 2 ^ 80 + d * 2 ^ 64 + place e
        let good := data.zipIdx.filter fun e => e.1.1 = 0 && k.mayWrite (key e) (n + e.2)
        let out := good.foldl (fun (c : Change) e => (c.sendAway f d (place e) (.copyWrite copy (n + e.2) [e.1])).updCopy copy fun k =>
          { k with wrote := k.wrote.set (key e) (n + e.2) }) c
        (out.updFlight id fun f => { f with gone := true }).soon .arrivingAccess { a := id }
    | pl =>
      if s.copyLocked copy pl.key bytes true then s.waitHere s.keep id false .arrivingAccess
      else if s.bankTaken id f pl bytes then s.waitHere s.keep id true .arrivingAccess
      else
        let c := (s.keep.usePlace pl bytes).touchPlace pl bytes
        let c := match pl with
          | .near p o => s.putElements c copy n (nearKey p o) data
          | _ => s.putFar c copy n pl f.key data
        isOver (c.conflict k.org true pl.key bytes)

/-! ## Stores -/

/-- The cause that a partial write meets at its home: a POISON or reserved-tag word, or an uncorrectable one.
(DEDUCED, log entry 64.) -/
def State.partFault (s : State) (k n : Nat) : Option Nat :=
  match s.partialCause k n with
  | some c => some c
  | none => (wordsOf k n).findSome? fun w =>
      if (decide (k ≤ 8 * w) && decide (8 * w + 8 ≤ k + n)) || !s.bad.contains w then none
      else some ((badRecord (8 * w)).toNat % 512)
/-- An access of another device has been performed: that device is answered. -/
def Change.answered (c : Change) (id : Nat) (f : Flight) (bs : List Byte) : Change :=
  (match f.from_ with
    | some d => c.answerAway d id (.ok bs)
    | none => c).landed id
/-- A store is performed at its home, or dropped there. A write of the host or of another device carries no timestamp (R305). -/
def State.storeHome (s : State) (id : Nat) (f : Flight) (bs : List Byte) : Change :=
  let n := bs.length
  match f.place with
  | .away d a =>
    if f.gone then
      if Config.choice s.dev.fresh % 2 = 0 then s.keep.tick.landed id
      else s.keep.tick.tick.dropEffect id f (awayCause (Config.choice (s.dev.fresh + 1)))
    else if s.heldBack id f then s.again .arrivingAccess
    else s.sendOut id f d a f.cargo .arrivingAccess
  | pl =>
    let k := pl.key
    if s.heldBack id f then s.again .arrivingAccess
    else if !f.home && (lockHit (s.locksAt k) k n true).isSome then (s.keep.count f.org.core 29).dropEffect id f 0x0B0
    else if s.bankTaken id f pl n then s.waitHere s.keep id true .arrivingAccess
    else match s.partFault k n with
    | some cause => ((s.poisonBad s.keep k n).usePlace pl n).dropEffect id f cause
    | none =>
      (((s.placeWrite (((s.fixWords s.keep (partialWords k n)).usePlace pl n).touchPlace pl n) pl bs f.key).conflict f.org f.from_.isNone k n).answered id f [])

/-- A place in a clock-gated cluster: what is bound for it waits (R427). -/
def State.gatedPlace (s : State) : Place → Bool
  | .near p _ => (s.clu (physCluster p)).gated
  | .bstore r _ => (s.clu (r / 8)).gated
  | _ => false
/-- The scope-miss message of an effect whose mark was stripped on its way to the station: `need` contains its place (R277). -/
def Change.missFor (c : Change) (f : Flight) (need : Scope) (at_ : Nat) : Change :=
  match f.cargo with
  | .effect e => c.tellMiss f.org (e.missed.map fun m => (m.1, m.2.1, f.ea)) need at_
  | _ => c
/-- An access fails at its station, with the cause and the record of R350 (R355). -/
def State.failAccess (s : State) (c : Change) (id : Nat) (f : Flight) (record : Word) : Change :=
  let cause := record.toNat % 512
  let c := if f.miss then c.missFor f .dev (s.dev.now + 1) else c
  match f.from_, f.cargo with
  | some d, _ => (c.answerAway d id (.error record)).landed id
  | none, .read fill at_ _ elem _ => (c.landed id).part fill at_ elem (.error record) none
  | none, .block b idx _ => (c.landed id).blockWord b idx (.error record)
  | none, .copyRead k n m bytes => (c.landed id).arrived k n (s.dev.now + 1) (List.replicate m (cause, List.replicate (bytes / m) 0))
  | none, .copyWrite k n data =>
    (data.zipIdx.foldl (fun c e => c.updCopy k fun x => x.faulted (n + e.2) (if e.1.1 = 0 then cause else e.1.1)) (c.landed id)).didElements
      k data.length
  | none, .effect (.atomic _ _ _ _ _ (some i)) => (c.answer i record true).landed id
  | none, _ => c.dropEffect id f cause
/-- The home slice checks a request of a tenant again against its translation configuration, which may have changed since its translation:
its process must be one that the configuration counts; the service tenant passes (R363). (DEDUCED, log entry 123.) -/
def State.sliceDenies (s : State) (f : Flight) : Bool :=
  match f.place, f.va with
  | .phys _, some _ => f.org.tenant != 0 && decide ((s.dev.tenants.get {} f.org.tenant).pidn ≤ f.org.pid)
  | _, _ => false
/-- The home slice turns a request away as a station would. -/
def State.denied (s : State) (id : Nat) (f : Flight) : Change := s.failAccess s.keep id f (unitRecord 0x096 (f.va.getD 0))
/-- An access reaches its home. Arg: flight. -/
def State.atHome (s : State) : Change :=
  let id := s.dev.arg.a
  match s.flight with
  | none => s.keep
  | some f => match s.strays f with
  | some q => s.dropRouted s.keep id f q
  | none => if s.sliceDenies f then s.denied id f else if s.gatedPlace f.place then s.again .arrivingAccess else match f.cargo with
    | .effect (.store _ _ bs) => s.storeHome id f bs
    | .read fill at_ n elem fwd =>
      (match s.readHome id f n fwd with
        | .waits c => c
        | .done c r => match f.from_ with
          | some d => c.answerAway d id r
          | none => c.part fill at_ elem r (if f.path = 0 then some (s.dev.now + 3) else none))
    | .block b idx n =>
      (match s.readHome id f n [] with
        | .waits c => c
        | .done c r => c.blockWord b idx r)
    | .copyRead k n m bytes => s.copyReadHome id f k n m bytes
    | .copyWrite k n data => s.copyWriteHome id f k n data
    | _ => s.keep
def execArrivingAccess (s : State) : Out := s.occur s.atHome
/-- A read that waits for a line of its tracker is served when there is one, or when its activation is speculative no more. Arg:
flight. -/
def execTrackedRead (s : State) : Out :=
  s.occur <| match s.flight with
  | none => s.keep
  | some f =>
    if f.tracked && s.trackerFull f.place.key f.cargo.size then s.again .trackedRead else s.atHome

/-! ## Atomics (R159) -/

/-- An earlier atomic waits at the same word: they are performed in the order in which they came. -/
def State.atomicBefore (s : State) (id : Nat) (f : Flight) : Bool :=
  s.dev.flights.any fun e => e.1 != id && e.2.isAtomic && e.2.cameBefore f && decide (e.2.place.key / 8 = f.place.key / 8)
/-- An atomic is performed at its executor. Arg: flight. (DEDUCED, log entry 65.) -/
def execAtomicExecution (s : State) : Out :=
  let id := s.dev.arg.a
  s.occur <| match s.flight with
  | none => s.keep
  | some f => match s.strays f with
  | some q => s.dropRouted s.keep id f q
  | none => if s.sliceDenies f then s.denied id f else match f.cargo with
    | .effect (.atomic _ op _ x cmp fill) =>
      let n := op.width
      let refuse (c : Change) (r : Word) (report : Bool) : Change := match fill, f.from_ with
        | _, some d => (c.answerAway d id (.error r)).landed id
        | some i, none => (c.answer i r true).landed id
        | none, none => if report then c.dropEffect id f (r.toNat % 512) else c.landed id
      match f.place with
      | .away d a =>
        if f.gone then
          (match fill, s.awayAnswer a n with
            | some i, .ok bs => (s.keep.tick.tick.answer i (bytesWord bs)).landed id
            | none, .ok _ => s.keep.tick.tick.landed id
            | _, .error r => refuse s.keep.tick.tick r true)
        else if s.heldBack id f then s.again .atomicExecution
        else s.sendOut id f d a f.cargo .atomicExecution
      | pl =>
        let k := pl.key
        if s.heldBack id f then s.again .atomicExecution
        else if !f.home && (lockHit (s.locksAt k) k n true).isSome then refuse (s.keep.tick.count f.org.core 29) (freeRecord 0x0B0 s.dev.fresh) true
        else if s.tagOf (k / 8) = .empty || s.atomicBefore id f then s.waitHere s.keep id false .atomicExecution
        else if s.bankTaken id f pl n then s.waitHere s.keep id true .atomicExecution
        else match s.readRecord k n s.dev.fresh with
        | some r => refuse ((s.poisonBad s.keep k n).usePlace pl n).tick r (n == 4)
        | none =>
          let old := leNat (s.placeBytes pl n f.key)
          let new := natBytes n (op.eval (BitVec.ofNat 64 old) x cmp).toNat
          let c := (s.fixWords s.keep (wordsOf k n)).usePlace pl n
          let c := if f.path = 0 ∧ f.org.harvest then c else c.touchPlace pl n
          let c := (s.placeWrite c pl new f.key).conflict f.org f.from_.isNone k n
          (match fill with
            | some i => c.answer i (BitVec.ofNat 64 old)
            | none => c).answered id f (natBytes n old)
    | _ => s.keep

/-! ## Deposits (R60) -/

/-- A deposit reaches its word: it lands on EMPTY, and otherwise is tried again in the next cycle. Arg: flight. -/
def execDeposit (s : State) : Out :=
  let id := s.dev.arg.a
  s.occur <| match s.flight with
  | none => s.keep
  | some f => match s.strays f with
  | some q => s.dropRouted s.keep id f q
  | none => match f.cargo with
    | .effect (.deposit _ _ v) =>
      let k := f.place.key
      if s.stillBehind id f then s.again .deposit
      else if !f.home && (lockHit (s.locksAt k) k 8 true).isSome then (s.keep.count f.org.core 29).dropEffect id f 0x0B0
      else if s.queuedBehind id f || s.tagOf (k / 8) != .empty then s.waitHere s.keep id false .deposit
      else if s.bankTaken id f f.place 8 then s.waitHere s.keep id true .deposit
      else
        let c := s.placeWrite ((s.keep.usePlace f.place 8).touchPlace f.place 8) f.place (wordBytes v) []
        (c.conflict f.org true k 8).landed id
    | _ => s.keep

end Sys2Proof.Machine
end

