-- ==== Sys2Proof/Machine/Station.lean ====
section
/-!
DEFINITION. Translation stations: hits, misses and walks, permissions and keys, tiers and tier misses (R347 to R356).
-/

namespace Sys2Proof.Machine

/-! ## Accesses at a station -/

/-- What an access needs of its page: to read, to write (R350). -/
def Cargo.needs : Cargo → Bool × Bool
  | .effect (.atomic ..) => (true, true)
  | .effect _ => (false, true)
  | .copyWrite .. => (false, true)
  | _ => (true, false)
/-- The event in which an access reaches its home. -/
def Cargo.homeEvent : Cargo → Instr
  | .effect (.atomic ..) => .atomicExecution
  | _ => .arrivingAccess
/-- Post an event for an access, once for each 64 KiB unit that it touches (R355, R357). -/
def Change.unitEvent (c : Change) (id : Nat) (f : Flight) (kind va : Nat) : Change :=
  let seen := match c.dev.flights.find id with
    | some x => x.seen
    | none => f.seen
  if seen then c
  else
    (c.postEvent f.org.core f.org.slot f.org.tenant kind (va / 65536 % 2 ^ 41)).dv fun d => { d with flights := d.flights.map fun e =>
      if e.1 == id || (f.grp.isSome && e.2.grp == f.grp && (match e.2.place with
          | .virt a => decide (a / 65536 = va / 65536)
          | _ => false)) then (e.1, { e.2 with seen := true }) else e }
/-- An access that another device has sent here reaches this one's own memory: a leaf of another tier fails it, as a rule of R349 does. -/
def tierFails (f : Flight) (e : Word) : Bool := f.from_.isSome && decide (1 < leafTier e)
/-- An access goes on to its home under its leaf, `lag` cycles and more after it: permissions, keys and ranks first, then the
tier. Copy engines reach every tier (R354 to R356). What a rank sends back to this device is translated here again, where its leaf fails
(R349). -/
def State.resolve (s : State) (c : Change) (id : Nat) (f : Flight) (va level : Nat) (e : Word) (lag : Nat) : Change :=
  if tierFails f e then s.failAccess c id f (unitRecord 0x092 va)
  else match s.leafPlace f.org.tenant va level e f.cargo.needs.1 f.cargo.needs.2 with
  | .error cause => s.failAccess c id f (unitRecord cause va)
  | .ok (pl, key) =>
    let tier := leafTier e
    if tier = 3 ∧ pl = .away s.dev.chip va then s.failAccess c id f (unitRecord 0x092 va)
    else if f.from_.isNone && !f.isCopy && (decide (tier = 2) || (decide (tier = 1) && !e.getLsbD 6)) then
      s.failAccess (c.unitEvent id f 0 va) id f (unitRecord 0x095 va)
    else
      let c := if f.from_.isNone && !f.isCopy && decide (tier = 1) then c.unitEvent id f 1 va else c
      let c := match pl, f.cargo with
        | .away .., .effect (x : Effect) =>
          if f.miss then c.missFor f .sys (s.dev.now + 1)
          else c.scopeMiss f.org (x.missed.map fun (m : Nat × Nat × Nat) => (m.1, m.2.1, f.ea)) .sys (s.dev.now + 1)
        | _, _ => if f.miss then c.missFor f .dev (s.dev.now + 1) else c
      let at_ := s.dev.now + lag + Config.delay c.dev.fresh
      ((c.tick.updFlight id fun f => { f with place := pl, key := key, va := some va, miss := false })).sched at_ f.cargo.homeEvent
        { a := id }
/-- A leaf that a station holds for an address. -/
def State.cachedLeaf (s : State) (station tenant pid va : Nat) : Option Trans :=
  (s.dev.cached.get [] station).find? fun t =>
    t.tenant == tenant && t.pid == pid && decide (t.page / 2 ^ t.size = va / 2 ^ t.size)
def levelOf (size : Nat) : Nat := if size = 16 then 0 else if size = 21 then 1 else 2
/-- Accesses that wait in a station's miss queue. -/
def State.missesAt (s : State) (station : Nat) : Nat :=
  (s.dev.walks.filter fun w => w.2.station == station).foldl (fun n w => n + w.2.waiters.length) 0
/-- A `.g` access stands at its station: it is translated, or takes a place in the miss queue. A read whose bytes are all forwarded
needs nothing from memory. Arg: flight. -/
def execTranslation (s : State) : Out :=
  let id := s.dev.arg.a
  s.occur <| match s.flight with
  | none => s.keep
  | some f =>
    let now := if f.stood = 0 then (s.keep.updFlight id fun f => { f with stood := s.dev.fresh + 1 }).tick else s.keep
    match f.place with
    | .virt va =>
      let o := f.org
      let st := stationOf o.core va
      let forwarded := match f.cargo with
        | .read _ _ _ _ fwd => !fwd.isEmpty && fwd.all Option.isSome
        | _ => false
      if forwarded then (s.keep.updFlight id fun f => { f with place := .unit }).sched s.dev.now .arrivingAccess { a := id }
      else match s.cachedLeaf st o.tenant o.pid va with
      | some t => s.resolve now id f va (levelOf t.size) t.leaf 8
      | none =>
        if 4096 ≤ s.missesAt st then s.retry now .translation
        else
          match s.dev.walks.find? fun w => w.2.station == st && w.2.tenant == o.tenant && w.2.pid == o.pid && w.2.unit == va / 65536 with
          | some w => now.dv fun d => { d with walks := d.walks.set w.1 { w.2 with waiters := w.2.waiters ++ [id] } }
          | none =>
            let n := now.dev.fresh
            let w : Walk := { station := st, tenant := o.tenant, pid := o.pid, unit := va / 65536, waiters := [id] }
            (now.tick.dv fun d => { d with walks := d.walks.set n w }).soon .walk { a := n }
    | _ => s.keep

/-! ## Walks -/

/-- A walk may start: one of 256 walkers is free, and no walk of the station that began to wait before it still waits. -/
def State.mayWalk (s : State) (n station : Nat) : Bool :=
  let here := s.dev.walks.filter fun w => w.2.station == station
  decide ((here.filter fun w => w.2.running).length < 256) && !(here.any fun w => decide (w.1 < n) && !w.2.running)
/-- Every waiter of a walk meets its end. -/
def State.endWalk (s : State) (n : Nat) (w : Walk) (f : Change → Nat → Flight → Change) : Change :=
  w.waiters.foldl (fun c id => match c.dev.flights.find id with
    | some x => f c id x
    | none => c) (s.keep.dv fun d => { d with walks := d.walks.drop n })
/-- Cache a leaf; a full station displaces one that the manual leaves open. -/
def Change.cache (c : Change) (station : Nat) (t : Trans) : Change :=
  let l := c.dev.cached.get [] station
  if l.length < 32768 then c.dv fun d => { d with cached := d.cached.set station (l ++ [t]) }
  else (c.dv fun d => { d with cached := d.cached.set station (l.eraseIdx (Config.choice c.dev.fresh % l.length) ++ [t]) }).tick
/-- One table read of a walk. A leaf is cached when some access that waits may use it. Arg: walk. -/
def execWalk (s : State) : Out :=
  let n := s.dev.arg.a
  s.occur <| match s.dev.walks.find n with
  | none => s.keep
  | some w =>
    let put (w : Walk) : Change := s.keep.dv fun d => { d with walks := d.walks.set n w }
    if !w.running then
      (if s.mayWalk n w.station then (put { w with running := true }).soon .walk { a := n } else s.again .walk)
    else
      let va := w.unit * 65536
      if w.again && decide (w.level < 5) then (put { w with level := 4, table := w.root, again := false }).soon .walk { a := n }
      else match s.walkRead w.tenant w.pid va w.level w.table with
      | .table l t =>
        (put { w with level := l, table := t, root := if w.level = 5 then t else w.root, again := false }).soon .walk { a := n }
      | .fails cause detail =>
        s.endWalk n w fun c id f => s.failAccess c id f (BitVec.ofNat 64 (cause + detail % 2 ^ 48 * 65536))
      | .leaf level e =>
        let vaOf (f : Flight) : Nat := match f.place with
          | .virt a => a
          | _ => va
        let passes := w.waiters.any fun id => match s.dev.flights.find id with
          | some f => !tierFails f e && (match s.leafPlace w.tenant (vaOf f) level e f.cargo.needs.1 f.cargo.needs.2 with
            | .ok _ => true
            | .error _ => false)
          | none => false
        let t : Trans := { tenant := w.tenant, pid := w.pid, size := leafSize level, page := va, leaf := e }
        let c := s.endWalk n w fun c id f => s.resolve c id f (vaOf f) level e 1
        if passes then c.cache w.station t else c

end Sys2Proof.Machine
end

