-- ==== Sys2Proof/Machine/Bindings.lean ====
section
/-!
DEFINITION. Messages at the network interface of their target: acceptance, refusal and retry, bounces, task entries (R216, R222,
R223, R227, R319, R363), and the bindings of helpers and of the control activation (R217, R221, R224 to R226, R320, R321).
-/

namespace Sys2Proof.Machine

/-- The domain of the launch that a core runs. -/
def State.domOf (s : State) (p : Nat) : Option Nat := (s.launchOf p).map fun l => l.dom
/-- The core has accepted the wake of the launch that a message belongs to (R216). (DEDUCED, log entry 71.) -/
def State.awake (s : State) (o : Origin) (q : Nat) : Bool := s.domOf q == some o.dom

/-! ## Acceptance (R222, R223, R227) -/

def HaltState.bounces : HaltState → Bool
  | .requested b => b
  | .halted b => b
  | .none => false
/-- A core takes a message that an instruction sent. -/
def Core.takes (k : Core) (cost : Nat) : Bool := k.roomSent cost && !k.halt.bounces
/-- A refused message is tried again after 64 cycles, then after doubling intervals up to 4,096. -/
def State.refused (s : State) (id q n : Nat) : Change :=
  ((s.keep.updFlight id fun f => { f with waited := n + 1 }).count q 20).sched (s.dev.now + min 4096 (64 * 2 ^ min n 6)) .sendRetry { a := id }
def Change.accepted (c : Change) (q : Nat) : Change := (c.core q fun k => { k with accepted := k.accepted + 1 }).count q 19
/-- The channel of a message's triple: a spawn offer's is 1, the task queue is one of its own. -/
def Effect.triple : Effect → Option Nat
  | .send _ ch _ _ => some ch
  | .spawn .. => some 1
  | .task .. => some 64
  | _ => none
/-- An earlier message of the same source, target and channel has not been accepted. -/
def State.tripleHeld (s : State) (id : Nat) (f : Flight) (e : Effect) : Bool :=
  s.dev.flights.any fun g => decide (g.1 < id) && g.2.org.core == f.org.core && g.2.place == f.place && match g.2.cargo with
    | .effect x => x.triple == e.triple
    | _ => false
/-- A task's notices for its target that left before it (R322). -/
def State.noticeAhead (s : State) (id p q : Nat) : Bool :=
  s.dev.tagNotices.any fun n => n.2.1 == p && n.2.2.1 == q && decide (n.2.2.2.2.2 < id)
/-- The TENANT and CRC of an entry (R319). -/
def State.entryPasses (s : State) (q : Nat) (ws : List Word) : Bool :=
  decide (bits (ws.getD 0 0) 39 7 = ((s.launchOf q).map Launch.tenant).getD 0) && crcFill ws 1 32 == ws
/-- A sent message stands at its target: it waits for the wake, is accepted, refused, or bounced. -/
def State.deliver (s : State) (ev : Instr) : Change :=
  let id := s.dev.arg.a
  match s.flight with
  | none => s.keep
  | some f => match f.cargo, f.place with
    | .effect e, .chan q =>
      if e.triple.isNone then s.keep
      else if !(s.dev.launches.any fun l => l.2.dom == f.org.dom && l.2.has (physCluster q)) then s.keep.landed id
      else if !s.routed f.org.tenant f.org.core q then s.dropRouted s.keep id f q
      else if s.tripleHeld id f e || !s.awake f.org q || (s.clu (physCluster q)).gated then s.again ev
      else match e with
      | .send _ ch ws v =>
        let cost := if v then 264 else 16
        if (s.core q).takes cost then
          (((s.keep.acceptMsg q { org := f.org, chan := ch, words := ws.map fun w => (w, false), cost := cost, vector := v, bad := f.bad }).accepted q).landed id)
        else s.refused id q f.waited
      | .spawn _ entry args fill =>
        if (s.core q).takes 48 then
          let seq := (s.core q).seq + 1
          ((s.keep.acceptMsg q {
            org := f.org, chan := 1, words := args.map fun w => (w, false), cost := 48, offer := some fill, entry := entry, bad := f.bad }).landed id).sched
              (s.dev.now + 64) .spawnBounce { a := q, b := seq }
        else
          ((((s.keep.count q 20).count q 17).accepted q).answer fill 0).landed id
      | .task _ ws =>
        if s.noticeAhead id f.org.core q then s.again ev
        else if !s.entryPasses q ws then
          ((s.keep.logErr 0 (indexOf ((s.logical q).getD 0)) ((s.launchOf q).map Launch.tenant |>.getD 0) 0x1E9
            (BitVec.ofNat 64 ((s.logical q).getD 0)) (ws.getD 0 0)).accepted q).landed id
        else if (s.core q).takes 40 then
          let m : Msg := {
            org := { f.org with ts := bits (ws.getD 1 0) 0 32, fsx := (ws.getD 0 0).getLsbD 18 }, chan := 64
            words := [(ws.getD 2 0, false), (ws.getD 3 0, false)], cost := 40, entry := bits (ws.getD 0 0) 0 18
            bad := (f.bad.filter fun b => 2 ≤ b.1).map fun b => (b.1 - 2, b.2) }
          ((s.keep.core q fun k => { k with seq := k.seq + 1, tasks := k.tasks ++ [{ m with seq := k.seq + 1, at_ := s.dev.now }] }).accepted
            q).landed id
        else s.refused id q f.waited
      | _ => s.keep
    | _, _ => s.keep
/-- The next unit of a block read is offered to its channel (R156). -/
def State.deliverBlock (s : State) : Change :=
  let id := s.dev.arg.a
  match s.dev.breads.find id with
  | none => s.keep
  | some b =>
    let cost := b.unit * 8 + 8
    if s.domOf b.core ≠ some b.org.dom ∧ s.dev.launches.any (fun l => l.2.dom == b.org.dom) then s.again .messageAccept
    else if s.domOf b.core ≠ some b.org.dom then s.keep.dv fun d => { d with breads := d.breads.drop id }
    else if !(s.core b.core).roomDevice cost || (s.clu (physCluster b.core)).gated then s.again .messageAccept
    else
      let word (i : Nat) : Word × Bool := match b.got.find? fun g => g.1 == b.sent * b.unit + i with
        | some g => g.2
        | none => (0, false)
      let m : Msg := {
        org := b.org, device := true, chan := b.chan, words := (List.range b.unit).map word, cost := cost, vector := decide (b.unit = 32) }
      let c := s.keep.acceptMsg b.core m
      let sent := b.sent + 1
      if b.total ≤ sent * b.unit then c.dv fun d => { d with breads := d.breads.drop id }
      else
        let c := c.dv fun d => { d with breads := d.breads.set id { b with sent := sent } }
        if (List.range b.unit).all fun i => b.got.any fun g => g.1 == sent * b.unit + i then
          c.sched (s.dev.now + 1) .messageAccept { a := id, b := 1 }
        else c
/-- A message reaches its target. Arg: flight; or block read, 1. -/
def execMessageAccept (s : State) : Out := s.occur (if s.dev.arg.b = 1 then s.deliverBlock else s.deliver .messageAccept)
/-- The sender's interface tries again. Arg: flight. -/
def execSendRetry (s : State) : Out := s.occur (s.deliver .sendRetry)
/-- A task entry reaches its target. Arg: flight. -/
def execTaskEntry (s : State) : Out := s.occur (s.deliver .taskEntry)
/-- An offer's 64 cycles are over; a child that has been bound, and put back by R237, is no offer any more. Arg: core, the message's
number. -/
def execSpawnBounce (s : State) : Out :=
  let q := s.dev.arg.a
  s.occur <| match ((s.core q).chans.get [] 1).find? fun m => m.seq == s.dev.arg.b with
  | none => s.keep
  | some m => match m.offer with
    | some fill => (((s.keep.core q fun k => { k with chans := k.chans.upd [] 1 fun l => l.filter fun x => x.seq != m.seq }).count q 17).accepted
        q).answer fill 0
    | none => s.keep

/-! ## Runnable channels (R221, R224, R320) -/

/-- Words that stand on a channel, counted as arrived. -/
def wordsOn (now : Nat) (ms : List Msg) : Nat :=
  ((ms.takeWhile fun m => decide (m.at_ < now)).map fun m => m.words.length - m.taken).foldl (· + ·) 0
/-- The task that the queue serves next: the lowest TS, and among equals the first to arrive. -/
def firstTask : List Msg → Option Msg
  | [] => none
  | m :: ms => match firstTask ms with
    | none => some m
    | some x => some (if x.org.ts < m.org.ts then x else m)
/-- What the channel's next binding goes by; 64 is the task queue. (DEDUCED, log entry 69.) -/
def State.entryOf (s : State) (p ch : Nat) : Handler :=
  let k := s.core p
  let head := (k.chans.get [] ch).head?
  if ch = 0 then { k.ch0 with ctl := true }
  else if ch = 1 then { k.ch1 with entry := (head.map fun m => m.entry).getD 0 }
  else if ch = 2 then (match head with
    | some m => { entry := m.entry, prio := (m.words.head?.map fun w => w.1.toNat % 8).getD 0, rep := true }
    | none => {})
  else if ch = 64 then (match firstTask k.tasks with
    | some m => { entry := m.entry, prio := k.ch1.prio, rep := true, spec := true }
    | none => {})
  else k.handler ch
/-- The activations of a channel that are live. -/
def Core.liveOn (k : Core) (ch : Nat) : Nat := (k.ctxs.filter fun x => x.2.live && x.2.act.chan == ch).length
/-- An activation of the launch may be speculative from its binding: tasks, and a node dispatched early (R321). -/
def State.aheadBinding (s : State) (p ch ts : Nat) : Bool :=
  decide ((s.core p).horizon < ts) && (ch == 64 || match s.launchOf p with
    | some l => l.early
    | none => false)
def State.sliceFull (s : State) (p : Nat) : Bool := decide (1024 ≤ (s.clu (physCluster p)).commits.length)
/-- The message at the head of a channel. -/
def State.headOf (s : State) (p ch : Nat) : Option Msg :=
  if ch = 64 then firstTask (s.core p).tasks else ((s.core p).chans.get [] ch).head?
/-- A channel is runnable; an offer that finds the spawn quota full waits for its 64 cycles, as R225 and R227 say.
(DESIGN CHOICE, log entry 119.) -/
def State.runnable (s : State) (p ch : Nat) : Bool :=
  let k := s.core p
  let h := s.entryOf p ch
  match s.headOf p ch with
  | none => false
  | some m =>
    decide (m.at_ < s.dev.now) && !h.mask && decide (h.from_ ≤ s.dev.now) &&
      !(s.sliceFull p && (ch == 64 || s.aheadBinding p ch m.org.ts)) &&
      (ch < 3 || ch == 64 || !(k.ctxs.any fun x => x.2.live && x.2.act.chan == ch)) &&
      (ch != 1 || decide (k.liveOn 1 < k.quota)) &&
      (ch < 16 || ch == 64 || decide (h.narg ≤ wordsOn s.dev.now (k.chans.get [] ch)))
/-- The source that the next binding of a class serves: the highest priority, then the first at or after the pointer. -/
def State.chosen (s : State) (p : Nat) (ctl : Bool) : Option Nat :=
  let from_ := if ctl then (s.core p).rrControl else (s.core p).rrHelper
  let can := (List.range 65).filter fun ch => s.runnable p ch && (s.entryOf p ch).ctl == ctl
  let best := (can.map fun ch => (s.entryOf p ch).prio).foldl min 7
  let top := can.filter fun ch => (s.entryOf p ch).prio == best
  match top.find? fun ch => decide (from_ ≤ ch) with
  | some ch => some ch
  | none => top.head?

/-! ## Binding -/

/-- The cores of a launch, and the place of a core among them: live count and live index (R15). -/
def State.liveIndex (s : State) (l : Launch) (p : Nat) : Nat := ((s.coresOf l).takeWhile fun n => s.phys n != p).length
/-- The presets of a wake (R217): the registers of slot 0, and w1 to w5. -/
def State.wakeWords (s : State) (l : Launch) (p : Nat) : List Word :=
  [BitVec.ofNat 64 l.lid, l.argp, BitVec.ofNat 64 (s.liveIndex l p), BitVec.ofNat 64 (s.coresOf l).length, l.total]
def Change.wakeContext (c : Change) (l : Launch) (p : Nat) : Change :=
  c.ctx p 0 fun x => { x with
    mode := BitVec.ofNat 64 l.mode, pid := l.pid, tenant := l.tenant, status := 0, srseed := if l.seed = 0 then 1 else l.seed }
/-- What a binding takes from its channel: the messages reached, what stays, and the words placed. -/
def placedFrom (ch narg : Nat) (q : List Msg) : List Msg × List Msg × List (Word × Bool) :=
  match q with
  | [] => ([], [], [])
  | m :: rest =>
    if ch = 1 then ([m], rest, m.delivered)
    else if ch < 3 then ([m], rest, [])
    else if ch = 3 then ([m], rest, m.delivered.take (min narg 2))
    else if ch < 16 ∨ narg = 0 then ([m], q, [])
    else (takeWords narg q).getD ([m], q, [])
/-- The report word of an activation (R408); where nothing is placed it is open.
(DESIGN CHOICE, log entry 68.) -/
def reportWord (ch fresh : Nat) (m : Msg) (ws : List Word) : Word :=
  if ch = 0 then ws.getD 2 0 else match m.done with
    | some d => d.1
    | none => ws.headD (Config.word fresh)
/-- Bind the message at the head of a source to a slot. A trap for the FSX of a task entry's words names channel 0. (DESIGN CHOICE, log
entry 138.) -/
def State.bindFrom (s : State) (p sl ch : Nat) : Change :=
  let k := s.core p
  let h := s.entryOf p ch
  match s.headOf p ch, s.launchOf p with
  | some m, some l =>
    let (reached, rest, placed) :=
      if ch = 64 then ([m], [], m.delivered) else placedFrom ch h.narg (k.chans.get [] ch)
    let placed := if ch = 0 then (s.wakeWords l p).map fun w => (w, false) else placed
    let ws := placed.map fun w => w.1
    let a : Act := {
      chan := ch % 64, prio := h.prio, cls := slotClass sl, rep := h.rep, maySpec := h.spec, ts := m.org.ts, dom := l.dom
      trig := some { m with offer := none }, kept := (reached.drop 1).map fun r => { r with taken := 0 }
      report := reportWord ch s.dev.fresh m ws, parent := if ch = 64 then m.org.tag else 0, missAt := m.at_
      fsxNeed := if placed.isEmpty then [] else
        (reached.filter fun r => !r.device).map fun r => (r.org.fsx, (s.logical r.org.core).getD 0, ch % 64) }
    let c := s.keep.core p fun k => if ch = 64 then { k with tasks := k.tasks.erase m } else
      { k with chans := k.chans.set ch (if placed.isEmpty then rest else readBegun s.dev.fresh reached rest) }
    let c := if ch = 0 then c.wakeContext l p else c
    let num := c.dev.fresh
    let c := s.bind c p sl h.entry a ws
    let base := if 11 ≤ sl ∧ sl ≤ 14 then reserveKey p sl 0 else nearKey p (slotWp k.wpbase sl)
    let c := placed.zipIdx.foldl (fun c w => if w.1.2 then c.putWord (base + 8 * (w.2 + 1)) w.1.1 .poison else c) c
    let c := match m.offer with
      | some fill => ((c.answer fill 1).accepted p).count p 16
      | none => c
    let c := match m.done with
      | some d => c.dv fun v => { v with copies := v.copies.filter fun x => !(x.2.core == p && x.2.accepted && x.2.xid == d.1.toNat) }
      | none => c
    let c := if s.aheadBinding p ch m.org.ts then c.ahead p sl num ((s.logical p).getD 0) m.org.ts else c
    (c.inputRead p).core p fun k => if (s.entryOf p ch).ctl then { k with rrControl := (ch + 1) % 65 } else { k with rrHelper := (ch + 1) % 65 }
  | _, _ => s.keep
/-- The core binds activations: it is in a running launch and no halt stops it (R416). -/
def State.binds (s : State) (p : Nat) : Bool :=
  let k := s.core p
  k.halt == .none && !k.dead && !k.failed && !k.scanning && !(s.clu (physCluster p)).gated && match s.launchOf p with
    | some l => l.phase == .running
    | none => false
/-- At most one helper is bound in a cycle. Arg: core. -/
def execHelperBinding (s : State) : Out :=
  let p := s.dev.arg.a
  s.occur <| match s.binds p, ((List.range 10).map (· + 1)).find? (slotFree s.dev p), s.chosen p false with
  | true, some sl, some ch => s.bindFrom p sl ch
  | _, _, _ => s.keep
/-- At most one control activation is bound in a cycle. Arg: core. -/
def execControlBinding (s : State) : Out :=
  let p := s.dev.arg.a
  s.occur <| match s.binds p && slotFree s.dev p 0, s.chosen p true with
  | true, some ch => s.bindFrom p 0 ch
  | _, _ => s.keep

end Sys2Proof.Machine
end

