-- ==== Sys2Proof/Machine/ScalarFp.lean ====
section
/-!
DEFINITION. Scalar FP32 instructions and FCVT (R120 to R123).
-/

namespace Sys2Proof.Machine

/-- The FP32 result in bits 31:0, zero above (R120). -/
def fword (x : Nat) : Word := BitVec.ofNat 64 (x % 2 ^ 32)

def execFadd (d a b : Reg) (s : State) : Out := s.scalar2 4 d a b fun x y => fword (fadd x.toNat y.toNat)
def execFsub (d a b : Reg) (s : State) : Out := s.scalar2 4 d a b fun x y => fword (fsub x.toNat y.toNat)
def execFmul (d a b : Reg) (s : State) : Out := s.scalar2 4 d a b fun x y => fword (fmul x.toNat y.toNat)
def execFfma (d a b : Reg) (s : State) : Out :=
  s.scalar3 4 d a b fun x y z => fword (ffma x.toNat y.toNat z.toNat)
def execFmin (d a b : Reg) (s : State) : Out := s.scalar2 4 d a b fun x y => fword (fmin x.toNat y.toNat)
def execFmax (d a b : Reg) (s : State) : Out := s.scalar2 4 d a b fun x y => fword (fmax x.toNat y.toNat)
def execFabs (d a : Reg) (s : State) : Out := s.scalar1 4 d a fun x => fword (fabs x.toNat)
def execFneg (d a : Reg) (s : State) : Out := s.scalar1 4 d a fun x => fword (fneg x.toNat)
def execFdiv (d a b : Reg) (s : State) : Out :=
  s.divide d (s.srcW a ++ s.srcW b) 16 (fword (fdiv (s.w a).toNat (s.w b).toNat))
def execFsqrt (d a : Reg) (s : State) : Out := s.divide d (s.srcW a) 16 (fword (fsqrt (s.w a).toNat))
def execFclass (d a : Reg) (s : State) : Out := s.scalar1 4 d a fun x => BitVec.ofNat 64 (fclass x.toNat)
def execFcmp (d : BitVec 3) (a b : Reg) (c : FCond) (s : State) : Out :=
  s.toPred 4 d a b fun x y => FCond.eval c x.toNat y.toNat

/-- The seeds and draws of `n` elements, in order (R79): those draws, and the seed after them. -/
def draws : Nat → Word → List Nat × Word
  | 0, seed => ([], seed)
  | n + 1, seed =>
    let t := srStep seed
    let (l, e) := draws n t
    (srDraw t :: l, e)
/-- Advance SRSEED by the draws of an instruction under `.sr`; an MTC of the same pair stands (R63, R202). -/
def State.seeded (s : State) (c : Change) (rnd : Rnd) (n : Nat) : Change :=
  if rnd = .sr then
    let e := (draws n s.opCtx.srseed).2
    c.me fun x => if x.srseed = s.opCtx.srseed then { x with srseed := e } else x
  else c
/-- The k-th draw of the instruction. -/
def State.draw (s : State) (rnd : Rnd) (n k : Nat) : Nat := if rnd = .sr then (draws n s.opCtx.srseed).1.getD k 0 else 0

/-- FCVT's result (R123). -/
def fcvt (fsx : Bool) (x : Fmt) (c : Rnd) (toX : Bool) (r : Nat) (a : Word) : Word :=
  if toX then
    let v := roundNum fsx x c r (f32 a.toNat)
    if intFmt x = some true then sext (fmtBits x) v else BitVec.ofNat 64 v
  else BitVec.ofNat 64 (roundNum fsx .f32 c r (decodeNum fsx x (a.toNat % 2 ^ fmtBits x)))
def execFcvt (d a : Reg) (x : Fmt) (c : Rnd) (r : Bool) (s : State) : Out :=
  s.issue { src := s.srcW a, dst := s.dstW d } none
    (.ok (s.setW (s.seeded s.keep c 1) 3 d (fcvt s.fsx x c r (s.draw c 1 0) (s.w a))))

end Sys2Proof.Machine
end

