-- ==== Sys2Proof/Machine/Vector.lean ====
section
/-!
DEFINITION. Vector integer, data-movement, mask and reduction instructions (R124 to R132, R135 to R138).
-/

namespace Sys2Proof.Machine

/-! ## Shapes -/

/-- The element-wise template of R124 at width `w`, on the sources `srcs` and the execution mask m. -/
def State.lanewise (s : State) (lat : Nat) (d : Reg) (srcs : List Reg) (m : BitVec 3) (w : Nat) (readsD : Bool)
    (f : Nat → Nat → Nat → Nat) : Out :=
  s.vectorOp lat d srcs (s.srcM m) (maskBytes (s.m m)) readsD
    fun vs old => mapLanes w f (vs.getD 0 0) (vs.getD 1 0) old
/-- A vector built as a whole from the sources and written under the mask; `words` are its scalar sources. -/
def State.rearrange (s : State) (d : Reg) (srcs : List Reg) (words : List Nat) (m : BitVec 3) (f : List Vec → Vec) : Out :=
  s.vectorOp 2 d srcs (s.srcM m ++ words) (maskBytes (s.m m)) false fun vs _ => f vs
/-- A vector instruction whose result goes to a scalar or a mask: `fp` its destination and further sources, and `put` the
write of the result that the vector sources give. -/
def State.fromVec (s : State) (srcs : List Reg) (fp : Foot) (put : Change → List Vec → Change) : Out :=
  s.issue { fp with src := fp.src ++ srcs.flatMap fun c => (s.vsrc c).words } (s.queueWait srcs none) <|
    match s.srcTrap srcs none with
    | some t => .error t
    | none => .ok (put (s.popAll s.keep srcs) (srcs.map fun c => (s.vsrc c).val))

/-! ## Vector integer (R129 to R132) -/

/-- The integer instructions of R129 on signed or unsigned elements, at one width. -/
def State.vint (s : State) (d a b : Reg) (m : BitVec 3) (e : EW) (f : Nat → Nat → Nat → Nat) : Out :=
  s.lanewise 2 d [a, b] m (EW.bits e) false f

def execVadd (d a b : Reg) (m : BitVec 3) (e : EW) (s : State) : Out := s.vint d a b m e fun x y _ => x + y
def execVsub (d a b : Reg) (m : BitVec 3) (e : EW) (s : State) : Out :=
  s.vint d a b m e fun x y _ => wrap (EW.bits e) ((x : Int) - y)
def execVmul (d a b : Reg) (m : BitVec 3) (e : EW) (s : State) : Out := s.vint d a b m e fun x y _ => x * y
/-- The upper half of a product (R129). -/
def mulHigh (signed : Bool) (w x y : Nat) : Nat := wrap w (readAs signed w x * readAs signed w y / (2 ^ w : Nat))
def execVmulhI (d a b : Reg) (m : BitVec 3) (e : EW) (s : State) : Out :=
  s.vint d a b m e fun x y _ => mulHigh true (EW.bits e) x y
def execVmulhN (d a b : Reg) (m : BitVec 3) (e : EW) (s : State) : Out :=
  s.vint d a b m e fun x y _ => mulHigh false (EW.bits e) x y

/-- Byte j of a 32-bit lane, read signed or unsigned. -/
def byteOf (signed : Bool) (x j : Nat) : Int := readAs signed 8 (x / 2 ^ (8 * j) % 256)
/-- VMAC (R130): one byte group of each lane. -/
def State.vmac (s : State) (signed : Bool) (d a b : Reg) (m : BitVec 3) (g : Nat) : Out :=
  s.lanewise 4 d [a, b] m 32 true fun x y z => wrap 32 ((z : Int) + byteOf signed x g * byteOf signed y g)
/-- VDOT (R130): the four byte groups of each lane. -/
def State.vdot (s : State) (signed : Bool) (d a b : Reg) (m : BitVec 3) : Out :=
  s.lanewise 4 d [a, b] m 32 true fun x y z =>
    wrap 32 ((z : Int) + byteOf signed x 0 * byteOf signed y 0 + byteOf signed x 1 * byteOf signed y 1
      + byteOf signed x 2 * byteOf signed y 2 + byteOf signed x 3 * byteOf signed y 3)
def execVmacI (d a b : Reg) (m : BitVec 3) (g : BitVec 2) (s : State) : Out := s.vmac true d a b m g.toNat
def execVmacN (d a b : Reg) (m : BitVec 3) (g : BitVec 2) (s : State) : Out := s.vmac false d a b m g.toNat
def execVdotI (d a b : Reg) (m : BitVec 3) (s : State) : Out := s.vdot true d a b m
def execVdotN (d a b : Reg) (m : BitVec 3) (s : State) : Out := s.vdot false d a b m

def execVand (d a b : Reg) (m : BitVec 3) (e : EW) (s : State) : Out := s.vint d a b m e fun x y _ => x &&& y
def execVor (d a b : Reg) (m : BitVec 3) (e : EW) (s : State) : Out := s.vint d a b m e fun x y _ => x ||| y
def execVxor (d a b : Reg) (m : BitVec 3) (e : EW) (s : State) : Out := s.vint d a b m e fun x y _ => x ^^^ y
def execVshl (d a b : Reg) (m : BitVec 3) (e : EW) (s : State) : Out :=
  s.vint d a b m e fun x y _ => if EW.bits e ≤ y then 0 else x * 2 ^ y
def execVshr (d a b : Reg) (m : BitVec 3) (e : EW) (s : State) : Out :=
  s.vint d a b m e fun x y _ => if EW.bits e ≤ y then 0 else x / 2 ^ y
def execVsra (d a b : Reg) (m : BitVec 3) (e : EW) (s : State) : Out :=
  s.vint d a b m e fun x y _ => wrap (EW.bits e) (sgn (EW.bits e) x / (2 ^ min y (EW.bits e - 1) : Nat))

/-- The smaller and the larger of two elements, read signed or unsigned. -/
def lesser (signed : Bool) (w x y : Nat) : Nat := if readAs signed w y < readAs signed w x then y else x
def greater (signed : Bool) (w x y : Nat) : Nat := if readAs signed w x < readAs signed w y then y else x
def execVminI (d a b : Reg) (m : BitVec 3) (e : EW) (s : State) : Out :=
  s.vint d a b m e fun x y _ => lesser true (EW.bits e) x y
def execVminN (d a b : Reg) (m : BitVec 3) (e : EW) (s : State) : Out :=
  s.vint d a b m e fun x y _ => lesser false (EW.bits e) x y
def execVmaxI (d a b : Reg) (m : BitVec 3) (e : EW) (s : State) : Out :=
  s.vint d a b m e fun x y _ => greater true (EW.bits e) x y
def execVmaxN (d a b : Reg) (m : BitVec 3) (e : EW) (s : State) : Out :=
  s.vint d a b m e fun x y _ => greater false (EW.bits e) x y
def execVabs (d a : Reg) (m : BitVec 3) (e : EW) (s : State) : Out :=
  s.lanewise 2 d [a] m (EW.bits e) false fun x _ _ => (sgn (EW.bits e) x).natAbs

/-- Sat(x, range of w) of R129, as an element. -/
def satTo (signed : Bool) (w : Nat) (x : Int) : Nat := wrap w (clamp (rangeLo signed w) (rangeHi signed w) x)
def execVaddsatI (d a b : Reg) (m : BitVec 3) (e : EW) (s : State) : Out :=
  s.vint d a b m e fun x y _ => satTo true (EW.bits e) (sgn (EW.bits e) x + sgn (EW.bits e) y)
def execVaddsatN (d a b : Reg) (m : BitVec 3) (e : EW) (s : State) : Out :=
  s.vint d a b m e fun x y _ => satTo false (EW.bits e) ((x : Int) + y)
def execVsubsatI (d a b : Reg) (m : BitVec 3) (e : EW) (s : State) : Out :=
  s.vint d a b m e fun x y _ => satTo true (EW.bits e) (sgn (EW.bits e) x - sgn (EW.bits e) y)
def execVsubsatN (d a b : Reg) (m : BitVec 3) (e : EW) (s : State) : Out :=
  s.vint d a b m e fun x y _ => satTo false (EW.bits e) ((x : Int) - y)

/-- The rounding shift right of R131: 32-bit lanes, saturated into a range of width `w`. -/
def vrshr (signed : Bool) (w x y : Nat) : Nat :=
  let v := readAs signed 32 x
  let n := min y 63
  let r := if n = 0 then v else (v + (2 ^ (n - 1) : Nat)) / (2 ^ n : Nat)
  wrap 32 (clamp (rangeLo signed w) (rangeHi signed w) r)
def execVrshrI (d a b : Reg) (m : BitVec 3) (e : EW) (s : State) : Out :=
  s.lanewise 2 d [a, b] m 32 false fun x y _ => vrshr true (EW.bits e) x y
def execVrshrN (d a b : Reg) (m : BitVec 3) (e : EW) (s : State) : Out :=
  s.lanewise 2 d [a, b] m 32 false fun x y _ => vrshr false (EW.bits e) x y
def execVclampI (d a b : Reg) (m : BitVec 3) (e : EW) (s : State) : Out :=
  s.lanewise 2 d [a, b] m (EW.bits e) true fun x y z => greater true (EW.bits e) y (lesser true (EW.bits e) x z)
def execVclampN (d a b : Reg) (m : BitVec 3) (e : EW) (s : State) : Out :=
  s.lanewise 2 d [a, b] m (EW.bits e) true fun x y z => greater false (EW.bits e) y (lesser false (EW.bits e) x z)

/-- The mask of VCMP: bit i holds when every element of lane i satisfies the condition (R132). -/
def vcmpMask (signed : Bool) (w : Nat) (c : VCond) (a b : Vec) : Word :=
  let ok := (List.range (2048 / w)).map fun k => VCond.eval c (readAs signed w (lane w a k)) (readAs signed w (lane w b k))
  let per := 32 / w
  BitVec.ofNat 64 (((List.range 64).map fun i => if (List.range per).all fun j => ok.getD (i * per + j) false then 2 ^ i else 0).foldl (· + ·) 0)
def State.vcmp (s : State) (signed : Bool) (d : BitVec 3) (a x : Reg) (c : VCond) (e : EW) : Out :=
  s.fromVec [a, x] { dst := s.dstM d } fun ch vs =>
    s.setM ch 2 d (vcmpMask signed (EW.bits e) c (vs.getD 0 0) (vs.getD 1 0))
def execVcmpI (d : BitVec 3) (a x : Reg) (c : VCond) (e : EW) (s : State) : Out := s.vcmp true d a x c e
def execVcmpN (d : BitVec 3) (a x : Reg) (c : VCond) (e : EW) (s : State) : Out := s.vcmp false d a x c e

/-! ## Data movement (R135, R137) -/

/-- Elements at width `w`, each given by its number. -/
def byIndex (w : Nat) (f : Nat → Nat) : Vec := ofLanes w ((List.range (2048 / w)).map f)

def execVmov (d a : Reg) (m : BitVec 3) (s : State) : Out := s.rearrange d [a] [] m fun vs => vs.getD 0 0
def execVsplat (d a : Reg) (m : BitVec 3) (e : EW) (s : State) : Out :=
  s.rearrange d [] (s.srcW a) m fun _ => byIndex (EW.bits e) fun _ => (s.w a).toNat
def execVext (d a b : Reg) (e : EW) (s : State) : Out :=
  s.fromVec [a] { src := s.srcW b, dst := s.dstW d } fun ch vs =>
    s.setW ch 2 d (BitVec.ofNat 64 (lane (EW.bits e) (vs.getD 0 0) ((s.w b).toNat % (2048 / EW.bits e))))
/-- VINS writes one element, if the mask leaves its lane active (R135). -/
def execVins (d a b : Reg) (m : BitVec 3) (e : EW) (s : State) : Out :=
  let w := EW.bits e
  let j := (s.w b).toNat % (2048 / w)
  let act : Nat → Bool := fun k => maskBytes (s.m m) k && decide (k / (w / 8) = j)
  s.vectorOp 2 d [] (s.srcM m ++ s.srcW a ++ s.srcW b) act false fun _ _ => byIndex w fun _ => (s.w a).toNat
def execViota (d a : Reg) (m : BitVec 3) (e : EW) (s : State) : Out :=
  s.rearrange d [] (s.srcW a) m fun _ => byIndex (EW.bits e) fun k => (s.w a).toNat + k
def execVperm (d a b : Reg) (m : BitVec 3) (e : EW) (s : State) : Out :=
  s.rearrange d [a, b] [] m fun vs => byIndex (EW.bits e) fun k =>
    lane (EW.bits e) (vs.getD 0 0) (lane (EW.bits e) (vs.getD 1 0) k % (2048 / EW.bits e))
def execVrot (d a b : Reg) (m : BitVec 3) (e : EW) (s : State) : Out :=
  s.rearrange d [a] (s.srcW b) m fun vs => byIndex (EW.bits e) fun k =>
    lane (EW.bits e) (vs.getD 0 0) ((k + (s.w b).toNat) % (2048 / EW.bits e))
def execVslide (d a b : Reg) (m : BitVec 3) (e : EW) (s : State) : Out :=
  s.rearrange d [a] (s.srcW b) m fun vs => byIndex (EW.bits e) fun k =>
    let j : Int := (k : Int) - (s.w b).toInt
    if 0 ≤ j ∧ j < (2048 / EW.bits e : Nat) then lane (EW.bits e) (vs.getD 0 0) j.toNat else 0
def execVpack (d a b : Reg) (m : BitVec 3) (e : EW) (s : State) : Out :=
  let w := EW.bits e
  let half := 1024 / w
  s.rearrange d [a, b] [] m fun vs => byIndex w fun k =>
    if k < half then lane (2 * w) (vs.getD 0 0) k else lane (2 * w) (vs.getD 1 0) (k - half)
def execVunpk (d a : Reg) (u h : Bool) (m : BitVec 3) (e : EW) (s : State) : Out :=
  let w := EW.bits e
  let base := if h then 1024 / w else 0
  s.rearrange d [a] [] m fun vs => byIndex (2 * w) fun k => wrap (2 * w) (readAs u w (lane w (vs.getD 0 0) (k + base)))
/-- VSEL writes every lane (R135). -/
def execVsel (d a b : Reg) (m : BitVec 3) (s : State) : Out :=
  s.vectorOp 2 d [a, b] (s.srcM m) (fun _ => true) false fun vs _ => byIndex 32 fun k =>
    if (s.m m).getLsbD k then lane 32 (vs.getD 0 0) k else lane 32 (vs.getD 1 0) k

/-! ## Reductions (R138) -/

/-- One level of the pairwise tree. -/
def pairUp (op : Nat → Nat → Nat) : List Nat → List Nat
  | x :: y :: l => op x y :: pairUp op l
  | l => l
/-- The pairwise tree over 2^k elements. -/
def treeReduce (op : Nat → Nat → Nat) : Nat → List Nat → Nat
  | 0, l => l.headD 0
  | k + 1, l => treeReduce op k (pairUp op l)
/-- Levels of the tree for N elements. -/
def treeLevels (w : Nat) : Nat := if w = 32 then 6 else if w = 16 then 7 else 8
/-- The identity that stands for an inactive element. -/
def redIdentity (o w : Nat) : Nat :=
  match o with
  | 2 => 2 ^ (w - 1) - 1
  | 3 => 2 ^ w - 1
  | 4 => 2 ^ (w - 1)
  | 6 => 2 ^ w - 1
  | 9 => 0x80000000
  | 10 => 0x7F800000
  | 11 => 0xFF800000
  | _ => 0
/-- VRED's result on the elements, inactive ones replaced by the identity. -/
def reduce (o w : Nat) (l : List Nat) : Word :=
  let go (op : Nat → Nat → Nat) : Nat := treeReduce op (treeLevels w) l
  match o with
  | 0 => BitVec.ofInt 64 ((l.map (sgn w)).foldl (· + ·) 0)
  | 1 => BitVec.ofNat 64 (l.foldl (· + ·) 0)
  | 2 => sext w (go (lesser true w))
  | 3 => BitVec.ofNat 64 (go (lesser false w))
  | 4 => sext w (go (greater true w))
  | 5 => BitVec.ofNat 64 (go (greater false w))
  | 6 => BitVec.ofNat 64 (go (· &&& ·))
  | 7 => BitVec.ofNat 64 (go (· ||| ·))
  | 8 => BitVec.ofNat 64 (go (· ^^^ ·))
  | 9 => BitVec.ofNat 64 (go fadd)
  | 10 => BitVec.ofNat 64 (go fmin)
  | _ => BitVec.ofNat 64 (go fmax)
def execVred (d a o : Reg) (m : BitVec 3) (e : EW) (s : State) : Out :=
  let w := EW.bits e
  s.fromVec [a] { src := s.srcM m, dst := s.dstW d } fun ch vs =>
    s.setW ch (if 9 ≤ o.toNat then 4 else 2) d (reduce o.toNat w ((List.range (2048 / w)).map fun k =>
      if (s.m m).getLsbD (k * w / 32) then lane w (vs.getD 0 0) k else redIdentity o.toNat w))

/-! ## Masks (R136) -/

/-- mD ← f(mA, mB). -/
def State.mask2 (s : State) (d a b : BitVec 3) (f : Word → Word → Word) : Out :=
  s.issue { src := s.srcM a ++ s.srcM b, dst := s.dstM d } none (.ok (s.setM s.keep 2 d (f (s.m a) (s.m b))))
def execMand (d a b : BitVec 3) (s : State) : Out := s.mask2 d a b (· &&& ·)
def execMor (d a b : BitVec 3) (s : State) : Out := s.mask2 d a b (· ||| ·)
def execMxor (d a b : BitVec 3) (s : State) : Out := s.mask2 d a b (· ^^^ ·)
def execMnot (d a : BitVec 3) (s : State) : Out := s.mask2 d a a fun x _ => ~~~x
def execMpop (d : Reg) (a : BitVec 3) (s : State) : Out :=
  s.issue { src := s.srcM a, dst := s.dstW d } none
    (.ok (s.setW s.keep 2 d (BitVec.ofNat 64 (popCount 64 (s.m a).toNat))))

end Sys2Proof.Machine
end

