-- ==== Sys2Proof/Machine/VectorFp.lean ====
section
/-!
DEFINITION. Vector FP32 instructions (R133, R134).
-/

namespace Sys2Proof.Machine

def execVfadd (d a b : Reg) (m : BitVec 3) (s : State) : Out := s.lanewise 4 d [a, b] m 32 false fun x y _ => fadd x y
def execVfsub (d a b : Reg) (m : BitVec 3) (s : State) : Out := s.lanewise 4 d [a, b] m 32 false fun x y _ => fsub x y
def execVfmul (d a b : Reg) (m : BitVec 3) (s : State) : Out := s.lanewise 4 d [a, b] m 32 false fun x y _ => fmul x y
def execVffma (d a b : Reg) (m : BitVec 3) (s : State) : Out := s.lanewise 4 d [a, b] m 32 true ffma
def execVfmin (d a b : Reg) (m : BitVec 3) (s : State) : Out := s.lanewise 4 d [a, b] m 32 false fun x y _ => fmin x y
def execVfmax (d a b : Reg) (m : BitVec 3) (s : State) : Out := s.lanewise 4 d [a, b] m 32 false fun x y _ => fmax x y
def execVfexp2 (d a : Reg) (m : BitVec 3) (s : State) : Out := s.lanewise 8 d [a] m 32 false fun x _ _ => fexp2 x
def execVflog2 (d a : Reg) (m : BitVec 3) (s : State) : Out := s.lanewise 8 d [a] m 32 false fun x _ _ => flog2 x
def execVfrcp (d a : Reg) (m : BitVec 3) (s : State) : Out := s.lanewise 8 d [a] m 32 false fun x _ _ => frcp x
def execVfrsq (d a : Reg) (m : BitVec 3) (s : State) : Out := s.lanewise 8 d [a] m 32 false fun x _ _ => frsq x

end Sys2Proof.Machine
end

