-- ==== Sys2Proof/Machine/Convert.lean ====
section
/-!
DEFINITION. Vector conversions, plain and with block scales (R139 to R141).
-/

namespace Sys2Proof.Machine

/-- Element k of the narrow side: bits [n×k + n − 1 : n×k] (R67, R139). -/
def narrow (n : Nat) (v : Vec) (k : Nat) : Nat := (v.extractLsb' (n * k) n).toNat
/-- The narrow side with these 64 elements, and zero above them (R139). -/
def ofNarrow (n : Nat) (l : List Nat) : Vec := BitVec.ofNat 2048 (l.foldr (fun x acc => x % 2 ^ n + 2 ^ n * acc) 0)
/-- Wide lane i read under the wide side's format. -/
def wideFmt (int : Bool) : Fmt := if int then .i32 else .f32

/-- The 64 converted elements of VCVT (R140), with the draws of R79. -/
def vcvt (fsx : Bool) (x : Fmt) (c : Rnd) (int toX : Bool) (rs : List Nat) (v : Vec) : Vec :=
  let n := fmtBits x
  let elem (k : Nat) : Nat :=
    if toX then roundNum fsx x c (rs.getD k 0) (decodeNum fsx (wideFmt int) (lane 32 v k))
    else roundNum fsx (wideFmt int) c (rs.getD k 0) (decodeNum fsx x (narrow n v k))
  if toX then ofNarrow n ((List.range 64).map elem) else ofLanes 32 ((List.range 64).map elem)

/-- The draws of the 64 elements under `.sr`. -/
def State.vdraws (s : State) (c : Rnd) : List Nat := if c = .sr then (draws 64 s.opCtx.srseed).1 else []

/-- A conversion of one source into a whole vector or all but its last word. -/
def State.convert (s : State) (d a : Reg) (words : List Nat) (c : Rnd) (act : Nat → Bool) (f : Vec → Vec) : Out :=
  let reg := decide (d.toNat < 16)
  s.issue
    { src := words ++ (s.vsrc a).words
      dst := if reg then (wholeWords act).map (s.vKey d / 8 + ·) else [] }
    (s.queueWait [a] (some d)) <|
    match s.srcTrap [a] (some d) with
    | some t => .error t
    | none => .ok (s.seeded (s.setV (s.popAll s.keep [a]) 3 d act (f (s.vsrc a).val)) c 64)

/-- VCVT: `w` is the INT32 wide side and `r` the direction into the narrow side. (DEDUCED, log entry 26.) -/
def execVcvt (d a : Reg) (x : Fmt) (c : Rnd) (w r : Bool) (s : State) : Out :=
  s.convert d a [] c (fun _ => true) (vcvt s.fsx x c w r (s.vdraws c))

/-- Element k's scale: byte ⌊k/48⌋ of the scale word, as a value or NaN (R76, R141). -/
def scaled (sw : Word) (k : Nat) (up : Bool) (x : Num) : Num :=
  let c := bits sw (8 * (k / 48)) 8
  if c = 255 then .nan else x.scale (if up then (c : Int) - 127 else 127 - (c : Int))

/-- The 64 elements of VCVTS. -/
def vcvts (fsx : Bool) (x : Fmt) (c : Rnd) (toX : Bool) (rs : List Nat) (sw : Word) (v : Vec) : Vec :=
  let n := fmtBits x
  let elem (k : Nat) : Nat :=
    if toX then roundNum fsx x c (rs.getD k 0) (scaled sw k false (f32 (lane 32 v k)))
    else roundNum fsx .f32 c (rs.getD k 0) (scaled sw k true (decodeNum fsx x (narrow n v k)))
  if toX then ofNarrow n ((List.range 64).map elem) else ofLanes 32 ((List.range 64).map elem)

/-- VCVTS: the scale word is word 31 of the narrow-side register, and scaling in keeps it. -/
def execVcvts (d a : Reg) (x : Fmt) (c : Rnd) (r : Bool) (s : State) : Out :=
  let nar := if r then d else a
  s.convert d a [s.vKey nar / 8 + 31] c (fun b => !r || decide (b < 248))
    (vcvts s.fsx x c r (s.vdraws c) (vecWord (s.v nar) 31))

end Sys2Proof.Machine
end

