-- ==== Sys2Proof/Machine/Launches.lean ====
section
/-!
DEFINITION. Launches: the check and queueing of records (R360, R362), starting one (R361 to R365), its wakes (R216, R217), its end
(R218) and launch faults (R407).
-/

namespace Sys2Proof.Machine

/-! ## Reports to the producer (R360, R389) -/

/-- A record's producer learns its status: 0 DONE, 1 CORRUPT, 2 BADREC, 3 DENIED, 4 FAULT. The Wharf, which has made the record of a
packet, another device's or the host's, logs the failure of its checks (R385). (DEDUCED, log entry 74.) -/
def Change.toProducer (c : Change) (l : Launch) (tenant status : Nat) : Change :=
  let c := if l.producer ≤ 1 ∧ 1 ≤ status ∧ status ≤ 3 then c.logErr 9 0 tenant 0x1E8 (BitVec.ofNat 64 status) (l.w 0) else c
  if l.producer = 1 then c
  else if l.producer = 2 then
    c.sched (c.dev.now + 1) .nodeDone { a := l.who, b := l.node, c := if 1 ≤ status ∧ status ≤ 3 then 1 else 0, words := [1] }
  else c.hostReply (if l.producer = 0 then 2 else 4) tenant l.who (BitVec.ofNat 64 status) []

/-! ## Records (R359, R360, R362) -/

/-- A sub-mesh lies inside a tenant's rectangle; the service tenant passes every check.
(DEDUCED, log entry 72.) -/
def State.inside (s : State) (tenant : Nat) (l : Launch) : Bool :=
  tenant == 0 || (let w := (s.dev.tenants.get {} tenant).entry.getD 0 0
    w.getLsbD 63 && decide (bits w 10 4 ≤ l.cx0 ∧ l.cx0 + l.cw ≤ bits w 10 4 + bits w 3 4 ∧
      bits w 7 3 ≤ l.cy0 ∧ l.cy0 + l.ch ≤ bits w 7 3 + bits w 0 3))
/-- A field of a record is not as R360 asks. -/
def Launch.bad (l : Launch) : Bool :=
  decide (bits (l.w 0) 14 2 ≠ 0) || decide (bits (l.w 1) 54 10 ≠ 0) || decide (bits (l.w 1) 32 4 ≠ 0) ||
    decide (bits (l.w 4) 42 22 ≠ 0) || decide (bits (l.w 7) 32 32 ≠ 0) || decide (10 < l.quota) || decide (0x32800 < l.wpbase) ||
    decide (l.wpbase ≤ l.entry) || l.widths.any (fun n => decide (64 < n)) || decide (64 < l.widths.foldl (· + ·) 0) ||
    decide (11 < l.cx0 + l.cw) || decide (7 < l.cy0 + l.ch)
/-- The status of a record's check: none when it passes. -/
def State.recordStatus (s : State) (tenant : Nat) (l : Launch) : Option Nat :=
  if !crcGood l.words 7 0 then some 1
  else if l.tenant ≠ tenant || !s.inside tenant l then some 3
  else if l.bad then some 2 else none
/-- The launches of a tenant in some phase. -/
def State.tenantLaunches (s : State) (t : Nat) (pick : Launch → Bool) : List (Nat × Launch) :=
  s.dev.launches.filter fun e => e.2.tenant == t && pick e.2
/-- A record reaches the dispatcher; one that finds its tenant's queue full is held back by its source. Arg: producer, and what
it stands for; the record, its producer's tenant, the timestamp of its wake, and whether it is dispatched early. -/
def execLaunchRecord (s : State) : Out :=
  let g := s.dev.arg
  let n (i : Nat) : Nat := (g.words.getD i 0).toNat
  let id := s.dev.nextLaunch + 1
  let l : Launch := {
    words := g.words.take 8, producer := g.a, who := g.b, node := g.c, seq := id
    dom := if g.a = 2 then 4 * g.b + 1 else 4 * id, ts := n 9, early := decide (n 10 = 1) }
  s.occur <| match s.recordStatus (n 8) l with
  | some 1 => (s.keep.logErr 7 0 (n 8) 0x1E8 0 0).toProducer l (n 8) 1
  | some st => s.keep.toProducer l (n 8) st
  | none =>
    if 256 ≤ (s.tenantLaunches l.tenant fun x => x.phase == .queued).length then s.again .launchRecord
    else (s.keep.dv fun d => { d with launches := d.launches.set id l, nextLaunch := id }).sched (s.dev.now + 1) .launchStart { a := l.tenant }

/-! ## Reads by virtual address -/

/-- Where a byte of a tenant's address space lies, as the tables stand. -/
def State.lookup (s : State) (tenant pid va : Nat) (rd wr : Bool) : Except Nat (Place × List Word) :=
  match s.walkAll tenant pid va 6 5 0 with
  | .leaf level e => s.leafPlace tenant va level e rd wr
  | .fails cause _ => .error cause
  | .table _ _ => .error 0x092
/-- The parts of an address range that lie in one 64 KiB unit each: first byte and length. -/
def unitsOf (va n : Nat) : List (Nat × Nat) :=
  (List.range ((va + n + 65535) / 65536 - va / 65536)).map fun i =>
    let lo := max va ((va / 65536 + i) * 65536)
    (lo, min (va + n) ((va / 65536 + i + 1) * 65536) - lo)
/-- Bytes of device memory by virtual address, read by a unit of the device; a place off the device gives nothing to it. -/
def State.readVirt (s : State) (tenant pid va n : Nat) : Except Nat (List Byte) :=
  (unitsOf va n).foldl (fun acc u => match acc with
    | .error e => .error e
    | .ok bs => match s.lookup tenant pid u.1 true false with
      | .error e => .error e
      | .ok (.phys pa, key) =>
        if (List.range ((u.2 + 63) / 64 + 1)).any fun i => s.lineBad (pa / 64 * 64 + 64 * i) && decide (pa / 64 * 64 + 64 * i < pa + u.2) then .error 0x0A0
        else .ok (bs ++ s.physBytes pa u.2 key)
      | .ok _ => .error 0x095) (.ok [])
def bytesWords (bs : List Byte) : List Word := (chunks 8 (bs.length / 8) bs).map bytesWord

/-! ## The kernel image (R361) -/

/-- A track item of 264 bytes. -/
def trackItem (bs : List Byte) : Option (Nat × Nat × List Byte) :=
  let t := (bs.getD 0 0).toNat
  if (bs.drop 2).take 6 = List.replicate 6 0 ∧ t < 32 then some (t, (bs.getD 1 0).toNat, bs.drop 8) else none
/-- The image at a virtual address; none when it breaks a limit or cannot be read. (DEDUCED, log entry 75.) -/
def State.readImage (s : State) (l : Launch) : Option Image :=
  let va := l.image.toNat
  match s.readVirt l.tenant l.pid va 512 with
  | .error _ => none
  | .ok head =>
    let ws := bytesWords head
    let clen := bits (ws.getD 0 0) 0 32
    let tcnt := bits (ws.getD 1 0) 0 16
    let descs := (ws.drop 2).take 61
    if va % 256 ≠ 0 ∨ bits (ws.getD 0 0) 32 32 ≠ 0 ∨ bits (ws.getD 1 0) 16 48 ≠ 0 ∨ clen % 256 ≠ 0 ∨ l.wpbase < clen ∨ descs.any handlerBad then none
    else match s.readVirt l.tenant l.pid (va + 512) (clen + 264 * tcnt) with
    | .error _ => none
    | .ok bs =>
      match (chunks 264 tcnt (bs.drop clen)).mapM trackItem with
      | none => none
      | some items => some { code := bs.take clen, items := items, descs := descs }
/-- The dispatcher writes an image to a core, every word FULL; tracks that it names stand at position 0, unowned (R254). -/
def State.writeImage (s : State) (c : Change) (p : Nat) (m : Image) : Change :=
  let c := c.write (nearKey p 0) m.code
  let c := m.items.foldl (fun c i => (s.trackTouched c p i.1 i.2.1).write (trackKey p i.1 i.2.1 0) i.2.2) c
  let c := m.items.foldl (fun c i => c.trk p i.1 fun k => { k with
    h := 0, t := 0, owner := 15, keep := false, shared := false, err := false, mofs := 0, shifting := false, then_ := none, align := false, stream := [] }) c
  c.core p fun k => { k with handlers := m.descs.zipIdx.map fun d => (d.2 + 3, handlerOf d.1) }

/-! ## A change of tenant (R364, R379, R416, R417) -/

/-- The physical cores of a cluster. -/
def coresIn (clu : Nat) : List Nat := (List.range 19584).filter fun p => physCluster p == clu
/-- Zero a range of storage, its words FULL and free of errors. -/
def State.wipe (s : State) (c : Change) (k n : Nat) : Change :=
  (s.bad.filter fun w => decide (k ≤ 8 * w ∧ 8 * w < k + n)).foldl (fun c w => c.op (.bad w false)) (c.op (.wipe k n))
/-- One core is cleared of its old tenant; entries parked on it go back to their ring. -/
def State.clearCore (s : State) (c : Change) (p : Nat) : Change :=
  let c := c.unparkAll p
  let c := s.wipe (s.wipe (s.wipe c (nearKey p 0) 262144) (trackKey p 0 0 0) 2097152) (reserveBase + p * 32768) 32768
  match s.dev.cores.find p with
  | none => c
  | some _ => c.core p fun k => { k with
      tracks := k.tracks.map fun t => (t.1, ({ off := t.2.off, markers := t.2.markers } : Track)), events := [], eventsLost := false, hold := [], chans := [], tasks := []
      halt := .none, breaks := [], deferred := [] }
/-- What the old tenant's cores of a cluster have still to read goes: the fills of contexts that are no more are discarded, and their
local accesses that wait for a word are withdrawn. -/
def State.dropPending (s : State) (c : Change) (clu : Nat) : Change :=
  let gone (p sl act : Nat) : Bool := physCluster p == clu && !((s.ctx p sl).live && (s.ctx p sl).act.num == act)
  c.dv fun d => { d with
    fills := d.fills.map fun f => if gone f.2.core f.2.slot f.2.act then (f.1, { f.2 with dst := none, dropped := true }) else f
    flights := d.flights.filter fun f => !(f.2.path == 0 && gone f.2.org.core f.2.org.slot f.2.org.act) }
/-- A cluster passes to another tenant. (DEDUCED, log entry 76.) -/
def State.changeTenant (s : State) (c : Change) (clu tenant : Nat) : Change :=
  match (s.clu clu).tenant with
  | none => c.clu clu fun k => { k with tenant := some tenant }
  | some t =>
    if t = tenant then c
    else
      let c := s.dropPending c clu
      let c := (coresIn clu).foldl (fun c p => s.clearCore c p) c
      let c := (List.range 8).foldl (fun c a => s.wipe c (bstoreKey (clu * 8 + a) 0) 8388608) c
      c.clu clu fun k => { k with tenant := some tenant }

/-! ## Starting (R362, R365) -/

/-- Launches that run, in the dispatcher's sense: neither queued nor saved. -/
def Launch.runs (l : Launch) : Bool := l.phase != .queued && l.phase != .saved
def Launch.meets (l m : Launch) : Bool := l.clusters.any m.has
/-- The best of some records: the lowest PRIO, and among equals the oldest. -/
def bestRecord : List (Nat × Launch) → Option (Nat × Launch)
  | [] => none
  | e :: l => match bestRecord l with
    | none => some e
    | some x => some (if x.2.prio < e.2.prio ∨ (x.2.prio = e.2.prio ∧ x.2.seq < e.2.seq) then x else e)
/-- Bytes that the save of a launch may take, every track block counted (R368). (DEDUCED, log entry 79.) -/
def State.saveSize (s : State) (l : Launch) : Nat :=
  (s.coresOf l).length * (270336 + 36864 + 1808 + 18432 + 2097152) + l.clusters.length * (67108864 + 1258292)
/-- A victim's save fits into what the tenant's save area has left. -/
def State.saveFits (s : State) (l : Launch) (others : List Launch) : Bool :=
  decide ((others ++ [l]).foldl (fun n x => n + s.saveSize x) 0 ≤ ((s.dev.tenants.get {} l.tenant).entry.getD 2 0).toNat)
/-- Launches of a tenant that stand in the save area, or are on their way there. -/
def State.savedOf (s : State) (tenant : Nat) : List Launch :=
  (s.tenantLaunches tenant fun l => l.phase == .saved || l.phase == .saving || l.phase == .stopping || l.phase == .restoring).map fun e => e.2
/-- A pre-empted launch whose pre-empting launch has ended. -/
def State.restorable (s : State) (n : Nat) (l : Launch) : Bool := l.phase == .saved && !l.held && !(s.dev.launches.any fun e => e.2.victims.contains n)
/-- Hop distance between two logical cores. -/
def hops (a b : Nat) : Nat :=
  (max (logicalX a) (logicalX b) - min (logicalX a) (logicalX b)) + (max (logicalY a) (logicalY b) - min (logicalY a) (logicalY b))
/-- The dispatcher sends the wake into the sub-mesh: each live core accepts it within the time of R216. -/
def State.sendWakes (s : State) (c : Change) (n : Nat) (l : Launch) : Change :=
  let ls := s.coresOf l
  ls.foldl (fun c lg =>
    (c.sched (s.dev.now + 1 + Config.delay c.dev.fresh % (2 * hops (ls.headD 0) lg + 6)) .wake { a := n, b := lg }).tick) c
/-- Launches in the order of their PRIO. -/
def insertPrio (e : Nat × Launch) : List (Nat × Launch) → List (Nat × Launch)
  | [] => [e]
  | x :: l => if x.2.prio < e.2.prio then x :: insertPrio e l else e :: x :: l
/-- Restore launches one after another. -/
def Change.restoreNext (c : Change) : List Word → Change
  | [] => c
  | v :: vs => c.sched (c.dev.now + 1) .restore { a := v.toNat, words := vs }
/-- The victims of a launch that has ended, or that has not come to run, are restored, the lowest PRIO first (R370). -/
def Change.restoreVictims (c : Change) (d : Dev) (l : Launch) : Change :=
  c.restoreNext (((l.victims.filterMap fun v => (d.launches.find v).map fun m => (v, m)).foldr insertPrio []).map fun e => BitVec.ofNat 64 e.1)
/-- Start a record: the core map, the change of tenant, the image, and the wakes. -/
def State.begin (s : State) (n : Nat) (l : Launch) : Change :=
  (l.clusters.foldl (fun c u => s.changeTenant c u l.tenant) s.keep.takeMap).andThen s fun t =>
    let img := if l.w 6 = 0 then some { code := [], items := [], descs := [] } else t.readImage l
    match img with
    | none => ((t.keep.dv fun d => { d with launches := d.launches.drop n }).toProducer l l.tenant 2).restoreVictims t.dev l
    | some m =>
      let l' : Launch := { l with phase := .running, img := if l.w 6 = 0 then none else some m }
      let c := t.keep.dv fun d => { d with launches := d.launches.set n l' }
      if (t.coresOf l).isEmpty then c else t.sendWakes c n l'
/-- Launches that a record would pre-empt. -/
def State.victimsOf (s : State) (l : Launch) : List (Nat × Launch) :=
  if l.pre then s.tenantLaunches l.tenant fun m => m.phase == .running && decide (l.prio < m.prio) && l.meets m else []
/-- The dispatcher looks at a tenant's queue: the best record starts, or pre-empts and starts when its victims are saved. A cluster
passes to another tenant once its cores' grants have been revoked, which parks their last harvest contexts (R364, R377). Arg: tenant. -/
def execLaunchStart (s : State) : Out :=
  let t := s.dev.arg.a
  s.occur <| match bestRecord (s.tenantLaunches t fun l => l.phase == .queued) with
  | none => s.keep
  | some (n, l) =>
    let others := s.tenantLaunches t fun m => m.runs && l.meets m
    let blocked := others.any fun m => decide (m.2.prio ≤ l.prio)
    let victims := s.victimsOf l
    let moving := others.any fun m => m.2.phase != .running
    let foreign := l.clusters.any fun u => match (s.clu u).tenant with
      | some o => o != t && s.dev.launches.any fun e => e.2.tenant == o && e.2.phase != .queued && e.2.has u
      | none => false
    let lent := l.clusters.any fun u => match (s.clu u).tenant with
      | some o => o != t && s.dev.cores.any fun k => physCluster k.1 == u && (k.2.grant.isSome || k.2.revoking)
      | none => false
    let waiting := s.dev.launches.any fun e => e.2.tenant == t && decide (e.2.prio < l.prio) && (e.2.phase == .restoring || s.restorable e.1 e.2)
    if foreign ∨ waiting ∨ moving ∨ 64 ≤ (s.tenantLaunches t fun m => m.phase != .queued).length then s.keep
    else if lent then s.again .launchStart
    else if !victims.isEmpty then
      (if (List.range victims.length).all fun i => match victims[i]? with
          | some v => s.saveFits v.2 (s.savedOf t ++ (victims.take i).map fun v => v.2)
          | none => true then
        victims.foldl (fun c v => c.sched (s.dev.now + 1) .preEmption { a := v.1 })
          (s.keep.dv fun d => { d with launches := d.launches.set n { l with victims := l.victims ++ victims.map fun v => v.1 } })
      else if blocked then s.keep else (s.begin n l).sched (s.dev.now + 1) .launchStart { a := t })
    else if blocked ∧ l.victims.isEmpty then s.keep
    else (s.begin n l).sched (s.dev.now + 1) .launchStart { a := t }

/-! ## The wake (R216, R217) -/

/-- Every cluster barrier of a cluster is zero when the first of its cores accepts a wake of the launch. -/
def State.firstOfCluster (s : State) (l : Launch) (lg : Nat) : Bool := !(l.woken.any fun x => clusterOf x == clusterOf lg)
/-- A core accepts a wake: what it held for the channel and the Towpath is gone, and the launch's settings stand; the round-robin of its
bindings starts at ch0. (DESIGN CHOICE, log entry 135.) -/
def State.acceptWake (s : State) (n lg p : Nat) (l : Launch) : Change :=
  let c := s.keep.core p fun k => { k with
    launch := some n, wpbase := l.wpbase, widths := l.widths, block := l.block, quota := l.quota
    ch0 := { entry := l.entry, prio := l.prio, rep := l.rep, spec := l.spec, ctl := true }, ch1 := { prio := l.prio, rep := l.rep }
    frozen := false, events := [], eventsLost := false
    handlers := [], unset := { mask := true }, chans := [], tasks := [], fromWest := k.fromWest.filter fun t => !t.ready, fromEast := k.fromEast.filter fun t => !t.ready
    nextXfer := 1, xstatus := [], endedTs := [], released := 0, accepted := 0, idle := false, missed := [], dirty := []
    horizon := s.dev.horizons.get 0 l.dom, rrHelper := 0, rrControl := 0 }
  let c := match l.img with
    | some m => s.writeImage c p m
    | none => c
  let c := if s.firstOfCluster l lg then c.clu (clusterOf lg) fun k => { k with barriers := [] } else c
  let c := c.dv fun d => { d with launches := d.launches.set n { l with woken := lg :: l.woken } }
  c.acceptMsg p { org := { core := p, tenant := l.tenant, pid := l.pid, dom := l.dom, ts := l.ts }, device := true, chan := 0, cost := 16 }
/-- A wake reaches a core: it waits there until the core's part in an earlier launch has ended; that of a latency-critical launch revokes
the core's grant, and a scan, from the moment it stands there (R376, R422). Arg: launch, logical core. -/
def execWake (s : State) : Out :=
  let n := s.dev.arg.a
  let lg := s.dev.arg.b
  let p := s.phys lg
  s.occur <| match s.launch? n with
  | none => s.keep
  | some l =>
    let c := if l.lc then s.keep.revoke p else s.keep
    if l.phase = .faulting ∨ l.woken.contains lg then s.keep
    else if l.phase ≠ .running ∨ (s.core p).launch.isSome ∨ (s.core p).scanning ∨ !slotFree s.dev p 0 then s.retry c .wake
    else c.andThen s fun s => s.acceptWake n lg p l

/-! ## The end of a launch (R218) -/

/-- A core's part in a launch ends; an arrival at a rotation is withdrawn, and no rotation completes (R232).
(DEDUCED, log entry 77.) -/
def State.partEnds (s : State) (c : Change) (p : Nat) : Change :=
  let k := s.core p
  let c := if (k.ctx 15).live && !k.firmware then (c.quit p 15).core p fun k => { k with handling := none } else c
  let c := (c.core p fun k => { k with
    launch := none, frozen := false, chans := [], tasks := [], fromWest := [], fromEast := [], traps := [], reports := [], lost := false, missed := []
    relq := k.relq.filter (fun h => !h.eff.isMessage)
    tracks := k.tracks.map fun t => (t.1, if t.2.owner ≤ 10 then { t.2 with owner := 15, keep := false, shared := false } else t.2) }).revokeFrom p
  let clu := physCluster p
  let c := c.dv fun d => { d with breads := d.breads.filter fun b => !(b.2.core == p && b.2.chan != 64) }
  if (s.clu clu).arrivals.any fun r => r.core == p then
    ((c.dv fun d => { d with lockWait := d.lockWait.filter (· != ringOwner clu)
                             agenda := d.agenda.filter fun e => !(decide (e.ev = .rotationEnd) && e.arg.a == clu)
                             cores := d.cores.map fun k => if physCluster k.1 = clu then (k.1, { k.2 with rotFrom := 0, rotUntil := 0 }) else k })).clu
      clu fun u => { u with arrivals := u.arrivals.filter fun r => r.core != p
                            rotating := none, locks := u.locks.filter fun l => l.owner != ringOwner clu }
  else c
/-- A launch ends with a status: every part ends, its producer hears of it, and the dispatcher looks at what waits. -/
def State.endLaunch (s : State) (c : Change) (n : Nat) (l : Launch) (status : Nat) : Change :=
  let ps := (s.coresOf l).map s.phys
  let mine := ps.filter fun p => (s.core p).launch == some n
  let c := mine.foldl (fun c p => s.partEnds c p) c
  let c := c.dv fun d => { d with
    launches := d.launches.drop n, saves := d.saves.drop n
    flights := d.flights.filter fun f => !(mine.contains f.2.org.core && f.2.org.dom == l.dom && match f.2.cargo with
      | .effect e => e.isMessage
      | _ => false)
    cores := d.cores.map fun k => (k.1, { k.2 with deferred := k.2.deferred.filter fun e => e.1 != n }) }
  let c := (c.toProducer l l.tenant status).takeMap
  let c := c.restoreVictims s.dev l
  ((c.dev.launches.map fun e => e.2.tenant).eraseDups).foldl (fun c t => c.sched (s.dev.now + 1) .launchStart { a := t }) c
/-- A round of the reduction tree: the launch ends when every live core was idle throughout it and the counts of messages
released and accepted are equal and as they were. Arg: launch. -/
def execLaunchEnd (s : State) : Out :=
  let n := s.dev.arg.a
  s.occur <| match s.launch? n with
  | none => s.keep
  | some l =>
    if l.phase ≠ .running then s.keep
    else
      let ps := (s.coresOf l).map s.phys
      let sums := ps.foldl (fun (a : Nat × Nat) p => (a.1 + (s.core p).released, a.2 + (s.core p).accepted)) (0, 0)
      let woken := decide (l.woken.length = ps.length)
      if woken && ps.all (fun p => (s.core p).idle) && decide (sums.1 = sums.2) && decide (l.sums = some sums) then s.endLaunch s.keep n l 0
      else
        let c := s.keep.dv fun d => { d with launches := d.launches.set n { l with sums := some sums } }
        if woken then ps.foldl (fun c p => c.core p fun k => { k with idle := true }) c else c

/-! ## Launch faults (R407) -/

/-- A core stops its contexts of a launch and keeps nothing of them. -/
def State.stopPart (s : State) (c : Change) (n p : Nat) (dom : Nat) : Change :=
  let k := s.core p
  if k.launch ≠ some n then c
  else
    let live := (k.ctxs.filter fun x => x.2.live && (decide (x.1 ≤ 10) || (x.1 == 15 && !k.firmware))).map fun x => x.1
    let c := live.foldl (fun c sl => if (s.ctx p sl).shadow.isSome then s.abortAct c p sl false else c.quit p sl) c
    let c := c.dropHeld p fun h => h.org.dom == dom
    let copies := s.dev.copies.filter fun x => x.2.core == p
    let c := copies.foldl (fun c x =>
      ((((c.dropCopyFlights x.1).clearLocks (physCluster p) (copyOwner x.1)).lockLeave (copyOwner x.1)).endStreams x.1 x.2).dv fun d =>
        { d with copies := d.copies.drop x.1 }) c
    let isCopy (e : Effect) : Bool := match e with
      | .copy .. => true
      | _ => false
    let c := c.core p fun k => { k with
      relq := k.relq.filter (fun h => !isCopy h.eff), traps := [], reports := [], lost := false
      handling := if k.firmware then k.handling else none }
    let c := c.dv fun d => { d with flights := d.flights.filter fun f => !(f.2.org.core == p && match f.2.cargo with
      | .effect e => isCopy e
      | _ => false) }
    (s.dev.arrays.foldl (fun c a => match a.2.holder with
      | some (q, _, _) => if q = p then c.arr a.1 fun a => { a with q2 := [] } else c
      | none => c) c).revoke p
/-- A launch fault: the first one is logged and floods a stop; later ones are only logged. Each core stops, and the launch ends
when all have. Arg: launch, core, slot (64 for a core's stop); the pc, the cause and TRAPAUX. -/
def execLaunchFault (s : State) : Out :=
  let g := s.dev.arg
  let w (i : Nat) : Word := g.words.getD i 0
  s.occur <| match s.launch? g.a with
  | none => s.keep
  | some l =>
    if g.c = 64 then
      let lg := (s.logical g.b).getD 0
      if l.phase ≠ .faulting ∨ l.woken.contains lg then s.keep
      else
        let woken := lg :: l.woken
        let l' : Launch := { l with woken := woken }
        let c := (s.stopPart s.keep g.a g.b l.dom).dv fun d => { d with launches := d.launches.set g.a l' }
        if woken.length < (s.coresOf l).length then c else c.sched (s.dev.now + 1) .launchFault { a := g.a, c := 65 }
    else if g.c = 65 then (if l.phase = .faulting then s.endLaunch s.keep g.a l 4 else s.keep)
    else if l.phase = .faulting then s.logCore s.keep g.b (w 1).toNat (w 2)
    else if l.phase = .saved ∨ l.phase = .restoring then s.again .launchFault
    else if l.phase ≠ .queued then
      let t : Trap := { cause := (w 1).toNat, pc := w 0, addr := 0, aux := w 2, slot := g.c }
      let c := s.keep.logErr 7 0 l.tenant 0x1E2 (BitVec.ofNat 64 ((s.logical g.b).getD 0))
        (BitVec.ofNat 64 ((w 1).toNat % 512 + g.c % 16 * 65536 + (w 0).toNat % 2 ^ 18 * 2 ^ 32))
      let c := c.dv fun d => { d with launches := d.launches.set g.a { l with phase := .faulting, woken := [], fault := some t } }
      (s.coresOf l).foldl (fun c lg => c.soon .launchFault { a := g.a, b := s.phys lg, c := 64 }) c
    else s.keep

end Sys2Proof.Machine
end

