-- ==== Sys2Proof/Machine/Preempt.lean ====
section
/-!
DEFINITION. Pre-emption: stopping a launch, its copies and its arrays (R93, R127, R162, R214, R316, R366, R367), what is saved
(R250, R368), and the restore (R184, R370).
-/

namespace Sys2Proof.Machine

/-! ## Stopping a core (R366, steps 1 to 3) -/

/-- The stop reaches a core: its launch's contexts issue no more, traps that are not delivered will be raised again, and its
grant is revoked. -/
def State.freeze (s : State) (c : Change) (p : Nat) : Change :=
  let gone := (s.core p).traps.map fun t => t.2.slot
  (c.core p fun k => { k with
    frozen := true, traps := []
    ctxs := k.ctxs.map fun x => if gone.contains x.1 then (x.1, { x.2 with trapped := false }) else x }).revoke p
def Core.launchSlots (k : Core) : List (Nat × Ctx) := k.ctxs.filter fun x => x.2.live && decide (x.1 ≤ 10)
/-- The core takes part in a rotation of which the last arrival has come: it completes before any save (R185). -/
def State.rotates (s : State) (p : Nat) : Bool :=
  let rs := (s.clu (physCluster p)).arrivals
  (rs.any fun r => r.core == p) && (s.ranks (physCluster p)).all fun q => rs.any fun r => r.core == q
/-- A released effect that cannot leave while its launch is stopped: a message that is refused or waits behind one, or for a
wake, and a push to an array that waits for its feed. (DEDUCED, log entry 80.) -/
def State.stuck (s : State) (id : Nat) (f : Flight) : Bool :=
  match f.cargo, f.place with
  | .effect e, .chan q => e.isMessage && (decide (0 < f.waited) || s.tripleHeld id f e || !s.awake f.org q)
  | .effect e, _ => (match e with
    | .command _ _ n _ => decide (4 ≤ (s.arr (arrayOf f.org n)).q0.length) && (s.arr (arrayOf f.org n)).feed.isEmpty
    | .feed _ _ n _ => s.dev.flights.any fun g => decide (g.1 < id) && g.2.org.core == f.org.core && (match g.2.cargo with
      | .effect (.command _ _ m _) => m == n && decide (4 ≤ (s.arr (arrayOf f.org n)).q0.length) && (s.arr (arrayOf f.org n)).feed.isEmpty
      | _ => false)
    | _ => false)
  | _, _ => false
/-- What a core has to release stands behind effects that cannot leave: a fence mark that waits for them (R160). -/
def State.fenceStuck (s : State) (p : Nat) : Bool := match (s.core p).relq with
  | [] => true
  | h :: _ => match h.eff with
    | .fence sc => s.dev.flights.any fun f => f.2.org.core == p && f.2.org.act == h.org.act && f.2.pending s.dev.now sc && s.stuck f.1 f.2
    | _ => false
/-- Put unreleased effects back at the head of the hold buffer, in order, and what stands behind them. -/
def State.putBackStuck (s : State) (c : Change) (p : Nat) : Change :=
  let back := s.dev.flights.filter fun f => f.2.org.core == p && s.stuck f.1 f.2
  let held := back.filterMap fun f => match f.2.cargo with
    | .effect e => some ({ org := f.2.org, eff := e, bytes := e.cost, bad := f.2.bad, again := true } : Held)
    | _ => none
  let n := (held.filter fun h => h.eff.isMessage).length
  (c.dv fun d => { d with flights := d.flights.filter fun f => !(f.2.org.core == p && s.stuck f.1 f.2) }).core p fun k =>
    { k with hold := held ++ k.relq ++ k.hold, relq := [], released := k.released - n }
/-- A context held at BARW arrives again at the resume: its arrival is taken back. -/
def State.withdrawBarw (s : State) (c : Change) (p sl : Nat) : Change :=
  match (s.ctx p sl).holds.findSome? fun h => match h with
    | .barrier b e => if (s.barrier p b).epoch = e then some b else none
    | _ => none with
  | none => c
  | some b =>
    let x := if b < 64 then (c.dev.clusters.get {} (physCluster p)).barriers.get {} b
      else match (c.dev.cores.get {} p).launch with
        | some n => (c.dev.launches.get {} n).barriers.get {} b
        | none => {}
    (c.setBarrier p b { x with arrived := x.arrived - 1 }).ctx p sl fun y => { y with
      holds := y.holds.map fun h => match h with
        | .barrier _ _ => .rearrive b
        | _ => h }
def Hold.isRearrive : Hold → Bool
  | .rearrive _ => true
  | _ => false
/-- The BARW of a resumed context is presented again: it arrives, and the context is held until the epoch moves on, or goes on.
(DEDUCED, log entry 82.) -/
def State.rearrive (s : State) (c : Change) (p sl : Nat) : Change :=
  match (s.ctx p sl).holds.findSome? fun h => match h with
    | .rearrive b => some b
    | _ => none with
  | none => c
  | some b =>
    let x := s.barrier p b
    let last := decide (x.arrived + 1 = x.parties)
    (c.setBarrier p b (if last then { x with arrived := 0, epoch := x.epoch + 1 } else { x with arrived := x.arrived + 1 })).ctx p sl
      fun y => { y with holds := if last then y.holds.filter (fun h => !h.isRearrive) else y.holds.map fun h => match h with
        | .rearrive _ => .barrier b x.epoch
        | _ => h }
/-- Speculation is aborted, a BARW that waits and an arrival at a rotation that has not had its last are withdrawn. -/
def State.settleCtxs (s : State) (c : Change) (p : Nat) : Change :=
  let c := (s.core p).launchSlots.foldl (fun c x => s.withdrawBarw (s.abortAct c p x.1 true) p x.1) c
  if s.rotates p then c
  else
    (c.clu (physCluster p) fun u => { u with arrivals := u.arrivals.filter fun r => r.core != p }).core p fun k =>
      { k with ctxs := k.ctxs.map fun x => (x.1, { x.2 with holds := x.2.holds.filter fun h => !h.isRotation }) }
/-- Nothing that has issued on a core is unfinished, no effect of it is in flight but those that are stuck, and no fault or report of it is
on its way. -/
def State.coreQuiet (s : State) (p : Nat) : Bool :=
  let k := s.core p
  !(s.dev.agenda.any fun e => (decide (e.ev = .launchFault) && e.arg.b == p && decide (e.arg.c < 64)) ||
      (decide (e.ev = .impreciseEffectFault) && e.arg.a == p)) &&
  !k.revoking && k.grant.isNone && k.handling.isNone && s.fenceStuck p && k.strided.isEmpty && decide (k.accUntil ≤ s.dev.now) &&
    !s.rotates p &&
    (k.launchSlots.all fun x => x.2.pipe.isEmpty && !(x.2.holds.any fun h => match h with
      | .realigned _ => true
      | .copying => true
      | .commit => true
      | .ack _ => true
      | _ => false)) &&
    (k.tracks.all fun t => !t.2.shifting && !t.2.align && (t.2.h == t.2.t || !t.2.stream.isEmpty)) &&
    !(s.dev.tagNotices.any fun n => n.2.1 == p || n.2.2.1 == p) &&
    !(s.dev.flights.any fun f => f.2.org.core == p && !s.stuck f.1 f.2 && match f.2.cargo with
      | .effect _ => true
      | _ => false)

/-! ## Stopping copies and arrays (R184, R367) -/

/-- A request of a copy waits at an EMPTY word: one of the elements that it has still to read holds one. -/
def State.waitsEmpty (s : State) (f : Flight) : Bool :=
  match f.cargo, f.place with
  | .copyRead _ _ m n, .near p o => (List.range m).any fun i => (f.got.find i).isNone &&
      (wordsOf (nearKey p o + i * (n / m)) (n / m)).any fun w => s.tagOf w == .empty
  | _, _ => false
/-- Stop a copy's requests: those that wait at EMPTY words are withdrawn, with data behind them that a track cannot take. -/
def State.pauseCopy (s : State) (c : Change) (id : Nat) : Change :=
  let onTrack (n : Nat) : Bool := match s.dev.copies.find id with
    | some k => (dstTrack k.words).isSome && decide (k.paused ∧ k.next ≤ n)
    | none => false
  let gone := s.dev.flights.filter fun f => match f.2.cargo with
    | .copyRead k n .. => k == id && (s.waitsEmpty f.2 || onTrack n)
    | _ => false
  let first := gone.foldl (fun (n : Nat) f => match f.2.cargo with
    | .copyRead _ i _ _ => min n i
    | _ => n) (2 ^ 64)
  (c.dv fun d => { d with flights := d.flights.filter fun f => !(gone.any fun g => g.1 == f.1) }).updCopy id fun k => { k with
    paused := true, next := min k.next first
    ready := if (dstTrack k.words).isSome then k.ready.filter (fun r => decide (r.1 < first)) else k.ready }
/-- A stopped copy has no request and no write under way, and no data that it can write. -/
def State.copyQuiet (s : State) (id : Nat) (k : Copy) : Bool :=
  k.accepted || k.cancelled || (k.paused && k.ready.isEmpty && !(s.dev.flights.any fun f => match f.2.cargo with
    | .copyRead x .. => x == id
    | .copyWrite x .. => x == id
    | _ => false))
/-- Every shift of a core's tracks is at its target, and every push onto its Towpath queues has been delivered (R127, R250). -/
def State.settled (s : State) (p : Nat) : Bool :=
  ((s.core p).tracks.all fun t => !t.2.shifting && !t.2.align && t.2.h == t.2.t) && ((s.core p).fromWest ++ (s.core p).fromEast).all Tow.ready
/-- The copy as it is saved: it will register its locks again and start at n0. -/
def Copy.atRest (k : Copy) : Copy :=
  if k.accepted ∨ k.cancelled ∨ !k.started ∨ recTotal k.words ≤ k.done + k.restart then { k with paused := false }
  else { k with paused := false, started := false, restart := k.next, done := 0, ready := []
                wrote := k.wrote.filter fun e => decide (e.2 < k.next) }
/-- An array makes no further progress without its holder. (DEDUCED, log entry 81.) -/
def MArray.quiet (a : MArray) : Bool :=
  let full := decide (512 ≤ (a.q2.filter ResultVec.entered).length)
  ((a.running.isNone && a.q0.isEmpty) || (a.running.isSome && (a.feed.isEmpty || full))) && (a.q2.all ResultVec.entered || full)
/-- The array serves a core: a lease, results not popped, or a request. -/
def MArray.serves (a : MArray) (ps : List Nat) : Bool :=
  (match a.holder with
    | some h => ps.contains h.1
    | none => false) || a.requests.any fun q => ps.contains q.core
/-- The array's lease or results belong to a core. -/
def MArray.heldBy (a : MArray) (ps : List Nat) : Bool := match a.holder with
  | some h => ps.contains h.1
  | none => false

/-! ## The save (R250, R368) -/

/-- Key ranges of a launch's storage that are copied at the save: near SRAM, parked banks, written track blocks, B-stores. -/
def blockKey (b : Nat) : Nat := trackKey (b / 1024) (b / 16 % 64) (b % 16 * 16) 0
def State.savedRanges (s : State) (ps clus : List Nat) : List (Nat × Nat) :=
  ps.flatMap (fun p =>
    [(nearKey p 0, 262144)] ++ (s.core p).parked.map (fun x => (reserveKey p x.slot 0, 8192)) ++
      (s.core p).dirty.map fun b => (blockKey (p * 1024 + b), 4096)) ++
    clus.map fun u => (bstoreKey (u * 8) 0, 67108864)
/-- What stays with a physical core when its part in a launch is set aside. -/
def Core.emptied (k : Core) (n : Nat) : Core :=
  let dirty := k.dirty
  let blocks := (List.range 512).filter fun b => !dirty.contains b
  { ctxs := k.ctxs.filter fun x => decide (11 ≤ x.1)
    tracks := k.tracks.map fun t => (t.1, { t.2 with owner := 15, keep := false, shared := false })
    unset := k.unset, bindCount := k.bindCount, handling := k.handling, firmware := k.firmware, halt := k.halt, breaks := k.breaks, counters := k.counters, thyme := k.thyme
    pipeErrors := k.pipeErrors, seq := k.seq, taken := k.taken, takenAt := k.takenAt, scanning := k.scanning, dead := k.dead
    mismatch := k.mismatch, thymeState := k.thymeState, thymeFrom := k.thymeFrom, didRow := k.didRow, didState := k.didState
    holdMax := k.holdMax, failed := k.failed, deferred := k.deferred ++ blocks.map fun b => (n, b) }
/-- Events of an array that a save takes off the agenda. -/
def arrayEvent (ev : Instr) : Bool :=
  decide (ev = .commandStart) || decide (ev = .chunkRow) || decide (ev = .resultVector) || decide (ev = .leaseTimeout) || decide (ev = .resultDiscard)
/-- A core's record in the save: the lease of a holder has ended by pre-emption (R182, R184). -/
def Core.preempted (k : Core) (p : Nat) (arrays : Map MArray) : Core :=
  { k with ctxs := k.ctxs.map fun x => if arrays.any fun a => a.2.leased && a.2.holder == some (p, x.1, x.2.act.num) then
      (x.1, { x.2 with lease := { x.2.lease with held := false, ended := 4 } }) else x }
/-- The context-save engine writes a launch to the save area: what it has on the cores that have accepted its wake, and on their clusters.
(DESIGN CHOICE, log entry 70.) -/
def State.save (s : State) (c : Change) (n : Nat) (l : Launch) : Change :=
  let all := (s.coresOf l).map s.phys
  let ps := all.filter fun p => (s.core p).launch == some n
  let clus := l.clusters.filter fun u => ps.any fun p => physCluster p == u
  let rs := s.savedRanges ps clus
  let far := (all.filter fun p => (s.core p).launch.isNone).filterMap fun p =>
    let ws := (s.core p).fromWest.filter fun t => !t.ready
    let es := (s.core p).fromEast.filter fun t => !t.ready
    if ws.isEmpty && es.isEmpty then none else some (p, ws, es)
  let arrays := s.dev.arrays.filter fun a => l.has (a.1 / 8) && a.2.serves ps
  let keep := arrays.map fun a => (a.1, if a.2.heldBy ps then { a.2 with requests := a.2.requests.filter fun q => ps.contains q.core }
    else ({ requests := a.2.requests.filter fun q => ps.contains q.core } : MArray))
  let clu (u : Nat) : Cluster := {
    barriers := (s.clu u).barriers, commits := (s.clu u).commits.filter fun e => ps.contains e.core
    locks := (s.clu u).locks.filter fun x => arrays.any fun a => a.2.heldBy ps && x.owner == arrayOwner a.1 }
  let t := s.engineView rs
  let v : Saved := {
    cores := ps.map fun p => (p, (s.core p).preempted p arrays), mem := t.mem.filter (fun m => inRanges rs m.1), tags := t.tags.filter (fun t => inRanges rs (8 * t.1))
    clusters := clus.map fun u => (u, clu u), arrays := keep, tows := far, bad := s.bad.filter fun w => decide (bstoreBase ≤ 8 * w) && inRanges rs (8 * w)
    copies := (s.dev.copies.filter fun k => ps.contains k.2.core).map fun k => (k.1, k.2.atRest)
    blocks := ps.flatMap fun p => (s.core p).dirty.map fun b => p * 1024 + b }
  let c := s.dev.copies.foldl (fun c k => if ps.contains k.2.core then
      (((c.clearLocks (physCluster k.2.core) (copyOwner k.1)).lockLeave (copyOwner k.1)).endStreams k.1 k.2)
    else c) c
  let c := c.dv fun d => { d with
    saves := d.saves.set n v, copies := d.copies.filter fun k => !ps.contains k.2.core
    launches := d.launches.set n { l with phase := .saved }
    agenda := d.agenda.filter fun e => !(arrayEvent e.ev && arrays.any fun a => a.2.heldBy ps && a.1 == e.arg.a) &&
      !(decide (e.ev = .towpathDelivery) && far.any fun q => q.1 == e.arg.a) }
  let c := far.foldl (fun c q => c.core q.1 fun k => { k with fromWest := k.fromWest.filter Tow.ready, fromEast := k.fromEast.filter Tow.ready }) c
  let c := arrays.foldl (fun c a =>
    let freed := (c.arr a.1 fun x => { x with requests := x.requests.filter fun q => !ps.contains q.core })
    if a.2.heldBy ps then
      (freed.arr a.1 fun x => { serial := x.serial, requests := x.requests, lastRing := x.lastRing, gated := x.gated }).sched (s.dev.now + 1) .leaseGrant { a := a.1 }
    else freed) c
  let c := clus.foldl (fun c u => c.clu u fun k => { k with
    barriers := [], commits := k.commits.filter fun e => !ps.contains e.core
    locks := k.locks.filter fun x => !((clu u).locks.contains x) }) c
  let c := c.dv fun d => { d with cores := d.cores.map fun k => if ps.contains k.1 then (k.1, k.2.emptied n) else k }
  c.sched (s.dev.now + 1) .launchStart { a := l.tenant }
/-- Uncorrectable near-SRAM words that the engine finds become POISON, and errors that can be corrected are (R402). -/
def State.foundBad (s : State) (c : Change) (rs : List (Nat × Nat)) : Change :=
  let c := s.fixWords c (s.soft.filter fun w => inRanges rs (8 * w))
  (s.bad.filter fun w => inRanges rs (8 * w) && s.sramBad w).foldl (fun c w => s.poisonBad c (8 * w) 8) c

/-- Pre-emption of a launch. Arg: launch; 0 for the dispatcher's stop, 1 to 3 for a core's stop by steps, 4 for the copies and
arrays, 5 for the save; core. -/
def execPreEmption (s : State) : Out :=
  let g := s.dev.arg
  s.occur <| match s.launch? g.a with
  | none => s.keep
  | some l =>
    let put (l : Launch) : Change := s.keep.dv fun d => { d with launches := d.launches.set g.a l }
    let ps := (s.coresOf l).map s.phys
    if g.b = 0 then
      (if l.phase ≠ .running then s.keep
        else ps.foldl (fun c p => c.soon .preEmption { a := g.a, b := 1, c := p }) (put { l with phase := .stopping, stops := [] }))
    else if g.b ≤ 3 then
      if l.phase ≠ .stopping then s.keep
      else
        let next (c : Change) (b : Nat) : Change := c.sched (s.dev.now + 1) .preEmption { g with b := b }
        let stopped : Change :=
          let stops := g.c :: l.stops
          let c := put { l with stops := stops }
          if ps.all stops.contains then next c 4 else c
        if (s.core g.c).launch ≠ some g.a then stopped
        else if g.b = 1 then next (s.freeze s.keep g.c) 2
        else if g.b = 2 then
          (if (s.core g.c).launchSlots.any fun x => x.2.holds.any fun h => h.isCopying || h.isCommit then s.again .preEmption
            else next (s.settleCtxs s.keep g.c) 3)
        else if s.coreQuiet g.c then
          (let c := s.putBackStuck s.keep g.c
           let stops := g.c :: l.stops
           let c := c.dv fun d => { d with launches := d.launches.set g.a { l with stops := stops } }
           if ps.all stops.contains then next c 4 else c)
        else s.again .preEmption
    else if g.b = 4 then
      if l.phase ≠ .stopping ∧ l.phase ≠ .saving then s.keep
      else
        let mine := s.dev.copies.filter fun k => ps.contains k.2.core
        let c := mine.foldl (fun c k => s.pauseCopy c k.1) (put { l with phase := .saving })
        let quiet := mine.all (fun k => s.copyQuiet k.1 k.2 && (k.2.paused || k.2.accepted || k.2.cancelled)) &&
          (ps.filter fun p => (s.core p).launch == some g.a).all s.settled && s.dev.arrays.all fun a => !(l.has (a.1 / 8) && a.2.heldBy ps) || a.2.quiet
        if quiet then c.soon .preEmption { a := g.a, b := 5 } else c.sched (s.dev.now + 1) .preEmption g
    else if l.phase ≠ .saving then s.keep
    else (s.foundBad s.keep (s.savedRanges ps [])).andThen s fun t => t.save t.keep g.a l

/-! ## The restore (R184, R250, R368, R370) -/

/-- A core's record after the restore: what the save holds, beside what stays with the physical core. -/
def Core.resumed (now old : Core) (n : Nat) : Core :=
  { old with
    ctxs := (old.ctxs.filter fun x => decide (x.1 ≤ 10 ∨ x.1 = 15)) ++ now.ctxs.filter fun x => decide (11 ≤ x.1 ∧ x.1 ≤ 14)
    tracks := old.tracks.map fun t => (t.1, { t.2 with markers := (now.tracks.get {} t.1).markers, shifting := false, stream := [], align := false, t := t.2.h })
    halt := now.halt, breaks := now.breaks, counters := now.counters, thyme := now.thyme, pipeErrors := now.pipeErrors
    seq := max now.seq old.seq, scanning := now.scanning, dead := now.dead, mismatch := now.mismatch, thymeState := now.thymeState
    thymeFrom := now.thymeFrom, didRow := now.didRow, didState := now.didState, holdMax := now.holdMax, failed := now.failed
    deferred := now.deferred.filter fun e => e.1 ≠ n
    parked := old.parked ++ now.parked.filter fun x => !(old.parked.any fun y => y.slot == x.slot), frozen := false, idle := false }
/-- Held effects of no contained activation were put back by the save: they leave first. -/
def State.leaveAgain (c : Change) (p : Nat) : Change :=
  let k := c.dev.cores.get {} p
  let owned (h : Held) : Bool := k.ctxs.any fun x => x.2.live && x.2.act.num == h.org.act && !x.2.act.open_
  (c.core p fun k => { k with hold := k.hold.filter owned, relq := (k.hold.filter fun h => !owned h) ++ k.relq }).pump p
/-- Write a save's storage back, with the uncorrectable words of its B-stores. -/
def State.writeBack (s : State) (c : Change) (v : Saved) : Change :=
  let clus := v.clusters.map fun u => u.1
  let rs := v.cores.flatMap (fun k => (nearKey k.1 0, 262144) :: k.2.parked.map fun x => (reserveKey k.1 x.slot 0, 8192)) ++
    v.blocks.map (fun b => (blockKey b, 4096)) ++ clus.map fun u => (bstoreKey (u * 8) 0, 67108864)
  let c := rs.foldl (fun c r => s.wipe c r.1 r.2) c
  let c := v.mem.foldl (fun c m => c.op (.bytes m.1 [m.2])) c
  let c := v.bad.foldl (fun c w => c.op (.bad w true)) c
  v.tags.foldl (fun c t => c.op (.tag t.1 t.2)) c
/-- Restore of a pre-empted launch, after which the next of its words follows, and the dispatcher looks at its tenant's queue. Arg: launch; 0
to begin, 1 for the restore itself, 2 for a BARW that is presented again; core, slot. -/
def execRestore (s : State) : Out :=
  let g := s.dev.arg
  s.occur <| match s.launch? g.a with
  | none => s.keep
  | some l =>
    let put (l : Launch) : Change := s.keep.dv fun d => { d with launches := d.launches.set g.a l }
    let v := s.dev.saves.get {} g.a
    if g.b = 0 then
      let free := v.cores.all fun k => (s.core k.1).launch.isNone && (s.core k.1).grant.isNone && !(s.core k.1).revoking &&
        (s.core k.1).ctxs.all fun x => !x.2.live
      if l.phase ≠ .saved ∨ !s.restorable g.a l then s.keep.restoreNext g.words
      else if !free then v.cores.foldl (fun c k => c.revoke k.1) (s.again .restore)
      else (put { l with phase := .restoring }).soon .restore { g with b := 1 }
    else if g.b = 1 then
      if l.phase ≠ .restoring then s.keep
      else
        let c := s.writeBack (put { l with phase := .running, stops := [] }) v
        let c := v.tows.foldl (fun c q =>
          (q.2.1 ++ q.2.2).foldl (fun c t => c.sched (s.dev.now + 1) .towpathDelivery { a := q.1, b := t.id })
            (c.core q.1 fun k => { k with fromWest := k.fromWest ++ q.2.1, fromEast := k.fromEast ++ q.2.2 })) c
        let c := v.cores.foldl (fun c k =>
          let back := (s.core k.1).parked.filter fun x => k.2.parked.any fun y => y.slot == x.slot
          let c := back.foldl (fun c x => c.soon .harvestBinding { a := k.1, b := 3, c := x.ctx.tenant, words := x.ctx.entryWords }) c
          let c := c.core k.1 fun now => now.resumed k.2 g.a
          let c := (k.2.chans.get [] 1).foldl (fun c m => c.sched (s.dev.now + 64) .spawnBounce { a := k.1, b := m.seq }) c
          let c := if k.2.reports.isEmpty then c else c.deliverSoon k.1
          State.leaveAgain c k.1) c
        let c := v.clusters.foldl (fun c u => c.clu u.1 fun k => { k with
          barriers := u.2.barriers, commits := k.commits ++ u.2.commits, locks := k.locks ++ u.2.locks.filter fun l => l.owner % 4 != 2 }) c
        let c := v.copies.foldl (fun c k =>
          let c := c.dv fun d => { d with copies := d.copies.set k.1 k.2 }
          if k.2.accepted then c
          else if k.2.cancelled || decide (recTotal k.2.words ≤ k.2.done + k.2.restart) then c.sched (s.dev.now + 1) .copyCompletion { a := k.1 }
          else c.sched (s.dev.now + 1) .copyStart { a := k.1 }) c
        let c := v.arrays.foldl (fun c a =>
          let c := (c.arr a.1 fun x => { x with requests := x.requests ++ a.2.requests }).sched (s.dev.now + 1) .leaseGrant { a := a.1 }
          match a.2.holder with
          | some (p, sl, act) =>
            if ((v.cores.get {} p).ctx sl).act.num = act then
              let q : Request := { core := p, slot := sl, act := act, prio := ((v.cores.get {} p).ctx sl).act.prio, ring := ringOf ((s.logical p).getD 0)
                                   cnt := a.2.cnt, fill := 0, resume := true }
              ((c.arr a.1 fun x => { x with requests := x.requests ++ [q] }).ctx p sl fun x => { x with holds := x.holds ++ [.regrant] }).dv
                fun d => { d with regrants := d.regrants.set act { a.2 with requests := [] } }
            else c
          | none => c) c
        let c := v.cores.foldl (fun c k => k.2.ctxs.foldl (fun c x =>
          if x.2.holds.any Hold.isRearrive then c.sched (s.dev.now + 1) .restore { a := g.a, b := 2, c := k.1, words := [BitVec.ofNat 64 x.1] } else c) c) c
        ((c.dv fun d => { d with saves := d.saves.drop g.a }).restoreNext g.words).sched (s.dev.now + 1) .launchStart { a := l.tenant }
    else s.rearrive s.keep g.c (g.words.getD 0 0).toNat

/-- A management command pre-empts a launch whose save fits, or resumes one. Arg: launch; 0 or 1.
(DEDUCED, log entry 83.) -/
def execPreemptCommand (s : State) : Out :=
  let g := s.dev.arg
  s.occur <| match s.launch? g.a with
  | none => s.keep
  | some l =>
    let put (l : Launch) : Change := s.keep.dv fun d => { d with launches := d.launches.set g.a l }
    if g.b = 0 then
      (if l.phase = .running ∧ s.saveFits l (s.savedOf l.tenant) then (put { l with held := true }).sched (s.dev.now + 1) .preEmption { a := g.a } else s.keep)
    else (put { l with held := false }).sched (s.dev.now + 1) .restore { a := g.a }

end Sys2Proof.Machine
end

