-- ==== Sys2Proof/Machine/Harvest.lean ====
section
/-!
DEFINITION. Harvest: revoking a grant (R93, R127, R162, R208, R377), parking and resuming contexts (R378, R379), and taking entries
from the harvest queues and putting them back (R372 to R375).
-/

namespace Sys2Proof.Machine

/-! ## Revocation (R377) -/

def harvestSlots : List Nat := [11, 12, 13, 14]
def Core.harvesting (k : Core) : List Nat := harvestSlots.filter fun sl => (k.ctx sl).live
/-- A scan that a harvest context runs on its own core stops, its fill reads revoked, and it is scheduled again (R208, R422). -/
def State.stopScan (s : State) (c : Change) (p : Nat) : Change :=
  if !(s.core p).scanning then c
  else match s.dev.agenda.find? fun e => decide (e.ev = .scanComplete) && e.arg.a == p with
  | none => c
  | some e =>
    ((c.core p fun k => { k with scanning := false }).dv fun d => { d with
      scans := if d.scans.contains p then d.scans else d.scans ++ [p]
      agenda := d.agenda.filter fun x => !(decide (x.ev = .scanComplete) && x.arg.a == p) }).answer e.arg.b 2
/-- A harvest context stops being trapped: an undelivered trap is withdrawn, a handler at work on it is ended. -/
def State.withdraw (s : State) (c : Change) (p : Nat) : Change :=
  let own (sl : Nat) : Bool := decide (11 ≤ sl) && decide (sl ≤ 14)
  let c := c.core p fun k => { k with
    traps := k.traps.filter fun t => !own t.2.slot
    ctxs := k.ctxs.map fun x => if own x.1 then (x.1, { x.2 with trapped := false }) else x }
  match (s.core p).handling with
  | some t => if own t.slot && !t.imp then ((c.quit p 15).core p fun k => { k with handling := none, firmware := false }).soon .trapDelivery { a := p }
    else c
  | none => c
/-- Live harvest contexts are parked, and the ranges, the tracks and the issue slots are the owner's again; on a core that has been retired
meanwhile their entries go back to their rings (R379). -/
def State.park (s : State) (c : Change) (p : Nat) : Change :=
  let k := s.core p
  let c := c.core p fun q => { q with
    parked := q.parked ++ k.harvesting.map fun sl => { slot := sl, ctx := q.ctx sl }
    ctxs := q.ctxs.map fun x => if k.harvesting.contains x.1 then (x.1, { x.2 with live := false, freeAt := s.dev.now }) else x
    grant := none, revoking := false, nextGrant := none }
  let c := c.count p 31
  let c := if (s.logical p).isNone then c.unparkAll p else c
  match k.nextGrant with
  | some g => if k.frozen || k.launch.isNone || k.halt != .none || s.noGrants then c else c.grant p g
  | none => c
/-- A revocation at cycles 9, 10 and 11 after its trigger. Arg: core, cycle, cycle of the trigger. -/
def execRevocation (s : State) : Out :=
  let p := s.dev.arg.a
  let k := s.core p
  s.occur <|
    if !k.revoking || k.revokeAt != s.dev.arg.c then s.keep
    else if s.dev.arg.b = 9 then
      ((s.stopScan s.keep p).core p fun k => { k with
        strided := k.strided.filter fun t => !(t.store && decide (11 ≤ t.org.slot) && decide (t.org.slot ≤ 14)) }).sched (s.dev.now + 1) .revocation { a := p, b := 10, c := k.revokeAt }
    else if s.dev.arg.b = 10 then
      let acts := k.harvesting.map fun sl => (k.ctx sl).act.num
      let c := (s.withdraw s.keep p).dropHeld p fun h => acts.contains h.org.act
      let c := harvestSlots.foldl (fun c sl => c.freeTracks p sl true) c
      c.sched (s.dev.now + 1) .revocation { a := p, b := 11, c := k.revokeAt }
    else s.park s.keep p

/-! ## Harvest queues (R373, R374) -/

/-- The process whose tables serve a queue: the core's, or the first of the service tenant.
(DEDUCED, log entry 85.) -/
def State.queuePid (s : State) (p tenant : Nat) : Nat := if tenant = 0 then 0 else ((s.core p).ctx 0).pid
/-- Where a tenant's queue lies; 0 for none. A tenant that is not configured has none (R363); the service tenant's lies where firmware has
put it. (DESIGN CHOICE, log entry 85.) -/
def State.queueVa (s : State) (tenant : Nat) : Nat :=
  let e := (s.dev.tenants.get {} tenant).entry
  if tenant = 0 then Config.serviceQueue else if (e.getD 0 0).getLsbD 63 then (e.getD 3 0).toNat else 0
/-- Words of a queue; nothing when they cannot be read. -/
def State.queueRead (s : State) (p tenant off n : Nat) : Option (List Word) :=
  if s.queueVa tenant = 0 then none
  else match s.readVirt tenant (s.queuePid p tenant) (s.queueVa tenant + off) (8 * n) with
  | .ok bs => some (bytesWords bs)
  | .error _ => none
/-- Write words of a queue, indivisibly at their home. -/
def State.queueWrite (s : State) (c : Change) (p tenant off : Nat) (ws : List Word) : Change :=
  match s.lookup tenant (s.queuePid p tenant) (s.queueVa tenant + off) false true with
  | .ok (.phys pa, key) => (s.physWrite c pa (ws.flatMap wordBytes) key).conflict {} false pa (8 * ws.length)
  | _ => c
/-- HEAD, TAIL and the size of a ring, and the offset of an entry. From a ring whose reserved bits at +16 are not zero no entry is taken: the
manual does not say what a core does with it. (DESIGN CHOICE, log entry 86.) -/
def State.ringOf (s : State) (p tenant : Nat) : Option (Nat × Nat × Nat) :=
  match s.queueRead p tenant 0 3 with
  | some ws => if bits (ws.getD 2 0) 5 59 = 0 then some ((ws.getD 0 0).toNat, (ws.getD 1 0).toNat, 2 ^ bits (ws.getD 2 0) 0 5) else none
  | none => none
def entryOff (size i : Nat) : Nat := 64 + 64 * (i % size)
/-- An entry is as R374 asks; its CRC is over the 64 bytes with VALID zero. -/
def entryGood (ws : List Word) : Bool :=
  let w0 := ws.getD 0 0
  let last := ws.getD 7 0
  decide (bits w0 25 39 = 0) && decide (bits w0 18 4 = 0) && decide (bits w0 22 3 ≤ 4) && decide (ws.getD 6 0 = 0) && decide (bits last 32 31 = 0) &&
    crcGood (ws.set 7 (BitVec.ofNat 64 (last.toNat % 2 ^ 63))) 7 0
/-- The words that an entry places. -/
def entryArgs (ws : List Word) : List Word := (ws.drop 1).take (bits (ws.getD 0 0) 22 3)

/-! ## Binding (R372, R375, R378, R379) -/

/-- A harvest slot that may be bound: free, and its bank holds no parked context. -/
def State.harvestFree (s : State) (p : Nat) : Option Nat :=
  harvestSlots.find? fun sl => slotFree s.dev p sl && !((s.core p).parked.any fun x => x.slot == sl)
/-- The core's grant lets harvest contexts issue. -/
def State.lends (s : State) (p : Nat) : Bool :=
  let k := s.core p
  !k.revoking && !s.noGrants && !k.frozen && k.halt == .none && match k.grant with
    | some g => decide (g.issue = 1)
    | none => false
def State.ownTenant (s : State) (p : Nat) : Nat := match s.launchOf p with
  | some l => l.tenant
  | none => 0
/-- Bind an entry to a slot: helper, priority 7, contained, timestamp 0, a domain of its own. -/
def State.bindEntry (s : State) (c : Change) (p sl tenant : Nat) (ws : List Word) (tries : Nat) : Change :=
  let args := entryArgs ws
  let num := c.dev.fresh
  let a : Act := {
    prio := 7, cls := .harvest, dom := 4 * num + 2, report := args.headD (Config.word num)
    trig := some { device := true, chan := 65, words := args.map fun w => (w, false), tries := tries } }
  (s.bind c p sl (bits (ws.getD 0 0) 0 18) a args).ctx p sl fun x => { x with
    tenant := tenant, pid := s.queuePid p tenant, service := decide (tenant = 0), entryWords := ws }
/-- A parked context goes on: open, at its parked pc; contained, at its entry with its words placed again.
(DEDUCED, log entry 84.) -/
def State.unpark (s : State) (p : Nat) (x : Parked) : Change :=
  let c := s.keep.core p fun k => { k with parked := k.parked.filter fun y => y.slot != x.slot }
  let c := c.ctx p x.slot fun y => { x.ctx with
    live := true, freeAt := y.freeAt, stallUntil := s.dev.now + 1, yieldUntil := 0, next := none, outcome := none }
  if x.ctx.act.open_ then c
  else (c.ctx p x.slot fun y => { y with pc := BitVec.ofNat 64 (bits (x.ctx.entryWords.getD 0 0) 0 18), lcnt := 0, lbeg := 0, lend := 0, holds := [] }).place
    (reserveKey p x.slot 0) (entryArgs x.ctx.entryWords)
/-- The first queue with an entry to take: the service tenant's, then the owner's. (DEDUCED, log entry 86.) -/
def State.readyQueue (s : State) (p : Nat) : Option (Nat × Nat) :=
  [0, s.ownTenant p].findSome? fun t => match s.ringOf p t with
    | some (head, _, size) => (match s.queueRead p t (entryOff size head + 56) 1 with
      | some [w] => if w.getLsbD 63 then some (t, head) else none
      | _ => none)
    | none => none
/-- Put an entry back at the tail of its ring: the index is taken first. -/
def State.takeTail (s : State) (p tenant : Nat) (ws : List Word) (again : Nat) : Change :=
  match s.ringOf p tenant with
  | none => s.keep
  | some (_, tail, _) =>
    (s.queueWrite s.keep p tenant 8 [BitVec.ofNat 64 (tail + 1)]).soon .harvestBinding
      { a := p, b := 5, c := tenant, words := ws.take 8 ++ [BitVec.ofNat 64 tail, BitVec.ofNat 64 again] }
/-- Harvest work of a core, which looks for it as long as a grant stands. Arg: core; 0 to look for work, 4 to claim an entry, 1 to read and bind it, 2 and 3 to put one back
after an error or from a bank, 5 to write it once its place is free; tenant; words. -/
def execHarvestBinding (s : State) : Out :=
  let g := s.dev.arg
  let p := g.a
  let n (i : Nat) : Nat := (g.words.getD i 0).toNat
  s.occur <|
    if g.b = 0 then
      (if (s.core p).grant.isNone then s.keep
        else if !s.lends p then s.keep.soon .harvestBinding { a := p }
        else match s.harvestFree p, (s.core p).parked.find? fun x => (x.ctx.tenant == s.ownTenant p || x.ctx.tenant == 0) && slotFree s.dev p x.slot with
        | _, some x => (s.unpark p x).soon .harvestBinding { a := p }
        | none, none => s.keep.soon .harvestBinding { a := p }
        | some _, none => match s.readyQueue p with
          | some (t, head) => s.keep.soon .harvestBinding { a := p, b := 4, c := t, words := [BitVec.ofNat 64 head] }
          | none => s.keep.soon .harvestBinding { a := p })
    else if g.b = 4 then
      (match s.ringOf p g.c with
        | some (head, _, _) =>
          if s.lends p ∧ head = n 0 then
            (s.queueWrite s.keep p g.c 0 [BitVec.ofNat 64 (head + 1)]).soon .harvestBinding { g with b := 1 }
          else s.keep.soon .harvestBinding { a := p }
        | none => s.keep.soon .harvestBinding { a := p })
    else if g.b = 1 then
      (match s.ringOf p g.c with
        | some (_, _, size) => (match s.queueRead p g.c (entryOff size (n 0)) 8 with
          | some ws =>
            let c := s.queueWrite s.keep p g.c (entryOff size (n 0) + 56) [BitVec.ofNat 64 ((ws.getD 7 0).toNat % 2 ^ 63)]
            let c := c.soon .harvestBinding { a := p }
            let again := (s.dev.tenants.get {} g.c).requeued.contains (n 0)
            let c := if again then c.dv fun d => { d with tenants := d.tenants.upd {} g.c fun t => { t with requeued := t.requeued.filter (· != n 0) } } else c
            if !entryGood ws then s.logCore c p 0x1EB (ws.getD 0 0)
            else (match s.lends p, s.harvestFree p with
              | true, some sl => s.bindEntry c p sl g.c ws (if again then 1 else 0)
              | _, _ => c.soon .harvestBinding { a := p, b := 3, c := g.c, words := ws })
          | none => s.keep.soon .harvestBinding { a := p })
        | none => s.keep.soon .harvestBinding { a := p })
    else if g.b = 2 ∨ g.b = 3 then s.takeTail p g.c g.words (if g.b = 2 then 1 else 0)
    else match s.ringOf p g.c with
    | none => s.keep
    | some (head, _, size) => match s.queueRead p g.c (entryOff size (n 8) + 56) 1 with
      | some [w] =>
        if w.getLsbD 63 ∨ head + size ≤ n 8 then s.keep.soon .harvestBinding g
        else
          let c := s.queueWrite s.keep p g.c (entryOff size (n 8)) ((g.words.take 8).set 7 (BitVec.ofNat 64 (n 7 % 2 ^ 63 + 2 ^ 63)))
          if n 9 = 1 then c.dv fun d => { d with tenants := d.tenants.upd {} g.c fun t => { t with requeued := n 8 :: t.requeued } } else c
      | _ => s.keep

end Sys2Proof.Machine
end

