-- ==== Sys2Proof/Machine/Graph.lean ====
section
/-!
DEFINITION. The graph engines: tables, generations and counters (R323 to R325), instances and their dispatches (R326, R328, R329),
nodes that are done (R327) and the end of an instance (R330).
-/

namespace Sys2Proof.Machine

/-! ## The table in device memory (R323 to R325) -/

def State.graphWords (s : State) (g : Instance) (va n : Nat) : Option (List Word) :=
  match s.readVirt g.tenant g.pid va (8 * n) with
  | .ok bs => some (bytesWords bs)
  | .error _ => none
/-- The sixteen words of the template and the header. -/
def State.graphHead (s : State) (g : Instance) : List Word := (s.graphWords g g.table 16).getD []
def headNodes (h : List Word) : Nat := bits (h.getD 8 0) 0 16 + 1
def headSucc (h : List Word) : Nat := (h.getD 9 0).toNat
def headCtr (h : List Word) : Nat := (h.getD 10 0).toNat
def headArg (h : List Word) : Nat := (h.getD 11 0).toNat
/-- The CRCs of the header and of the template hold, and the table stands where one may.
Its reserved fields are not looked at. (DESIGN CHOICE, log entry 133; DEDUCED, log entry 87.) -/
def headGood (g : Instance) (h : List Word) : Bool :=
  decide (g.table % 256 = 0) && decide (g.table < 2 ^ 57) && decide (h.length = 16) && crcGood (h.take 8) 7 0 &&
    decide (crcWords ((h.drop 8).take 7) = bits (h.getD 15 0) 0 32)
/-- A node's four words. -/
def State.node (s : State) (g : Instance) (i : Nat) : Option (List Word) := s.graphWords g (g.table + 128 + 32 * i) 4
def nodeRank (w : List Word) : Nat := bits (w.getD 0 0) 40 16
def nodeInd (w : List Word) : Bool := (w.getD 0 0).getLsbD 19
def nodeSpec (w : List Word) : Bool := (w.getD 0 0).getLsbD 18
def nodePred (w : List Word) : Nat := bits (w.getD 1 0) 48 16
/-- The successors of a node; nothing when the list cannot be read or breaks its layout. -/
def State.successors (s : State) (g : Instance) (h w : List Word) : Option (List Nat) :=
  let n := bits (w.getD 1 0) 32 16
  match s.readVirt g.tenant g.pid (headSucc h + 4 * bits (w.getD 1 0) 0 32) (4 * n) with
  | .error _ => none
  | .ok bs =>
    let xs := (chunks 4 n bs).map leNat
    if xs.all fun x => decide (x < headNodes h) then some xs else none
/-- A template's record with a node's fields, and its CRC. (DESIGN CHOICE, log entry 23.) -/
def nodeRecord (h w : List Word) (total : Word) : List Word :=
  let w0 := w.getD 0 0
  let mesh := bits w0 24 4 * 2 ^ 28 + bits w0 28 3 * 2 ^ 25 + bits w0 32 4 * 2 ^ 21 + bits w0 36 3 * 2 ^ 18 + bits w0 0 18
  let t := h.take 8
  crcFill ((((t.set 1 (BitVec.ofNat 64 ((t.getD 1 0).toNat / 2 ^ 32 * 2 ^ 32 + mesh))).set 2
    (BitVec.ofNat 64 (headArg h + bits (w.getD 3 0) 32 32))).set 3 total)) 7 0
/-- A node entry passes its CRC and every check of R324. -/
def State.nodeGood (s : State) (g : Instance) (h w : List Word) : Bool :=
  let w0 := w.getD 0 0
  decide (bits w0 56 8 = 0) && decide (bits w0 39 1 = 0) && decide (bits w0 31 1 = 0) && decide (bits w0 20 4 = 0) && crcGood w 3 0 &&
    s.inside g.tenant { words := nodeRecord h w 0 } && match s.successors g h w with
    | none => false
    | some xs => xs.all fun x => match s.node g x with
      | some y => decide (nodeRank w < nodeRank y)
      | none => false
/-- A node's counter word in the present generation. -/
def State.counterOf (s : State) (g : Instance) (h : List Word) (i : Nat) : Word :=
  match s.graphWords g (headCtr h + 8 + 8 * i) 1 with
  | some [w] => if bits w 48 16 = g.gen then w else 0
  | _ => 0
/-- The engine writes a word of the counter area, indivisibly at its home. -/
def State.graphWrite (s : State) (c : Change) (g : Instance) (va : Nat) (w : Word) : Change :=
  match s.lookup g.tenant g.pid va false true with
  | .ok (.phys pa, key) => (s.physWrite c pa (wordBytes w) key).conflict {} false pa 8
  | _ => c
def State.putCounter (s : State) (c : Change) (g : Instance) (h : List Word) (i done count : Nat) : Change :=
  s.graphWrite c g (headCtr h + 8 + 8 * i) (BitVec.ofNat 64 (g.gen * 2 ^ 48 + done * 2 ^ 32 + count % 65536))

/-! ## Dispatch (R326, R328, R329) -/

def Change.updGraph (c : Change) (i : Nat) (f : Instance → Instance) : Change :=
  match c.dev.graphs.find i with
  | none => c
  | some g => c.dv fun d => { d with graphs := d.graphs.set i (f g) }
def Instance.ts (g : Instance) (w : List Word) : Nat := g.gen * 65536 + nodeRank w
/-- A node's entry is not as it must be: the end record will name it. -/
def Change.corruptNode (c : Change) (i n : Nat) (g : Instance) : Change :=
  (c.logErr 8 (dieOf (physCluster g.core)) g.tenant 0x1EA (BitVec.ofNat 64 g.table) (BitVec.ofNat 64 n)).updGraph i fun g => { g with
    corrupt := some (g.corrupt.getD n) }
/-- Such a node is not dispatched, now or later, and the instance does not wait for it; one that has been dispatched before runs on. -/
def Change.refuseNode (c : Change) (i n : Nat) (g : Instance) : Change :=
  (c.corruptNode i n g).updGraph i fun g => if g.dispatched.contains n && !g.refused.contains n then g else { g with
    dispatched := n :: g.dispatched, refused := n :: g.refused }
/-- The dispatcher has refused a node's record: no launch of it will end. -/
def Change.recordRefused (c : Change) (i n : Nat) (g : Instance) : Change :=
  (c.corruptNode i n g).updGraph i fun g => { g with
    dispatched := if g.dispatched.contains n then g.dispatched else n :: g.dispatched
    refused := n :: g.refused, early := g.early.filter (· != n), totals := g.totals.filter (· != n) }
/-- The nodes that are done and have a node among their successors. -/
def State.predecessors (s : State) (g : Instance) (n : Nat) : List Nat :=
  let h := s.graphHead g
  g.done.filter fun m => match s.node g m with
    | some w => ((s.successors g h w).getD []).contains n
    | none => false
/-- A write that the launches of some nodes have released is still under way. -/
def State.writesBefore (s : State) (dom : Nat) (nodes : List Nat) : Bool :=
  let mine (o : Origin) : Bool := o.dom == dom && match o.node with
    | some m => nodes.contains m
    | none => false
  (s.dev.flights.any fun f => mine f.2.org && f.2.write) || (s.dev.cores.any fun k => k.2.relq.any fun h => mine h.org) ||
    (s.dev.copies.any fun k => mine k.2.org && !k.2.complete) || s.dev.saves.any fun v => v.2.copies.any fun k => mine k.2.org && !k.2.complete
/-- Hand a node's record to the dispatcher; a node whose total stands in memory first waits for the writes before it. -/
def State.dispatchNode (s : State) (c : Change) (i n : Nat) (w h : List Word) (early : Bool) : Change :=
  match c.dev.graphs.find i with
  | none => c
  | some g =>
    if nodeInd w then (c.updGraph i fun g => { g with totals := n :: g.totals }).sched (s.dev.now + 1) .nodeDone {
      a := i, b := n, words := [2, BitVec.ofNat 64 (g.ts w)] }
    else (c.updGraph i fun g => { g with dispatched := n :: g.dispatched, early := if early then n :: g.early else g.early }).sched (s.dev.now + 1) .launchRecord {
      a := 2, b := i, c := n
      words := nodeRecord h w (w.getD 2 0) ++ [BitVec.ofNat 64 g.tenant, BitVec.ofNat 64 (g.ts w), if early then 1 else 0] }
/-- Early launches of a die's engine that are not done. -/
def State.earlyCount (s : State) (die : Nat) : Nat :=
  (s.dev.graphs.filter fun g => dieOf (physCluster g.2.core) == die).foldl (fun n g => n + g.2.early.length) 0
/-- A predecessor of a node is done: its count rises, and it is dispatched when that was the last, or early after the first. -/
def State.reach (s : State) (i n : Nat) (h : List Word) : Change :=
  match s.dev.graphs.find i with
  | none => s.keep
  | some g =>
    let old := s.counterOf g h n
    let count := (bits old 0 16 + 1) % 65536
    let c := s.putCounter s.keep g h n (bits old 32 1) count
    match s.node g n with
    | none => c.refuseNode i n g
    | some w =>
      if g.dispatched.contains n || g.totals.contains n then c
      else if !s.nodeGood g h w then c.refuseNode i n g
      else if count = nodePred w then s.dispatchNode c i n w h false
      else if nodeSpec w && !nodeInd w && decide (s.earlyCount (dieOf (physCluster g.core)) < 64) then s.dispatchNode c i n w h true
      else c
/-- Instances that wait for the engine, or for the end of one of their table, look again. -/
def Change.graphsLook (c : Change) : Change :=
  c.dev.graphs.foldl (fun c x => if x.2.begun then c else c.sched (c.dev.now + 1) .graphInstance { a := x.1, b := 1 }) c
/-- The instance ends when every node that it dispatched is done and none waits for its total. -/
def State.instanceEnd (s : State) (c : Change) (i : Nat) : Change :=
  match c.dev.graphs.find i with
  | none => c
  | some g =>
    if g.begun && g.totals.isEmpty && g.dispatched.all fun n => g.done.contains n || g.refused.contains n then
      ((c.postEnd g.core g.slot g.tenant g.gen g.corrupt).dv fun d => { d with
        graphs := d.graphs.drop i, horizons := d.horizons.drop (4 * i + 1) }).graphsLook
    else c

/-! ## Instances (R326) -/

/-- The instance may begin: the engine runs fewer than 16, no instance of the table has still to end, and none that was sent before this
one waits to begin. -/
def State.mayBegin (s : State) (i : Nat) (g : Instance) : Bool :=
  let die := dieOf (physCluster g.core)
  decide ((s.dev.graphs.filter fun x => x.2.begun && dieOf (physCluster x.2.core) == die).length < 16) &&
    !(s.dev.graphs.any fun x => x.1 != i && (x.2.begun || decide (x.1 < i)) && x.2.table == g.table && x.2.tenant == g.tenant && x.2.pid == g.pid)
/-- The next generation: modulo 2^16, without 0. -/
def nextGen (g : Nat) : Nat := if (g + 1) % 65536 = 0 then 1 else (g + 1) % 65536
/-- The instance begins: the generation rises, the issuer's register fills, and every node without predecessors is dispatched. -/
def State.beginInstance (s : State) (i : Nat) (g : Instance) : Change :=
  let h := s.graphHead g
  if !headGood g h then
    ((((s.keep.logErr 8 (dieOf (physCluster g.core)) g.tenant 0x1EA (BitVec.ofNat 64 g.table) (h.getD 15 0)).answer g.fill
      (freeRecord 0x18E s.dev.fresh) true).tick).dv fun d => { d with graphs := d.graphs.drop i }).graphsLook
  else
    let word := match s.graphWords g (headCtr h) 1 with
      | some [w] => w
      | _ => 0
    let gen := nextGen (bits word 0 16)
    let g' : Instance := { g with gen := gen, begun := true }
    let c := (s.graphWrite s.keep g (headCtr h) (BitVec.ofNat 64 (word.toNat / 65536 * 65536 + gen))).answer g.fill (BitVec.ofNat 64 gen)
    let c := c.dv fun d => { d with graphs := d.graphs.set i g' }
    let c := (List.range (headNodes h)).foldl (fun c n => match s.node g n with
      | none => c.refuseNode i n g
      | some w => if !s.nodeGood g' h w then c.refuseNode i n g else if nodePred w = 0 then s.dispatchNode c i n w h false else c) c
    s.instanceEnd c i
/-- A GLAUNCH reaches the engine of its die, and its instance begins when it can. Arg: flight; or instance, 1. -/
def execGraphInstance (s : State) : Out :=
  let g := s.dev.arg
  s.occur <| if g.b = 1 then
      (match s.dev.graphs.find g.a with
        | none => s.keep
        | some x => if !x.begun && s.mayBegin g.a x then s.beginInstance g.a x else s.keep)
    else match s.flight with
    | some f => (match f.cargo with
      | .effect (.glaunch va fill) =>
        let x : Instance := { table := va.toNat, core := f.org.core, slot := f.org.slot, tenant := f.org.tenant, pid := f.org.pid, fill := fill }
        ((s.keep.landed g.a).dv fun d => { d with graphs := d.graphs.set g.a x }).sched (s.dev.now + 1) .graphInstance { a := g.a, b := 1 }
      | _ => s.keep)
    | none => s.keep

/-! ## Nodes that are done (R327, R329) -/

/-- A node is done: its DONE bit, then its successors in list order. -/
def State.finishNode (s : State) (i n : Nat) : Change :=
  match s.dev.graphs.find i with
  | none => s.keep
  | some g =>
    if !g.dispatched.contains n || g.done.contains n || g.refused.contains n then s.keep
    else
      let h := s.graphHead g
      let old := s.counterOf g h n
      let c := (s.putCounter s.keep g h n 1 (bits old 0 16)).updGraph i fun g => { g with done := n :: g.done, early := g.early.filter (· != n) }
      let c := match s.node g n with
        | none => c.corruptNode i n g
        | some w =>
          if !s.nodeGood g h w then c.corruptNode i n g
          else ((s.successors g h w).getD []).foldl (fun c x => c.andThen s fun t => t.reach i x h) c
      s.instanceEnd c i
/-- A GDONE is performed, a node's launch ends, a node's record is refused, or a node's total may be read. Arg: flight; or
instance, node, 1 for a refused record; one word, or two to read the total. -/
def execNodeDone (s : State) : Out :=
  let g := s.dev.arg
  s.occur <|
    if g.words.length = 2 then
      (match s.dev.graphs.find g.a with
        | none => s.keep
        | some x =>
          let refuse : Change := s.instanceEnd (s.keep.recordRefused g.a g.b x) g.a
          if s.writesBefore (4 * g.a + 1) (s.predecessors x g.b) then s.again .nodeDone
          else match s.node x g.b, s.graphHead x with
          | some w, h =>
            if !s.nodeGood x h w then refuse
            else (match s.graphWords x (w.getD 2 0).toNat 1 with
            | some [t] => (s.keep.updGraph g.a fun y => { y with
                totals := y.totals.filter (· != g.b), dispatched := g.b :: y.dispatched }).sched (s.dev.now + 1) .launchRecord {
                a := 2, b := g.a, c := g.b, words := nodeRecord h w t ++ [BitVec.ofNat 64 x.tenant, g.words.getD 1 0, 0] }
            | _ => refuse)
          | none, _ => refuse)
    else if g.words.length = 1 then
      (match s.dev.graphs.find g.a with
        | none => s.keep
        | some x => if g.c = 1 then s.instanceEnd (s.keep.recordRefused g.a g.b x) g.a else s.finishNode g.a g.b)
    else match s.flight with
    | some f => (match f.cargo with
      | .effect (.gdone n) => (s.keep.landed g.a).andThen s fun t => t.finishNode ((f.org.dom - 1) / 4) n
      | _ => s.keep)
    | none => s.keep

end Sys2Proof.Machine
end

