-- ==== Sys2Proof/Machine/Fabric.lean ====
section
/-!
DEFINITION. The fabric: ranks (R380), invocation packets at the receiving Wharf (R382 to R385) and at the sender (R386, R387), and
heartbeats, failed devices and rank remap (R392 to R394). What other devices send arrives as events.
-/

namespace Sys2Proof.Machine

/-! ## Packets (R380, R382) -/

def rankChip (e : Word) : Nat := bits e 0 12
/-- A tenant's own rank on this device; the manual names none where the map has none.
(DEDUCED, log entry 88.) -/
def State.ownRank (s : State) (tenant : Nat) : Nat :=
  match s.dev.ranks.find? fun e => e.2.getLsbD 31 && bits e.2 24 7 == tenant && rankChip e.2 == s.dev.chip with
  | some e => e.1
  | none => Config.choice s.dev.fresh % 4096
def pktDst (w : Word) : Nat := bits w 48 12
def pktTenant (w : Word) : Nat := bits w 29 7
def pktLevel (w : Word) : Nat := bits w 27 2
def pktNarg (w : Word) : Nat := bits w 24 2
def pktIdx (w : Word) : Nat := bits w 16 8
def pktTag (w : Word) : Nat := bits w 0 16
/-- The packet of an INVOKE, with its CRC. -/
def invokePacket (o : Origin) (core own rank level tag : Nat) (block : List Word) : List Word :=
  let w := block.getD 0 0
  let narg := bits w 8 2
  let w0 := rank % 4096 * 2 ^ 48 + own % 4096 * 2 ^ 36 + o.tenant % 128 * 2 ^ 29 + level % 4 * 2 ^ 27 + o.fsx.toNat * 2 ^ 26 + narg * 2 ^ 24 +
    bits w 0 8 * 2 ^ 16 + tag % 65536
  crcFill [BitVec.ofNat 64 w0, if 1 ≤ narg then block.getD 1 0 else 0, if narg = 2 then block.getD 2 0 else 0, BitVec.ofNat 64 (core % 2 ^ 15)] 3 32
/-- CRC and reserved fields of a packet. -/
def packetGood (ws : List Word) : Bool :=
  crcGood ws 3 32 && decide (bits (ws.getD 0 0) 60 3 = 0) && decide (bits (ws.getD 3 0) 15 17 = 0) && decide (pktNarg (ws.getD 0 0) ≤ 2)

/-! ## At the receiving Wharf (R384, R385) -/

/-- Where a reply goes: 0 another device, 1 this device's own Wharf, 2 the host. Codes are those of R197, 5 for BADIDX and 6 for a
NACK. -/
def State.reply (s : State) (c : Change) (how from_ : Nat) (w : Word) (code : Nat) : Change :=
  if how = 1 then c.inClass (fun i => decide (i = .invocationReply) || decide (i = .nack)) (if code = 6 then .nack else .invocationReply)
    { a := pktTag w, b := code }
  else if how = 2 then (if code = 6 then c else c.hostReply 2 (pktTenant w) from_ (BitVec.ofNat 64 code) [])
  else c.toDevice from_ [BitVec.ofNat 64 (pktTag w * 256 + code)]
/-- A packet arrives: the first check that fails decides. Arg: how it came, the sender's device or the host's sequence number;
the packet. -/
def execInvocationPacket (s : State) : Out :=
  let g := s.dev.arg
  let w := g.words.getD 0 0
  let t := pktTenant w
  let e := s.dev.ranks.get 0 (pktDst w)
  let log (code : Nat) : Change := s.keep.logErr 9 0 (if code = 0x1EC then 0 else t) code (BitVec.ofNat 64 (pktDst w)) w
  s.occur <|
    if s.dev.power.recovery then s.keep
    else if !packetGood g.words || (w.getLsbD 63 != decide (g.a = 2)) then s.reply (log 0x1EC) g.a g.b w 6
    else if !e.getLsbD 31 || rankChip e != s.dev.chip then s.reply (log 0x1ED) g.a g.b w 4
    else if bits e 24 7 ≠ t then s.reply (log 0x1ED) g.a g.b w 3
    else
      let x := s.dev.tenants.get {} t
      let q := x.levels.get [] (pktLevel w)
      if !((x.table.get [] (pktIdx w)).getD 0 0).getLsbD 63 then s.reply s.keep g.a g.b w 5
      else if 64 ≤ q.length then s.reply s.keep g.a g.b w 2
      else
        let c := s.keep.dv fun d => { d with tenants := d.tenants.upd {} t fun y =>
          { y with levels := y.levels.set (pktLevel w) (q ++ [g.words ++ [BitVec.ofNat 64 g.a, BitVec.ofNat 64 g.b]]) } }
        (s.reply c g.a g.b w 1).sched (s.dev.now + 1) .packetDrain { a := t }
/-- The record that a drained packet makes with its table entry. -/
def drainRecord (lid tenant : Nat) (pkt e : List Word) : List Word :=
  let w := pkt.getD 0 0
  let e0 := e.getD 0 0
  let flag (i at_ : Nat) : Nat := bits e0 i 1 * 2 ^ at_
  let mode := bits e0 54 4
  let mode := mode / 4 * 4 + bits w 26 1 * 2 + mode % 2
  let w0 := lid % 2 ^ 32 * 2 ^ 32 + bits (e.getD 3 0) 42 16 * 65536 + tenant * 128 + 2 * pktLevel w * 16 + flag 61 3 + flag 60 2 + flag 59 1 + flag 58 0
  let w1 := mode * 2 ^ 50 + bits e0 50 4 * 2 ^ 46 + bits e0 41 9 * 2 ^ 37 + (if pktLevel w = 0 then flag 62 36 else 0) + bits e0 32 4 * 2 ^ 28 +
    bits e0 29 3 * 2 ^ 25 + bits e0 25 4 * 2 ^ 21 + bits e0 22 3 * 2 ^ 18 + bits e0 0 18
  crcFill [BitVec.ofNat 64 w0, BitVec.ofNat 64 w1, if 1 ≤ pktNarg w then pkt.getD 1 0 else e.getD 1 0, if pktNarg w = 2 then pkt.getD 2 0 else e.getD 2 0,
    BitVec.ofNat 64 (bits (e.getD 3 0) 0 42), e.getD 5 0, e.getD 4 0, 0] 7 0
/-- The oldest packet of the first level that has one. -/
def nextPacket (m : Map (List (List Word))) : Option (Nat × List Word) :=
  [0, 1, 2, 3].findSome? fun l => (m.get [] l).head?.map fun p => (l, p)
/-- A tenant's packets drain into the dispatcher's queue while it has room. Arg: tenant. -/
def execPacketDrain (s : State) : Out :=
  let t := s.dev.arg.a
  let x := s.dev.tenants.get {} t
  s.occur <| match nextPacket x.levels with
  | none => s.keep
  | some (l, p) =>
    let coming := s.dev.agenda.any fun e => decide (e.ev = .launchRecord) && decide (e.arg.a ≤ 1) && decide ((e.arg.words.getD 8 0).toNat = t)
    if coming || decide (256 ≤ (s.tenantLaunches t fun y => y.phase == .queued).length) then s.again .packetDrain
    else
      let rec_ := drainRecord x.lid t p (x.table.get [] (pktIdx (p.getD 0 0)))
      let c := s.keep.dv fun d => { d with tenants := d.tenants.upd {} t fun y =>
        { y with lid := y.lid + 1, levels := y.levels.upd [] l fun q => q.drop 1 } }
      (c.sched (s.dev.now + 1) .launchRecord {
        a := if p.getD 4 0 = 2 then 0 else 1, b := (p.getD 5 0).toNat, words := rec_ ++ [BitVec.ofNat 64 t, 0, 0] }).sched (s.dev.now + 1) .packetDrain { a := t }

/-! ## At the sender (R197, R386, R387) -/

/-- 200 µs. -/
def replyTime : Nat := 200 * microsecond
/-- Send a packet that is waiting for its reply: to another device, or to this device's own Wharf. -/
def State.sendPacket (s : State) (c : Change) (tag : Nat) : Change :=
  match c.dev.packets.find tag with
  | none => c
  | some p =>
    let n := p.send + 1
    let c := c.dv fun d => { d with packets := d.packets.set tag { p with send := n, waiting := false } }
    let c := if p.chip = s.dev.chip then c.inClass (fun i => decide (i = .invocationPacket)) .invocationPacket { a := 1, b := s.dev.chip, words := p.words }
      else c.toDevice p.chip p.words
    c.sched (s.dev.now + replyTime) .replyTimeout { a := tag, b := n }
/-- A packet's outcome fills the register: a value, or the record of R386. -/
def Change.outcome (c : Change) (tag code : Nat) : Change :=
  match c.dev.packets.find tag with
  | none => c
  | some p =>
    let c := c.dv fun d => { d with packets := d.packets.drop tag }
    if code = 5 then
      c.answer p.fill (BitVec.ofNat 64 (0x1C1 + p.rank * 65536 + pktIdx (p.words.getD 0 0) * 2 ^ 56)) true
    else c.answer p.fill (BitVec.ofNat 64 code)
/-- A free reply tag. -/
def freeTag (m : Map Packet) : Nat → Nat → Nat
  | 0, t => t
  | n + 1, t => if (m.find (t % 65536)).isSome then freeTag m n (t + 1) else t % 65536
/-- The rank's device is marked failed, or the rank map has no such rank. -/
def State.rankLost (s : State) (rank : Nat) : Bool :=
  let e := s.dev.ranks.get 0 rank
  !e.getLsbD 31 || s.deviceFailed (rankChip e)
/-- Every effect that left the core before an INVOKE's has been performed at `.sys`. -/
def State.sysBefore (s : State) (id : Nat) (f : Flight) : Bool :=
  s.dev.flights.any fun g => decide (g.1 < id) && g.2.org.core == f.org.core && g.2.org.act == f.org.act && g.2.write
/-- An INVOKE reaches its Wharf, once the effects before it are performed; or a retry is sent. Arg: flight; or tag, 1, send. -/
def execRetryWait (s : State) : Out :=
  let g := s.dev.arg
  s.occur <| if g.b = 1 then
      (match s.dev.packets.find g.a with
        | none => s.keep
        | some p => if p.waiting ∧ p.send = g.c then
            (if s.rankLost p.rank then s.keep.outcome g.a 4 else s.sendPacket s.keep g.a) else s.keep)
    else match s.flight with
    | some f => (match f.cargo with
      | .effect (.invoke level rank ws retry fill) =>
        if s.sysBefore g.a f then s.again .retryWait
        else if s.rankLost rank then (s.keep.answer fill 4).landed g.a
        else
          let tag := freeTag s.dev.packets 65536 (s.dev.fresh % 65536)
          let pkt := invokePacket f.org ((s.logical f.org.core).getD 0) (s.ownRank f.org.tenant) rank level tag ws
          let p : Packet := {
            words := pkt, fill := fill, rank := rank, chip := rankChip (s.dev.ranks.get 0 rank), retries := if retry then 8 else 0 }
          s.sendPacket (((s.keep.landed g.a).tick).dv fun d => { d with packets := d.packets.set tag p }) tag
      | _ => s.keep)
    | none => s.keep
/-- A reply arrives: a refusal may be tried again after 1,024 cycles and then after doubling times. Arg: tag, code. -/
def execInvocationReply (s : State) : Out :=
  let g := s.dev.arg
  s.occur <| match s.dev.packets.find g.a with
  | none => s.keep
  | some p =>
    if p.waiting then s.keep
    else if g.b = 2 ∧ p.tried < p.retries then
      (s.keep.dv fun d => { d with packets := d.packets.set g.a { p with tried := p.tried + 1, waiting := true, resends := 0 } }).sched
        (s.dev.now + 1024 * 2 ^ p.tried) .retryWait { a := g.a, b := 1, c := p.send }
    else s.keep.outcome g.a g.b
/-- The members of the groups that name a device change their state. -/
def Change.setStates (c : Change) (dev from_ next : Nat) : Change :=
  c.dv fun d => { d with
    groups := d.groups.map fun e =>
      if bits e.2 0 12 = dev ∧ bits e.2 32 4 = from_ then (e.1, BitVec.ofNat 64 (e.2.toNat - from_ * 2 ^ 32 + next * 2 ^ 32)) else e }
/-- A send counts as NACKed: the packet goes again, at most three times; then the rank is lost and its device suspect. -/
def State.nacked (s : State) (tag : Nat) : Change :=
  match s.dev.packets.find tag with
  | none => s.keep
  | some p =>
    if p.waiting then s.keep
    else if p.resends < 3 then s.sendPacket (s.keep.dv fun d => { d with packets := d.packets.set tag { p with resends := p.resends + 1 } }) tag
    else (s.keep.setStates p.chip 1 2).outcome tag 4
/-- Arg: tag. -/
def execNack (s : State) : Out := s.occur (s.nacked s.dev.arg.a)
/-- 200 µs since a send. Arg: tag, number of the send. -/
def execReplyTimeout (s : State) : Out :=
  s.occur <| match s.dev.packets.find s.dev.arg.a with
  | none => s.keep
  | some p => if p.send = s.dev.arg.b then s.nacked s.dev.arg.a else s.keep

/-! ## Heartbeats and failed devices (R392 to R394) -/

def memberState (e : Word) : Nat := bits e 32 4
/-- The groups that a device belongs to. -/
def State.groupsOf (s : State) (dev : Nat) : List Nat :=
  ((s.dev.groups.filter fun e => bits e.2 0 12 == dev && memberState e.2 != 0).map fun e => e.1 / 1024).eraseDups
/-- The other devices of this device's groups. -/
def State.peers (s : State) : List Nat :=
  ((s.dev.groups.filter fun e => (s.groupsOf s.dev.chip).contains (e.1 / 1024) && bits e.2 0 12 != s.dev.chip && memberState e.2 != 0).map
    fun e => bits e.2 0 12).eraseDups
/-- Every 10 µs a heartbeat goes to every device of each group, this one among them. -/
def execHeartbeat (s : State) : Out :=
  let own := s.keep.sched (s.dev.now + 1) .heartbeatArrival { a := s.dev.chip }
  s.occur ((s.peers.foldl (fun c d => c.toDevice d [BitVec.ofNat 64 s.dev.chip]) own).sched (s.dev.now + 10 * microsecond) .heartbeat)
/-- The members' clocks run anew from now: 30 µs to suspect, 100 µs to failed. -/
def State.watch (s : State) (c : Change) (i : Nat) : Change :=
  ((c.dv fun d => { d with beats := d.beats.set i s.dev.now }).sched (s.dev.now + 30 * microsecond) .suspect { a := i, b := s.dev.now }).sched
    (s.dev.now + 100 * microsecond) .failed { a := i, b := s.dev.now }
/-- A heartbeat arrives: a suspect member is live again. Arg: device. -/
def execHeartbeatArrival (s : State) : Out :=
  let dev := s.dev.arg.a
  let mine := s.dev.groups.filter fun e => decide (bits e.2 0 12 = dev)
  s.occur (mine.foldl (fun c e => s.watch c e.1) (s.keep.setStates dev 2 1))
/-- A member's BEAT has reached a bound; a spare is a member too. Arg: table entry, cycle of its last heartbeat. -/
def State.silent (s : State) : Option Word :=
  let i := s.dev.arg.a
  match s.dev.groups.find i with
  | some e => if s.dev.beats.get 0 i = s.dev.arg.b ∧ (memberState e = 1 ∨ memberState e = 2 ∨ memberState e = 4) then some e else none
  | none => none
def State.putState (s : State) (c : Change) (i n : Nat) : Change :=
  c.dv fun d => { d with groups := d.groups.upd 0 i fun e => BitVec.ofNat 64 (e.toNat - memberState e * 2 ^ 32 + n * 2 ^ 32) }
def execSuspect (s : State) : Out :=
  s.occur (if s.silent.isSome then s.putState s.keep s.dev.arg.a 2 else s.keep)
/-- A member has failed. The Wharf that first marks it remaps its ranks; whether another one has marked it before, this one cannot see.
(DESIGN CHOICE, log entry 145.) -/
def execFailed (s : State) : Out :=
  s.occur <| match s.silent with
  | none => s.keep
  | some e =>
    let dev := bits e 0 12
    let c := s.putState s.keep s.dev.arg.a 3
    let c := s.dev.packets.foldl (fun c p => if p.2.chip = dev ∧ p.2.waiting then c.outcome p.1 4 else c) c
    if Config.choice s.dev.fresh % 2 = 0 then c.tick.sched (s.dev.now + 1) .remap { a := dev, b := s.dev.arg.a / 1024 } else c.tick
/-- The spare of a group: the lowest-indexed member with STATE 4. -/
def State.spare (s : State) (group : Nat) : Option Nat := (s.dev.groups.find? fun e => e.1 / 1024 == group && memberState e.2 == 4).map fun e => e.1
/-- The Wharf that first marked a member as failed chooses the spare and tells every Wharf. Arg: device, group. -/
def execRemap (s : State) : Out :=
  let g := s.dev.arg
  s.occur <| match s.spare g.b with
  | none => s.dev.packets.foldl (fun c p => if p.2.chip = g.a then c.outcome p.1 4 else c) s.keep
  | some i =>
    let chip := bits (s.dev.groups.get 0 i) 0 12
    let others := ((s.dev.groups.map (fun e => bits e.2 0 12) ++ s.dev.ranks.map fun e => rankChip e.2).eraseDups).filter (· != s.dev.chip)
    (others.foldl (fun c d => c.toDevice d [BitVec.ofNat 64 (g.a * 4096 + chip), BitVec.ofNat 64 i]) s.keep).sched (s.dev.now + 1) .remapApply
      { a := g.a, b := chip, c := i }
/-- A Wharf applies a remap: unanswered packets to the failed device fill RANK_LOST, its ranks name the spare, which is live, and the
device is marked failed here too. Arg: failed device, spare device, its table entry. -/
def execRemapApply (s : State) : Out :=
  let g := s.dev.arg
  let c := s.dev.packets.foldl (fun c p => if p.2.chip = g.a then c.outcome p.1 4 else c) s.keep
  let c := c.dv fun d => { d with
    ranks := d.ranks.map fun e =>
      if rankChip e.2 = g.a then (e.1, BitVec.ofNat 64 (e.2.toNat - g.a % 4096 + g.b % 4096)) else e }
  let lost (w : Word) : Word := BitVec.ofNat 64 (w.toNat - memberState w * 2 ^ 32 + 3 * 2 ^ 32)
  let c := c.dv fun d => { d with
    groups := d.groups.map fun e => if bits e.2 0 12 = g.a ∧ memberState e.2 ≠ 0 then (e.1, lost e.2) else e }
  s.occur (if memberState (s.dev.groups.get 0 g.c) = 4 then s.watch (s.putState c g.c 1) g.c else c)

end Sys2Proof.Machine
end

