-- ==== Sys2Proof/Machine/Power.lean ====
section
/-!
DEFINITION. Weir's periods and steps (R253, R402, R421), Sluice (R425 to R428), and the power-fail path: the stop, the drain to t30
and t31, the device record, power down, and the restore of a launch (R252, R429 to R432).
-/

namespace Sys2Proof.Machine

/-! ## Sluice (R425, R427, R428) -/

/-- Package power of a level, in percent of 3,300 W. -/
def levelPercent (n : Nat) : Nat := [100, 85, 70, 55, 40, 30, 20, 10].getD n 10
/-- The level in force. -/
def Power.inForce (w : Power) : Nat := max w.pin w.cmd
/-- What Sluice works towards under a level: 95% of its power, in hundredths of a watt. -/
def levelGoal (n : Nat) : Nat := levelPercent n * 33 * 95
/-- The first action of each stage, in the order of R427: one action for stages 1 and 2, then four, eight, four, seven, six and
ninety-six. -/
def stageFirst : List Nat := [0, 1, 2, 6, 14, 18, 25, 31, 127]
/-- The highest stage with an action in force. -/
def Power.stage (w : Power) : Nat := (stageFirst.filter fun n => decide (n < w.actions)).length
def Power.gatedArrays (w : Power) : Nat := min 8 (w.actions - 6)
def Power.clock (w : Power) : Nat := min 6 (w.actions - 25)
def Power.gatedClusters (w : Power) : Nat := min 96 (w.actions - 31)
/-- An array is gated: the lease ends after the running command, and commands that have not started are discarded (R294). -/
def Change.gateArray (c : Change) (r : Nat) : Change :=
  let a := c.dev.arrays.get {} r
  let c := if a.q0.isEmpty then c else c.reslostHolder r
  ((c.arr r fun a => { a with gated := true, q0 := [] }).leaseEnds r 3).leaseDrained r
/-- Take or undo one action. (DESIGN CHOICE, log entry 95.) -/
def State.throttle (s : State) (c : Change) (n : Nat) (on : Bool) : Change :=
  let c := c.dv fun d => { d with power := { d.power with actions := if on then n + 1 else n } }
  if n = 1 ∧ on then s.dev.cores.foldl (fun c k => c.revokeFrom k.1) c
  else if 6 ≤ n ∧ n < 14 then
    let a := 7 - (n - 6)
    (List.range 96).foldl (fun c u =>
      if on then c.gateArray (u * 8 + a)
      else (c.arr (u * 8 + a) fun x => { x with gated := false }).sched (s.dev.now + 1) .leaseGrant { a := u * 8 + a }) c
  else if 31 ≤ n ∧ n < 127 then c.clu (95 - (n - 31)) fun k => { k with gated := on }
  else c
/-- Every 10 µs: the target follows the level, down at once and up at the ramp rate; then one action is taken, or undone once the level has
become less restrictive, or is the least restrictive of all. The estimate comes from the monitors. (DESIGN CHOICE, log entry 89.) -/
def execPowerEstimate (s : State) : Out :=
  let w := s.dev.power
  let est := Config.choice s.dev.fresh % 4096
  let after := est + Config.choice (s.dev.fresh + 1) % 4096
  let goal := levelGoal w.inForce
  let target := if goal < w.target then goal else min goal (w.target + w.ramp * 33)
  let rising := if goal < w.target then false else w.rising || decide (w.target < goal) || decide (w.inForce = 0)
  let c := (s.keep.tick.tick.dv fun d => { d with
    power := { d.power with target := target, rising := rising, recent := (est :: d.power.recent).take 10 } }).sched (s.dev.now + 10 * microsecond) .powerEstimate
  s.occur (
    if target < est * 100 then (if w.actions < 127 then s.throttle c w.actions true else c)
    else if 0 < w.actions ∧ rising ∧ after * 10000 ≤ target * 95 then s.throttle c (w.actions - 1) false
    else c)
/-- Every 10 µs the pins are sampled; two samples that agree are accepted. -/
def execPstepSample (s : State) : Out :=
  let n := s.dev.power.pins % 8
  s.occur ((s.keep.dv fun d => { d with
    power := { d.power with pinSample := n, pin := if d.power.pinSample = n then n else d.power.pin } }).sched (s.dev.now + 10 * microsecond) .pstepSample)
/-- A management command sets CMD. Arg: code. -/
def execPowerStepCommand (s : State) : Out :=
  s.occur (s.keep.dv fun d => { d with power := { d.power with cmd := s.dev.arg.a % 8 } })
/-- A management command sets the ramp rate, 1% to 100% a millisecond. Arg: percent. -/
def execRampRate (s : State) : Out :=
  s.occur (if 1 ≤ s.dev.arg.a ∧ s.dev.arg.a ≤ 100 then s.keep.dv fun d => { d with power := { d.power with ramp := s.dev.arg.a } } else s.keep)
/-- The power and health status word (R426). -/
def Dev.health (d : Dev) : Word :=
  let w := d.power
  let avg := if w.recent.isEmpty then 0 else w.recent.foldl (· + ·) 0 / w.recent.length
  BitVec.ofNat 64 (min 255 (avg / 16) * 2 ^ 36 + w.gatedClusters * 2 ^ 29 + w.clock * 2 ^ 26 + w.gatedArrays * 2 ^ 22 + w.stage * 2 ^ 18 +
    w.replace.toNat * 2 ^ 17 + w.pins % 8 * 2 ^ 14 + w.cmd * 2 ^ 11 + w.inForce * 2 ^ 8)

/-! ## Weir (R253, R402, R421) -/

/-- Default caps of the eight activities, in thousandths of a percent of their resource. -/
def defaultCap (n : Nat) : Nat := [500, 500, 200, 200, 300, 500, 500, 300].getD n 0
def Power.cap (w : Power) (n : Nat) : Nat := (w.caps.find n).getD (defaultCap n)
/-- A management command sets a cap: at most ten times its default, and 10% in all. Arg: activity, cap. -/
def execWeirCap (s : State) : Out :=
  let n := s.dev.arg.a
  let w : Power := { s.dev.power with caps := s.dev.power.caps.set n s.dev.arg.b }
  s.occur (if n < 8 ∧ s.dev.arg.b ≤ 10 * defaultCap n ∧ ((List.range 8).map w.cap).foldl (· + ·) 0 ≤ 10000 then s.keep.dv fun d => { d with power := w }
    else s.keep)
/-- What an activity takes of a period's 105,000 cycles, in thousandths of a percent. -/
def share (cycles : Nat) : Nat := cycles * 100000 / 105000
/-- Use some of an activity's budget, in thousandths of a percent. -/
def Change.charge (c : Change) (n part : Nat) : Change :=
  c.dv fun d => { d with power := { d.power with usedCaps := d.power.usedCaps.upd 0 n (· + part) } }
def Change.spend (c : Change) (n cycles : Nat) : Change := c.charge n (share cycles)
/-- What an activity may take in a period: its cap, and while it catches up as much again. -/
def Power.limit (w : Power) (n : Nat) : Nat := w.cap n + min (w.cap n) (w.owed.get 0 n)
/-- Some more of an activity stays within the budget, or uses cycles that no foreground agent wants. -/
def State.afford (s : State) (n part : Nat) : Bool :=
  decide (s.dev.power.usedCaps.get 0 n + part ≤ s.dev.power.limit n) || Config.choice (s.dev.fresh + 2) % 2 == 0
/-- The periods of 24 hours. -/
def dayPeriods : Nat := 864000000
/-- The parts of an activity's minimum and the periods of its round: lines of device memory, positions, tracks, words of near SRAM, of
reserve banks and of B-stores, and cores; wear rotation, the drain and the links have no such round. -/
def Dev.weirRound (d : Dev) (n : Nat) : Nat × Nat :=
  match n with
  | 0 => ((2 ^ 39 + (d.cxl.map fun x => x.2).foldl (· + ·) 0) / 64, dayPeriods)
  | 1 => (19584 * 8192, dayPeriods)
  | 2 => (19584 * 32, dayPeriods / 24)
  | 4 => (19584 * 36864 + 768 * 1048576, dayPeriods)
  | 7 => (19584, 7 * dayPeriods)
  | _ => (0, 0)
/-- The word of storage that is part `i` of the scrub of SRAM and B-stores. -/
def scrubWord (i : Nat) : Nat :=
  if i < 19584 * 32768 then nearBase / 8 + i
  else if i < 19584 * 36864 then reserveBase / 8 + (i - 19584 * 32768)
  else bstoreBase / 8 + (i - 19584 * 36864)
/-- An in-field scan of a core is scheduled. -/
def Change.scanDue (c : Change) (p : Nat) : Change := c.dv fun d => { d with scans := if d.scans.contains p then d.scans else d.scans ++ [p] }
/-- Begin part `i` of an activity's round; `due` is 1 where the minimum needs it in this period. -/
def Change.weirPart (c : Change) (n i due : Nat) : Change :=
  let at_ := c.dev.now + 1 + Config.choice c.dev.fresh % 100000
  let c := c.tick
  match n with
  | 0 => c.sched at_ .patrolScrub { a := 0, b := i, words := [BitVec.ofNat 64 due] }
  | 1 => c.sched at_ .weirStep { a := i / 8192, b := i / 256 % 32, c := 2, words := [BitVec.ofNat 64 due, BitVec.ofNat 64 (i % 256)] }
  | 2 => c.sched at_ .weirStep { a := i / 32, b := i % 32, c := 0, words := [BitVec.ofNat 64 due] }
  | 4 => c.sched at_ .patrolScrub { a := 1, b := scrubWord i, words := [BitVec.ofNat 64 due] }
  | _ => (c.scanDue i).charge 7 10
/-- An activity's clock moves on by a period: the parts that its minimum has come to are begun, and perhaps one more (R421). -/
def State.weirClock (s : State) (c : Change) (n : Nat) : Change :=
  let w := s.dev.power
  let (parts, periods) := s.dev.weirRound n
  let t := w.clocks.get 0 n + 1
  let from_ := w.begun.get 0 n
  let goal := max from_ (parts * t / periods)
  let upto := min parts (goal + Config.choice (s.dev.fresh + n) % 2)
  let c := (List.range (upto - from_)).foldl (fun c i => c.weirPart n (from_ + i) (if from_ + i < goal then 1 else 0)) c
  c.dv fun d => { d with power := { d.power with
    clocks := d.power.clocks.set n (if t < periods then t else 0), begun := d.power.begun.set n (if t < periods then upto else 0) } }
/-- What each activity has still to catch up: a suspended period adds its cap, and what it took beyond its cap counts off (R421). -/
def Power.owes (w : Power) : Map Nat :=
  (List.range 8).map fun n => (n, if 0 < w.actions then w.owed.get 0 n + w.cap n else w.owed.get 0 n - (w.usedCaps.get 0 n - w.cap n))
/-- A period begins: nothing of the budgets is used, the clocks move on, full half-rings of Thyme are drained, and a step of wear rotation
is begun where Weir chooses; nothing of it while stage 1 is in force, when the clocks stand still. (DESIGN CHOICE, log entry 90.) -/
def execWeirPeriod (s : State) : Out :=
  let c := (s.keep.dv fun d => { d with power := { d.power with usedCaps := [], owed := d.power.owes } }).sched (s.dev.now + 100 * microsecond) .weirPeriod
  s.occur (if 0 < s.dev.power.actions then c
    else
      let pick (n : Nat) : Nat := Config.choice (s.dev.fresh + n)
      let halves := ((s.dev.cores.map fun k => k.2.thyme.length / 1024)).foldl (· + ·) 0
      let c := { c with dev := { c.dev with fresh := c.dev.fresh + 8 } }.charge 5 halves
      let c := [0, 1, 2, 4, 7].foldl s.weirClock c
      let c := c.sched (s.dev.now + 1 + pick 5 % 100000) .weirStep { a := pick 3 % 19584, b := pick 6 % 32, c := 1 }
      c.dv fun d => { d with
        cores := d.cores.map fun k => (k.1, { k.2 with thyme := k.2.thyme.drop (k.2.thyme.length / 1024 * 1024) }) })
/-- The part is due in this period (R421): where it cannot be done now it is tried again in the next period, and any other is left. -/
def State.weirLater (s : State) (ev : Instr) : Change :=
  if s.dev.arg.words.headD 0 = 1 then s.keep.sched (s.dev.now + 100 * microsecond) ev s.dev.arg else s.keep
/-- A step on an unowned track that is not busy: it holds the track for at most 272 cycles. A scrub makes the words of an
uncorrectable position POISON. Arg: core, track; 0 calibration, 1 wear rotation, 2 scrub; 1 where it is due, and the position. -/
def execWeirStep (s : State) : Out :=
  let g := s.dev.arg
  let t := s.track g.a g.b
  let n := 1 + Config.delay s.dev.fresh % 272
  let act := if g.c = 0 then 2 else if g.c = 1 then 3 else 1
  let q := (g.words.getD 1 (BitVec.ofNat 64 (Config.choice (s.dev.fresh + 1)))).toNat % 256
  let key := trackKey g.a g.b q 0
  let broken := (List.range 32).any fun i => s.bad.contains (key / 8 + i)
  s.occur (
    if 0 < s.dev.power.actions ∨ t.owner ≠ 15 ∨ t.busy ∨ t.wanted ∨ s.dev.now < t.weirUntil ∨ !(g.words.headD 0 == 1 || s.afford act (share n)) then
      s.weirLater .weirStep
    else
      let c := ((s.keep.tick.tick.trk g.a g.b fun k => { k with weirUntil := s.dev.now + n }).spend act n)
      if g.c = 2 ∧ broken then
        (List.range 32).foldl (fun c i => (c.putWord (key + 8 * i) (badRecord key) .poison).op (.bad (key / 8 + i) false)) (s.trackTouched c g.a g.b q)
      else c)
/-- A scrub of other storage: what is correctable is corrected; an uncorrectable near-SRAM word becomes POISON; device memory and
B-stores are not written. Arg: 0 for a memory line, 1 for SRAM and B-stores; its number, or the word; 1 where it is due.
(DESIGN CHOICE, log entry 25.) -/
def execPatrolScrub (s : State) : Out :=
  let g := s.dev.arg
  let act := if g.a = 0 then 0 else 4
  s.occur (
    if 0 < s.dev.power.actions ∨ !(g.words.headD 0 == 1 || s.afford act (share 1)) then s.weirLater .patrolScrub
    else (if g.a = 0 then s.keep else s.poisonBad s.keep (8 * g.b) 8).spend act 1)
/-- A link layer asks for retraining: Weir spends link time on it, in a later period where this one has none left; nothing else changes
(R381, R421). Arg: link. -/
def execSerdesRetraining (s : State) : Out :=
  s.occur (if 0 < s.dev.power.actions ∨ !s.afford 6 (share 1) then s.keep.sched (s.dev.now + 100 * microsecond) .serdesRetraining s.dev.arg
    else s.keep.spend 6 1)

/-! ## Images of a core (R420, R430) -/

/-- Kind, target and data of a held effect (R420). -/
def Effect.image : Effect → Nat × Nat × List Byte
  | .store _ ea bs => (0, ea, bs)
  | .localStore ea bs => (0, ea, bs)
  | .trackWrite t q bs => (0, 0x40000 + t * 65536 + q * 256, bs)
  | .deposit _ ea v => (1, ea, wordBytes v)
  | .atomic _ _ ea x cmp _ => (2, ea, wordBytes x ++ wordBytes cmp)
  | .send t _ ws _ => (3, t, ws.flatMap wordBytes)
  | .spawn t e ws _ => (3, t, (BitVec.ofNat 64 e :: ws).flatMap wordBytes)
  | .task t ws => (4, t, ws.flatMap wordBytes)
  | .command x _ r _ => (5, r, wordBytes x)
  | .feed ws sc r _ => (5, r, (ws ++ [sc]).flatMap wordBytes)
  | .mset r _ => (5, r, [])
  | .mfree r _ => (5, r, [])
  | .copy ws id => (6, id, ws.flatMap wordBytes)
  | .gdone n => (7, n, [])
  | .glaunch va _ => (7, va.toNat, [])
  | .invoke _ r ws _ _ => (3, r, ws.flatMap wordBytes)
  | .fence sc => (8, Scope.num sc, [])
/-- A held effect with its 16-byte header. -/
def Core.heldImage (k : Core) (h : Held) : List Byte :=
  let (kind, target, bs) := h.eff.image
  let w := kind * 2 ^ 60 + h.org.slot * 2 ^ 56 + k.bindCount.get 0 h.org.slot % 2 ^ 32 * 2 ^ 24 + h.after.toNat * 2 ^ 23 + bs.length % 65536
  natBytes 8 w ++ natBytes 8 target ++ bs
/-- The hold buffer as one list for each activation, in program order; what has been released and has still to leave is in it. -/
def Core.holdImage (k : Core) (pick : Held → Bool) : List Byte :=
  let all := k.relq ++ k.hold
  (all.map fun h => h.org.act).eraseDups.flatMap fun a => (all.filter fun h => h.org.act == a && pick h).flatMap k.heldImage
/-- Bytes filled up with zeros, to at least `n` and to exactly `n`. -/
def filled (n : Nat) (bs : List Byte) : List Byte := bs ++ List.replicate (n - bs.length) 0
def padded (n : Nat) (bs : List Byte) : List Byte := bs.take n ++ List.replicate (n - bs.length) 0
/-- The input buffer: each message's channel, sender, length and words; the manual leaves the layout to the engine.
(DESIGN CHOICE, log entry 91.) -/
def Core.inputImage (k : Core) : List Byte :=
  (k.chans.flatMap (fun c => c.2) ++ k.tasks).flatMap fun m =>
    natBytes 8 (m.chan * 2 ^ 48 + m.org.core * 2 ^ 16 + m.words.length) ++ m.words.flatMap fun w => wordBytes w.1
/-- The two Towpath queues, eight places each. -/
def Core.towImage (k : Core) : List Byte :=
  padded 2048 (k.fromWest.flatMap fun t => vecBytes t.v) ++ padded 2048 (k.fromEast.flatMap fun t => vecBytes t.v)
/-- A handler's descriptor (R104). -/
def Handler.word (h : Handler) : Nat :=
  h.narg * 2 ^ 29 + h.spec.toNat * 2 ^ 28 + h.rep.toNat * 2 ^ 27 + h.ctl.toNat * 2 ^ 26 + h.prio % 8 * 2 ^ 23 + h.mask.toNat * 2 ^ 22 + h.entry % 2 ^ 18
def Core.handlerImage (k : Core) : List Byte := (List.range 64).flatMap fun n => natBytes 8 (k.handler n).word
def Core.wideImage (k : Core) : List Byte := (List.range 8).flatMap fun n => natBytes 80 (k.wide.get {} n).v.toNat ++ natBytes 2 (k.wide.get {} n).x.toNat
def Core.headImage (k : Core) : List Byte := (List.range 32).flatMap fun n => natBytes 4 (k.tracks.get {} n).word
/-- A slot's record: of its shadow when it is speculative; zeros when it is free. -/
def State.drainRecordOf (s : State) (p sl : Nat) : List Byte :=
  let x := s.ctx p sl
  if !x.live then List.replicate 5120 0
  else match x.shadow with
  | none => s.recordAt p sl
  | some sh =>
    if sh.image.isEmpty then s.recordAt p sl
    else record sh.image sh.tags { x with
      pc := sh.pc, mode := sh.mode, stallcnt := sh.stallcnt, srseed := sh.srseed, status := sh.status, lcnt := sh.lcnt, lbeg := sh.lbeg
      lend := sh.lend, xw := sh.xw } sl

/-! ## Power fail (R174, R371, R429, R430, R431) -/

/-- 20 ms. -/
def holdUp : Nat := 20000 * microsecond
/-- Everything on the agenda but the power-fail path goes. -/
def failEvent (ev : Instr) : Bool := decide (ev = .drain) || decide (ev = .deviceRecord) || decide (ev = .powerDown) || decide (ev = .powerReturn)
/-- A core takes 0x1E1 and stops: the trap, of its lowest live slot, is delivered to no handler (R397, R429). (DESIGN CHOICE, log entry
129.) -/
def Core.powerTrap (k : Core) (now : Nat) : Core :=
  let t := match (k.ctxs.filter fun x => x.2.live).head? with
    | some x => [(now, ({ cause := 0x1E1, pc := x.2.pc, addr := x.2.pc, aux := 0, slot := x.1 } : Trap))]
    | none => []
  { k with failed := true, traps := k.traps ++ t }
/-- PFAIL_N is asserted: every core takes 0x1E1 and stops at a pair boundary, engines and Weir stop, what is in flight is lost, and the cores with
PFRES will drain; firmware, where it runs, will write the device record. -/
def execPfail (s : State) : Out :=
  let now := s.dev.now
  s.occur (if s.dev.power.fail.isSome ∨ s.dev.power.down then s.keep
    else
      let c := s.keep.dv fun d => { d with
        power := { d.power with fail := some now, returned := false }, flights := [], breads := [], notices := [], tagNotices := [], saves := []
        agenda := d.agenda.filter fun e => failEvent e.ev
        cores := d.cores.map fun k => (k.1, k.2.powerTrap now) }
      let c := if !s.dev.booted then c
        else s.dev.cores.foldl (fun c k =>
          if k.2.launch.isSome ∧ (k.2.ctx 0).mode.getLsbD 3 then
            (c.sched (now + 210 + Config.delay c.dev.fresh % 5000) .drain { a := k.1 }).tick
          else c) c
      let c := if s.dev.booted ∧ !s.dev.power.recovery then (c.sched (now + 5300 + Config.delay c.dev.fresh % 20000000) .deviceRecord).tick else c
      c.sched (now + holdUp) .powerDown)
/-- The 391 positions of a drained core, after its header. -/
def State.drainImage (s : State) (p : Nat) : List Byte :=
  let k := s.core p
  ([0, 1, 2, 3, 4, 5, 6, 7, 8, 9, 10, 15].flatMap fun sl => s.drainRecordOf p sl) ++ padded 768 (k.headImage ++ k.handlerImage) ++
    padded 16384 (k.holdImage fun h => !(h.after && (k.ctx h.org.slot).shadow.isSome)) ++ padded 16384 k.inputImage ++ k.towImage ++ padded 768 k.wideImage
/-- The header of an image. -/
def drainHeader (now logical lid tenant : Nat) (body : List Byte) : List Byte :=
  padded 256 (natBytes 8 now ++ natBytes 8 (logical + lid * 2 ^ 32) ++ natBytes 8 (tenant + 391 * 65536 + crc32c body * 2 ^ 32) ++ natBytes 8 1)
/-- A core's sequencer writes its image to t30 and t31 through port A: their heads end at the last positions written (R252, R430). A
position that fails its write is left POISON (R249). Arg: core. -/
def execDrain (s : State) : Out :=
  let p := s.dev.arg.a
  let body := s.drainImage p
  let l := match s.launchOf p with
    | some l => (l.lid, l.tenant)
    | none => (0, 0)
  let image := drainHeader s.dev.now ((s.logical p).getD 0) l.1 l.2 body ++ body
  s.occur (if s.dev.power.fail.isNone then s.keep
    else
      let at_ (t q : Nat) (c : Change) : Change := c.trk p t fun k => { k with h := q, t := q, shifting := false, align := false }
      let fails (c : Change) (i : Nat) : Change :=
        let key := trackKey p (30 + i / 256) (i % 256) 0
        if (s.track p (30 + i / 256)).failing.contains (i % 256) then
          (List.range 32).foldl (fun c j => c.putWord (key + 8 * j) (positionRecord key) .poison) c
        else c
      let c := ((List.range 391).foldl (fun c i => s.trackTouched c p (30 + i / 256) (i % 256)) s.keep).write (trackKey p 30 0 0) image
      at_ 31 134 (at_ 30 255 ((List.range 391).foldl fails c)))
/-- What the device record holds of a tenant: its table entry and its station configuration (R431). -/
def Tenant.toRecord (t : Tenant) : Tenant := { entry := t.entry, pidTable := t.pidTable, pidn := t.pidn }
/-- What the device record holds. -/
def Dev.toRecord (d : Dev) : DeviceRecord := {
  launches := d.launches, nextLaunch := d.nextLaunch, groups := d.groups, ranks := d.ranks, coreMap := d.coreMap, tenants := d.tenants.map fun t => (t.1, t.2.toRecord)
  caps := d.power.caps, clocks := d.power.clocks, begun := d.power.begun
  drained := d.cores.filterMap fun k => match k.2.launch with
    | some n => if (k.2.ctx 0).mode.getLsbD 3 then some (k.1, n) else none
    | none => none }
/-- The device starts again: board flash, the tracks, the position of each track's data and the tenants whose data they hold survive; the
rest is as after reset.
(DEDUCED, log entry 93.) -/
def State.restart (s : State) (c : Change) (booted : Bool) : Change :=
  let d := c.dev
  let kept : Dev := {
    fresh := d.fresh, booted := booted, flash := d.flash, record := d.record, fused := d.fused, mgmt := d.mgmt, chip := d.chip, coreMap := d.coreMap
    cores := (d.cores.filter fun k => !k.2.tracks.isEmpty || k.2.dead).map fun k =>
      (k.1, { dead := k.2.dead, tracks := k.2.tracks.map fun t => (t.1, { h := t.2.h, t := t.2.h, off := t.2.off, markers := t.2.markers, failing := t.2.failing }) })
    clusters := (d.clusters.filter fun k => k.2.tenant.isSome).map fun k => (k.1, { tenant := k.2.tenant })
    power := { pins := d.power.pins, replace := d.coreMap.any (fun e => e.2.2), replaceN := !(d.coreMap.any fun e => e.2.2), down := false } }
  let lost (w : Nat) : Bool := !(decide (trackBase ≤ 8 * w) && decide (8 * w < bstoreBase))
  let c := ((c.op (.wipe 0 (2 ^ 49))).op (.wipe bstoreBase (2 ^ 52))).dv fun _ => kept
  (s.bad.filter lost).foldl (fun c w => c.op (.bad w false)) c
/-- Firmware writes the device record to board flash; with power back, the device then boots. -/
def execDeviceRecord (s : State) : Out :=
  let c := s.keep.dv fun d => { d with record := some d.toRecord }
  s.occur (if s.dev.power.fail.isNone then s.keep else if s.dev.power.returned then s.restart c false else c)
/-- 20 ms after PFAIL_N the package is without power. -/
def execPowerDown (s : State) : Out :=
  s.occur (match s.dev.power.fail with
    | none => s.keep
    | some _ => if s.dev.power.returned then s.keep
      else (s.restart s.keep true).dv fun d => { d with power := { d.power with down := true } })
/-- Power returns: before 20 ms, the drain completes and the device then boots; later, it boots. -/
def execPowerReturn (s : State) : Out :=
  s.occur (
    if s.dev.power.down then s.restart s.keep false
    else match s.dev.power.fail with
    | none => s.keep
    | some _ =>
      if s.dev.agenda.any fun e => decide (e.ev = .deviceRecord) then s.keep.dv fun d => { d with power := { d.power with returned := true } }
      else s.restart s.keep false)

/-! ## Restoring a drained launch (R432) -/

/-- The image in a core's t30 and t31, as words; none when its header is not valid. -/
def State.imageOf (s : State) (p : Nat) : Option (List Word) :=
  let bs := s.bytesAt (trackKey p 30 0 0) (391 * 256)
  let ws := bytesWords bs
  if bits (ws.getD 3 0) 0 1 = 1 ∧ (wordsOf (trackKey p 30 0 0) (391 * 256)).all (fun w => s.tagOf w != .poison) ∧ crc32c (bs.drop 256) = bits (ws.getD 2 0) 32 32 then some ws else none
/-- One core of a drained launch is restored. -/
def State.restoreCore (s : State) (c : Change) (n : Nat) (l : Launch) (p : Nat) : Change :=
  match s.imageOf p with
  | none => c
  | some ws =>
    let c := c.core p fun k => { k with
      launch := some n, wpbase := l.wpbase, widths := l.widths, block := l.block, quota := l.quota
      ch0 := { entry := l.entry, prio := l.prio, rep := l.rep, spec := l.spec, ctl := true }, ch1 := { prio := l.prio, rep := l.rep } }
    let c := s.wipe c (nearKey p 0) 262144
    let c := ([0, 1, 2, 3, 4, 5, 6, 7, 8, 9, 10, 15].zipIdx).foldl (fun c sl =>
      let r := (ws.drop (32 + 640 * sl.2)).take 640
      if r.all (· == 0) then c
      else (c.loadRecord p sl.1 l.dom r (nearKey p (slotWp l.wpbase sl.1))).ctx p sl.1 fun x => { x with stopped := false }) c
    let heads := (ws.drop (32 + 32 * 240)).take 16
    let c := (List.range 32).foldl (fun c t =>
      let w := bits (heads.getD (t / 2) 0) (32 * (t % 2)) 32
      let c := c.trk p t fun k => { k with
        owner := w / 65536 % 16, keep := decide (w / 2 ^ 20 % 2 = 1), shared := decide (w / 2 ^ 22 % 2 = 1), err := decide (w / 2 ^ 23 % 2 = 1), mofs := w / 2 ^ 24 }
      if (s.track p t).h = w % 256 then (if w / 256 % 256 = w % 256 then c else c.seek p t (w / 256))
      else (c.seek p t (w % 256)).trk p t fun k => { k with then_ := if w / 256 % 256 = w % 256 then none else some (w / 256 % 256) }) c
    c.write (trackKey p 30 0 24) (natBytes 8 0)
/-- A management command restores one drained launch. Arg: launch. (DEDUCED, log entry 94.) -/
def execLaunchRestore (s : State) : Out :=
  let n := s.dev.arg.a
  s.occur <| match s.dev.record with
  | none => s.keep
  | some r => match r.launches.find n with
    | none => s.keep
    | some l =>
      if !r.sound ∨ (s.launch? n).isSome then s.keep
      else
        let ps := (r.drained.filter fun e => e.2 == n).map fun e => e.1
        let l' : Launch := { l with phase := .running, woken := s.coresOf l, victims := [], stops := [] }
        let c := s.keep.dv fun d => { d with launches := d.launches.set n l', nextLaunch := max d.nextLaunch n }
        let c := l.clusters.foldl (fun c u => s.changeTenant c u l.tenant) c
        ps.foldl (fun c p => s.restoreCore c n l p) c

end Sys2Proof.Machine
end

