-- ==== Sys2Proof/Machine/Sha.lean ====
section
/-!
DEFINITION. SHA-256 and SHA-384 (FIPS 180-4), HMAC over each (FIPS 198-1), and HKDF-SHA-384, by which management messages are
authenticated and firmware is measured (R391, R433, R434). (PRESUMED, log entry 144.)
-/

namespace Sys2Proof.Machine

/-! ## Constants: fractions of roots of the first 80 primes -/

def shaPrimes : List Nat := (List.range 410).filter fun n => decide (2 ≤ n) && (List.range n).all fun d => decide (d < 2) || n % d != 0
/-- The greatest number of `b` bits above `r` whose `k`th power is at most `t`. -/
def rootGo (k t : Nat) : Nat → Nat → Nat
  | 0, r => r
  | b + 1, r => rootGo k t b (if (r + 2 ^ b) ^ k ≤ t then r + 2 ^ b else r)
/-- The first 64 bits of the fraction of the `k`th root of a number below 512. -/
def rootFraction (k p : Nat) : Nat := rootGo k (p * 2 ^ (64 * k)) 69 0 % 2 ^ 64

/-! ## The hash -/

/-- One of the two hashes: its word's width, its rounds, and the amounts of its rotations and shifts. -/
structure Sha where
  w : Nat
  rounds : Nat
  big0 : Nat × Nat × Nat
  big1 : Nat × Nat × Nat
  small0 : Nat × Nat × Nat
  small1 : Nat × Nat × Nat
deriving DecidableEq, Repr
def sha256 : Sha := { w := 32, rounds := 64, big0 := (2, 13, 22), big1 := (6, 11, 25), small0 := (7, 18, 3), small1 := (17, 19, 10) }
def sha384 : Sha := { w := 64, rounds := 80, big0 := (28, 34, 39), big1 := (14, 18, 41), small0 := (1, 8, 7), small1 := (19, 61, 6) }
/-- Three rotations, or two and a shift, combined. -/
def shaTurns {w : Nat} (x : BitVec w) (n : Nat × Nat × Nat) : BitVec w := x.rotateRight n.1 ^^^ x.rotateRight n.2.1 ^^^ x.rotateRight n.2.2
def shaTurnsShift {w : Nat} (x : BitVec w) (n : Nat × Nat × Nat) : BitVec w := x.rotateRight n.1 ^^^ x.rotateRight n.2.1 ^^^ (x >>> n.2.2)
/-- A number's first bits: SHA-256's constants are the first halves of SHA-384's. -/
def Sha.constant (h : Sha) (x : Nat) : BitVec h.w := BitVec.ofNat h.w (x / 2 ^ (64 - h.w))
/-- The message schedule, the last word first. -/
def Sha.schedule (h : Sha) : Nat → List (BitVec h.w) → List (BitVec h.w)
  | 0, l => l
  | n + 1, l => h.schedule n ((shaTurnsShift (l.getD 1 0) h.small1 + l.getD 6 0 + shaTurnsShift (l.getD 14 0) h.small0 + l.getD 15 0) :: l)
/-- One round on the eight working variables. -/
def Sha.round (h : Sha) (v : List (BitVec h.w)) (kw : BitVec h.w × BitVec h.w) : List (BitVec h.w) :=
  match v with
  | [a, b, c, d, e, f, g, i] =>
    let t1 := i + shaTurns e h.big1 + ((e &&& f) ^^^ (~~~e &&& g)) + kw.1 + kw.2
    [t1 + (shaTurns a h.big0 + ((a &&& b) ^^^ (a &&& c) ^^^ (b &&& c))), a, b, c, d + t1, e, f, g]
  | v => v
/-- One block of sixteen words. -/
def Sha.block (h : Sha) (ks v : List (BitVec h.w)) (m : List (BitVec h.w)) : List (BitVec h.w) :=
  List.zipWith (· + ·) v (((ks.zip (h.schedule (h.rounds - 16) m.reverse).reverse).foldl h.round) v)
/-- The number that bytes give, the first the most significant. -/
def beNat (bs : List Byte) : Nat := bs.foldl (fun n b => n * 256 + b.toNat) 0
def beBytes (n x : Nat) : List Byte := (natBytes n x).reverse
/-- Bytes of a block. -/
def Sha.size (h : Sha) : Nat := 2 * h.w
/-- The digest of bytes, whole: 32 bytes of SHA-256, 48 of SHA-384. -/
def Sha.hash (h : Sha) (bs : List Byte) : List Byte :=
  let tail := h.w / 4
  let n := (bs.length + 1 + tail + h.size - 1) / h.size
  let padded := bs ++ [0x80] ++ List.replicate (n * h.size - bs.length - 1 - tail) 0 ++ beBytes tail (8 * bs.length)
  let ks := (shaPrimes.take h.rounds).map fun p => h.constant (rootFraction 3 p)
  let start := ((shaPrimes.drop (if h.w = 32 then 0 else 8)).take 8).map fun p => h.constant (rootFraction 2 p)
  let out := (chunks h.size n padded).foldl (fun v b => h.block ks v ((chunks (h.w / 8) 16 b).map fun x => BitVec.ofNat h.w (beNat x))) start
  ((out.flatMap fun x => beBytes (h.w / 8) x.toNat)).take (if h.w = 32 then 32 else 48)

/-! ## HMAC and HKDF -/

def Sha.hmac (h : Sha) (key bs : List Byte) : List Byte :=
  let key := if h.size < key.length then h.hash key else key
  let pad (x : Byte) : List Byte := (key ++ List.replicate (h.size - key.length) 0).map (· ^^^ x)
  h.hash (pad 0x5C ++ h.hash (pad 0x36 ++ bs))
/-- 32 bytes of HKDF-SHA-384: no salt, a secret, and what the key is bound to. -/
def hkdf (secret info : List Byte) : List Byte :=
  (sha384.hmac (sha384.hmac (List.replicate 48 0) secret) (info ++ [1])).take 32

end Sys2Proof.Machine
end

