-- ==== Sys2Proof/Machine/HostPort.lean ====
section
/-!
DEFINITION. The host's side: frames of the Ethernet ports (R388), host invocations (R389), RDMA (R390), management messages and the
tables they write (R363, R380, R383, R391, R392, R417), status reads and dumps (R411, R420, R426, R432), and boot and attestation
(R433, R434).
-/

namespace Sys2Proof.Machine

/-! ## Frames (R388) -/

/-- A header's fields. -/
def frameType (ws : List Word) : Nat := bits (ws.getD 0 0) 56 8
def frameTenant (ws : List Word) : Nat := bits (ws.getD 0 0) 49 7
def frameLen (ws : List Word) : Nat := bits (ws.getD 0 0) 32 17
def frameSeq (ws : List Word) : Nat := bits (ws.getD 0 0) 0 32
/-- The payload's bytes. -/
def frameBytes (ws : List Word) : List Byte := ((ws.drop 2).flatMap wordBytes).take (frameLen ws)
def Change.dropped (c : Change) : Change := c.dv fun d => { d with drops := d.drops + 1 }
/-- A frame arrives: it is handed on by its type, or dropped and counted, or dropped and logged when it names a tenant outside its
binding. Replies of the host (types 2, 4, 7 and 8) end here: what the host answers to this device's own requests stands in the free values
of log entry 122. Arg: port, VLAN, UDP port; the UDP payload. (DEDUCED, log entries 96, 97.) -/
def execFrame (s : State) : Out :=
  let g := s.dev.arg
  let ws := g.words
  let t := frameTenant ws
  let goes (ev : Instr) (a : Nat) : Change := s.keep.sched (s.dev.now + 1) ev { a := a, b := frameSeq ws, c := t, words := ws }
  s.occur <|
    if s.dev.power.down || s.dev.power.fail.isSome then s.keep
    else if g.c ≠ s.dev.udpPort then s.keep.dropped
    else if t ≠ 0 ∧ !(s.dev.tenants.get {} t).ports.contains (g.a, g.b) then s.keep.logErr 10 g.a t 0x1ED 0 (ws.getD 0 0)
    else match frameType ws with
    | 1 => goes .hostInvocation g.a
    | 3 => goes .managementMessage (ws.getD 1 0).toNat
    | 5 => goes .rdmaWrite g.a
    | 6 => goes .rdmaRead g.a
    | 2 | 4 | 7 | 8 => s.keep
    | _ => s.keep.dropped
/-- A host invocation is one packet for this device's own Wharf (R389). Arg: port, sequence number, tenant; the frame. -/
def execHostInvocation (s : State) : Out :=
  let g := s.dev.arg
  s.occur (if s.dev.power.recovery then s.keep
    else s.keep.soon .invocationPacket { a := 2, b := g.b, words := bytesWords ((frameBytes g.words).take 32) })

/-! ## RDMA (R280, R305, R390) -/

/-- The parts of an access: of one 64 KiB unit each, translated at the station of a core of D0. -/
def State.rdmaParts (s : State) (tenant pid va n : Nat) (rd wr : Bool) : Except Nat (List (Place × List Word × Nat)) :=
  (unitsOf va n).foldl (fun acc u => match acc with
    | .error e => .error e
    | .ok l =>
      let r := match s.cachedLeaf (stationOf 0 u.1) tenant pid u.1 with
        | some t => s.leafPlace tenant u.1 (levelOf t.size) t.leaf rd wr
        | none => s.lookup tenant pid u.1 rd wr
      match r with
      | .error e => .error e
      | .ok (.away 4096 _, _) => .error 0x095
      | .ok (pl, key) => .ok (l ++ [(pl, key, u.2)])) (.ok [])
/-- One unit of a write, of up to 8,192 bytes: every part is translated and checked before any is performed, and a part of another device
is sent there (R349). It gives the cause of a failure, 0 for none. -/
def State.rdmaUnit (s : State) (tenant pid va : Nat) (data : List Byte) : Change × Nat :=
  match s.rdmaParts tenant pid va data.length false true with
  | .error cause => (s.keep, cause)
  | .ok l =>
    match l.findSome? fun e => (match e.1 with
        | .phys a => s.partFault a e.2.2
        | _ => none) with
    | some cause => (s.keep, cause)
    | none =>
      ((l.foldl (fun (acc : Change × List Byte) e =>
        let part := acc.2.take e.2.2
        (match e.1 with
          | .away d a => acc.1.sendAway { org := { tenant := tenant, pid := pid }, cargo := .copyWrite 0 0 [(0, part)], place := e.1 } d a (.copyWrite 0 0 [(0, part)])
          | pl => (chunks 64 (part.length / 64 + 2) (List.replicate (pl.key % 64) 0 ++ part)).zipIdx.foldl (fun c b =>
              let here := if b.2 = 0 then b.1.drop (pl.key % 64) else b.1
              let k := if b.2 = 0 then pl.key else pl.key / 64 * 64 + 64 * b.2
              if here.isEmpty then c
              else (s.placeWrite c (.phys k) here e.2.1).conflict {} false k here.length) acc.1, acc.2.drop e.2.2)) (s.keep, data)).1, 0)
/-- Something of it goes to another device, whose answer is awaited. -/
def State.rdmaAway (s : State) (tenant pid va n : Nat) (rd : Bool) : Bool :=
  match s.rdmaParts tenant pid va n rd (!rd) with
  | .ok l => l.any fun e => match e.1 with
    | .away .. => true
    | _ => false
  | .error _ => false
/-- A write of the host, which carries no timestamp, in units of up to 8,192 bytes: an acknowledgement tells the cause of the first
failure, 0 for none, once other devices have answered. Arg: port, or 65,536 and more when they have, sequence number, tenant; the frame.
(DESIGN CHOICE, log entry 98.) -/
def execRdmaWrite (s : State) : Out :=
  let g := s.dev.arg
  let bs := frameBytes g.words
  let pid := leNat (bs.take 2)
  let data := bs.drop 2
  let va := (g.words.getD 1 0).toNat
  let ack (c : Change) (cause : Nat) : Change := c.hostReply 8 g.c g.b (BitVec.ofNat 64 cause) []
  s.occur <|
    if s.dev.power.recovery then s.keep
    else if 65536 ≤ g.a then
      ack s.keep.tick.tick (if Config.choice s.dev.fresh % 2 = 0 then 0 else awayCause (Config.choice (s.dev.fresh + 1)))
    else
      let one := s.rdmaUnit g.c pid va (data.take 8192)
      let away := s.rdmaAway g.c pid va data.length false
      let finish (c : Change) (cause : Nat) : Change :=
        if cause = 0 ∧ away then c.soon .rdmaWrite { g with a := g.a % 65536 + 65536 } else ack c cause
      if one.2 ≠ 0 ∨ data.length ≤ 8192 then finish one.1 one.2
      else one.1.andThen s fun s =>
        let two := s.rdmaUnit g.c pid (va + 8192) (data.drop 8192)
        finish two.1 two.2
/-- A read of up to 8,192 bytes, whose number stands in the payload after the PID; a response gives the cause and the data, once other
devices have answered the requests for their parts. Arg: as for a write. -/
def execRdmaRead (s : State) : Out :=
  let g := s.dev.arg
  let bs := frameBytes g.words
  let pid := leNat (bs.take 2)
  let n := min 8192 (leNat ((bs.drop 2).take 2))
  let answer (c : Change) (cause : Nat) (data : List Byte) : Change := c.hostReply 7 g.c g.b (BitVec.ofNat 64 cause) data
  s.occur <| if s.dev.power.recovery then s.keep else match s.rdmaParts g.c pid (g.words.getD 1 0).toNat n true false with
  | .error cause => answer s.keep cause []
  | .ok l =>
    let out := l.foldl (fun c e => match e.1 with
      | .away d a =>
        let q : Cargo := .copyRead 0 0 1 e.2.2
        c.sendAway { org := { tenant := g.c, pid := pid }, cargo := q, place := e.1 } d a q
      | _ => c) s.keep
    if s.rdmaAway g.c pid (g.words.getD 1 0).toNat n true && decide (g.a < 65536) then out.soon .rdmaRead { g with a := g.a + 65536 }
    else
      let r := l.foldl (fun (acc : Except Nat (List Byte)) e => match acc with
        | .error c => .error c
        | .ok bs => match e.1 with
          | .away _ a => (match s.awayAnswer a e.2.2 with
              | .ok b => .ok (bs ++ b)
              | .error w => .error (w.toNat % 512))
          | pl => (match s.readRecord pl.key e.2.2 s.dev.fresh with
              | some w => .error (w.toNat % 512)
              | none => .ok (bs ++ s.placeBytes pl e.2.2 e.2.1))) (.ok [])
      match r with
      | .error c => answer s.keep.tick.tick c []
      | .ok b => answer s.keep.tick.tick 0 b

/-! ## Management messages (R391) -/

/-- The events that management commands are, by the number of the command. (DESIGN CHOICE, log entry 99.) -/
def commandEvent : Nat → Option Instr
  | 0 => some .statusRead
  | 1 => some .firmwareStaging
  | 2 => some .powerStepCommand
  | 3 => some .preemptCommand
  | 4 => some .tenantTableWrite
  | 5 => some .invocationTableWrite
  | 6 => some .rankMapWrite
  | 7 => some .groupTableWrite
  | 8 => some .breakpointWrite
  | 9 => some .dump
  | 10 => some .launchRestore
  | 11 => some .weirCap
  | 12 => some .rampRate
  | _ => none
/-- The bytes that the MAC of a message covers, its header and its payload but for the last 32 bytes, and the MAC. -/
def macSplit (ws : List Word) : List Byte × List Byte :=
  let n := frameLen ws - 32
  ((ws.take 2).flatMap wordBytes ++ (frameBytes ws).take n, (frameBytes ws).drop n)
/-- The words of a message's payload. -/
def messageWords (ws : List Word) : List Word := byteWords ((macSplit ws).1.drop 16)
/-- A message carries the HMAC-SHA-256 of its key. -/
def macGood (key ws : List Word) : Bool :=
  decide (32 ≤ frameLen ws) && sha256.hmac (key.flatMap wordBytes) (macSplit ws).1 == (macSplit ws).2
/-- A message is accepted when its MAC verifies and its sequence number is new; any other is dropped, counted and logged. In recovery
only status reads and staging are answered. A command is three words, its number and two arguments, and more of them; numbers 13, 14
and 15 set the UDP port, the Ethernet port of host-tier elements (R356), and a route (R381). Arg: key index, sequence number, tenant; the
frame. (DEDUCED, log entry 100.) -/
def execManagementMessage (s : State) : Out :=
  let g := s.dev.arg
  let m := messageWords g.words
  let n (i : Nat) : Nat := (m.getD i 0).toNat
  let refuse : Change := s.keep.dropped.logErr 10 0 g.c 0x1EE 0 (g.words.getD 0 0)
  s.occur <| match s.dev.mgmt.find g.a with
  | none => refuse
  | some (key, next) =>
    if g.b < next ∨ !macGood key g.words then refuse
    else
      let c := s.keep.dv fun d => { d with mgmt := d.mgmt.set g.a (key, g.b + 1) }
      let reply (c : Change) : Change := c.hostReply 4 g.c g.b (m.getD 0 0) []
      if s.dev.power.recovery ∧ 1 < n 0 then c
      else if n 0 = 13 then reply (c.dv fun d => { d with udpPort := n 1 % 65536 })
      else if n 0 = 14 then reply (c.dv fun d => { d with rdmaPort := n 1 % 2 })
      else if n 0 = 15 then reply (if n 1 < 4096 then c.dv fun d => { d with routes := d.routes.set (n 1) (n 2 % 24) } else c)
      else match commandEvent (n 0) with
      | none => c
      | some ev =>
        let c := c.soon ev { a := n 1, b := n 2, c := g.b, words := m.drop 3 }
        if n 0 = 0 ∨ n 0 = 9 then c else reply c

/-! ## Tables (R347, R363, R380, R383, R392, R417) -/

/-- The clusters of an entry's rectangle. -/
def rectangle (t0 : Word) : List Nat :=
  if t0.getLsbD 63 then
    (List.range (bits t0 0 3 + 1)).flatMap fun y => (List.range (bits t0 3 4 + 1)).map fun x => (bits t0 7 3 + y) * 12 + bits t0 10 4 + x
  else []
/-- An entry that may stand: its rectangle on the device, apart from those of other tenants; its save area in HBM on a page; and its
reserved fields zero. (DEDUCED, log entry 101; for the reserved fields DESIGN CHOICE, log entry 134.) -/
def State.entryFits (s : State) (t : Nat) (ws : List Word) : Bool :=
  let w := ws.getD 0 0
  decide (bits w 10 4 + bits w 3 4 ≤ 11) && decide (bits w 7 3 + bits w 0 3 ≤ 7) && decide (bits w 14 49 = 0) &&
    decide (bits (ws.getD 1 0) 48 16 = 0) && decide (bits (ws.getD 1 0) 0 12 = 0) && decide (bits (ws.getD 1 0) 0 48 + (ws.getD 2 0).toNat ≤ 2 ^ 39) &&
    !(s.dev.tenants.any fun e => e.1 != t && (rectangle (e.2.entry.getD 0 0)).any fun u => (rectangle w).contains u)
/-- A tenant's entry (0), its translation configuration (1), or the ports and VLANs bound to it (2). Arg: tenant, which; words. -/
def execTenantTableWrite (s : State) : Out :=
  let g := s.dev.arg
  let put (f : Tenant → Tenant) : Change := s.keep.dv fun d => { d with tenants := d.tenants.upd {} g.a f }
  let n (i : Nat) : Nat := (g.words.getD i 0).toNat
  s.occur <|
    if 128 ≤ g.a then s.keep
    else if g.b = 0 then (if 1 ≤ g.a ∧ s.entryFits g.a g.words then put fun t => { t with entry := (g.words.take 4) ++ List.replicate (4 - g.words.length) 0 } else s.keep)
    else if g.b = 1 then (if n 0 % 4096 = 0 ∧ n 0 < 2 ^ 39 ∧ 1 ≤ n 1 ∧ n 1 ≤ 65536 then put fun t => { t with pidTable := n 0, pidn := n 1 } else s.keep)
    else if g.b = 2 then put fun t => { t with ports := g.words.map fun w => (bits w 16 16, bits w 0 16) }
    else s.keep
/-- CRC and reserved fields of an invocation-table entry. -/
def invocationGood (ws : List Word) : Bool :=
  crcGood ws 7 0 && decide (bits (ws.getD 0 0) 36 5 = 0) && decide (bits (ws.getD 0 0) 18 4 = 0) && decide (bits (ws.getD 3 0) 58 6 = 0) &&
    decide (ws.getD 6 0 = 0) && decide (bits (ws.getD 7 0) 32 32 = 0)
/-- An entry is written, or the write is refused and the entry becomes invalid. Arg: tenant, index; eight words. -/
def execInvocationTableWrite (s : State) : Out :=
  let g := s.dev.arg
  let put (c : Change) (ws : List Word) : Change := c.dv fun d => { d with tenants := d.tenants.upd {} g.a fun t => { t with table := t.table.set g.b ws } }
  s.occur <|
    if 128 ≤ g.a ∨ 256 ≤ g.b then s.keep
    else if invocationGood g.words then put s.keep (g.words.take 8)
    else put (s.keep.logErr 9 0 g.a 0x1EC (BitVec.ofNat 64 g.b) (g.words.getD 0 0)) []
/-- Arg: rank; the entry, whose reserved bits are not kept. -/
def execRankMapWrite (s : State) : Out :=
  let g := s.dev.arg
  let w := g.words.getD 0 0
  s.occur (if 4096 ≤ g.a then s.keep
    else s.keep.dv fun d => { d with ranks := d.ranks.set g.a (w &&& 0xFFF00FFF) })
/-- A member's entry; its clock runs from the write. Arg: group, index; the entry. -/
def execGroupTableWrite (s : State) : Out :=
  let g := s.dev.arg
  let w := g.words.getD 0 0
  s.occur (if 16 ≤ g.a ∨ 1024 ≤ g.b ∨ 4 < memberState w then s.keep
    else s.watch (s.keep.dv fun d => { d with groups := d.groups.set (g.a * 1024 + g.b) (w &&& 0xF00000FFF) }) (g.a * 1024 + g.b))
/-- A breakpoint register of a logical core. Arg: logical core, register; its value, whose reserved bits are not kept. -/
def execBreakpointWrite (s : State) : Out :=
  let g := s.dev.arg
  s.occur (if s.retired g.a ∨ 4 ≤ g.b then s.keep
    else s.keep.core (s.phys g.a) fun k => { k with breaks := k.breaks.set g.b (g.words.getD 0 0 &&& 0xFFFF00000007FFFC) })

/-! ## Reads (R411, R420, R426, R432) -/

/-- A status read: 0 the power and health status, 1 the error log, 2 the drained launches, 3 a core's breakpoint registers. Arg:
which, logical core, sequence number. -/
def execStatusRead (s : State) : Out :=
  let g := s.dev.arg
  let body : List Word :=
    if g.a = 0 then [s.dev.health]
    else if g.a = 1 then s.dev.log.flatten
    else if g.a = 2 then (match s.dev.record with
      | some r => if r.sound then ((r.drained.map fun e => e.2).eraseDups).map fun n => BitVec.ofNat 64 n else []
      | none => [])
    else if g.a = 3 then (List.range 4).map fun i => (s.core (s.phys g.b)).breaks.get 0 i
    else []
  s.occur (s.keep.hostReply 4 0 g.c 0 (body.flatMap wordBytes))
/-- Two bits for each word's tag. -/
def Tag.code : Tag → Nat
  | .empty => 0 | .full => 1 | .poison => 2 | .res => 3
/-- A halted core's image: near SRAM and its tags, hold buffer, input buffer, Towpath queues, handler table, event queue, wide
accumulators, head-state words, reserve banks of parked contexts, and the track blocks written since the wake (R368, R420). The hold list
is as long as its effects make it.
(DESIGN CHOICE, log entry 102.) -/
def State.dumpImage (s : State) (p : Nat) : List Byte :=
  let k := s.core p
  let tags := (List.range 8192).map fun i =>
    BitVec.ofNat 8 ((List.range 4).foldl (fun n j => n + (s.tagOf (nearKey p 0 / 8 + 4 * i + j)).code * 4 ^ j) 0)
  s.bytesAt (nearKey p 0) 262144 ++ tags ++ filled 16384 (k.holdImage fun _ => true) ++ padded 16384 k.inputImage ++ k.towImage ++ k.handlerImage ++
    padded 512 (k.events.flatMap fun e => wordBytes e.2) ++ k.wideImage ++ k.headImage ++
    (k.parked.flatMap fun x => s.bytesAt (reserveKey p x.slot 0) 4608) ++ k.dirty.flatMap fun b => s.bytesAt (trackKey p 0 0 0 + b * 4096) 4096
/-- A dump of a halted core goes out; nothing of the core changes. Arg: logical core, unused, sequence number. -/
def execDump (s : State) : Out :=
  let g := s.dev.arg
  let p := s.phys g.a
  s.occur (match s.retired g.a, (s.core p).halt with
    | false, .halted _ => s.keep.hostReply 4 0 g.c 9 (s.dumpImage p)
    | _, _ => s.keep)

/-! ## Boot and attestation (R345, R432, R433, R434) -/

/-- A firmware image is put into a slot of board flash. Arg: slot; the image. -/
def execFirmwareStaging (s : State) : Out :=
  let g := s.dev.arg
  s.occur (if g.a < 2 then s.keep.dv fun d => { d with flash := d.flash.set g.a g.words } else s.keep)
/-- The boot ROM accepts an image when both signatures verify, both public keys hash to the fused values, and its security version is not
below the fused minimum (R433). -/
def imageAccepted (fused image : List Word) : Bool :=
  Config.rsaVerifies image && Config.slhVerifies image && sha384.hash (Config.publicKey 0 image) == Config.fusedHash 0 fused &&
    sha384.hash (Config.publicKey 1 image) == Config.fusedHash 1 fused && decide (Config.fusedVersion fused ≤ Config.imageVersion image)
/-- The image that the boot ROM accepts: slot A's, then slot B's. -/
def Dev.accepted (d : Dev) : Option (List Word) :=
  [0, 1].findSome? fun i => match d.flash.find i with
    | some m => if imageAccepted d.fused m then some m else none
    | none => none
/-- The ROM's measurements of itself, of the accepted firmware and of its configuration (R434). -/
def measurements (image : List Word) : List Word :=
  byteWords (sha384.hash Config.bootRom ++ sha384.hash (image.flatMap wordBytes) ++ sha384.hash (Config.configuration image))
/-- The identity's two key pairs, from the fused secret and the measurements (R434). -/
def identityOf (fused measured : List Word) : List (List Word) := [Config.identityKey 0 fused measured, Config.identityKey 1 fused measured]
/-- The device boots: firmware restores what a sound device record holds and starts the periodic work; without an accepted image the
device is in recovery. (DEDUCED, log entry 103.) -/
def execBoot (s : State) : Out :=
  let now := s.dev.now
  let sluice (c : Change) : Change := (c.sched (now + 10 * microsecond) .pstepSample).sched (now + 10 * microsecond) .powerEstimate
  s.occur <| match s.dev.accepted with
  | none => sluice (s.keep.dv fun d => { d with booted := true, power := { d.power with recovery := true } })
  | some m =>
    let c := s.keep.dv fun d => { d with
      booted := true, measured := measurements m, identity := identityOf d.fused (measurements m), cxl := (List.range 8).map fun p => (p, Config.cxlCapacity p) }
    let c := match s.dev.record with
      | none => c
      | some r => if r.sound then c.dv fun d => { d with
            groups := r.groups, ranks := r.ranks, tenants := r.tenants, coreMap := r.coreMap
            power := { d.power with
              caps := r.caps, clocks := r.clocks, begun := r.begun, replace := r.coreMap.any fun e => e.2.2
              replaceN := !(r.coreMap.any fun e => e.2.2) } } else c
    let c := c.dev.groups.foldl (fun c e => s.watch c e.1) c
    ((sluice c).sched (now + 100 * microsecond) .weirPeriod).sched
      (now + 10 * microsecond) .heartbeat
/-- The report for a nonce: the nonce, the serial number, the measurements, the security version and the ephemeral public key, then the
signatures with both identity keys (R434). -/
def Dev.attest (d : Dev) (nonce : List Word) : List Word :=
  let version := match d.accepted with
    | some m => Config.imageVersion m
    | none => 0
  let body := nonce ++ Config.serial d.fused ++ d.measured ++ [BitVec.ofNat 64 version] ++ Config.ephemeralKey d.fresh
  body ++ d.identity.flatMap fun k => Config.signature k body
/-- An attestation: the report for a nonce; and then, with the host's key, the management key at an index. Arg: key index, 0 for the
report and 1 for the key; the nonce, or the host's key. (DESIGN CHOICE, log entry 104.) -/
def execAttestation (s : State) : Out :=
  let g := s.dev.arg
  let report := s.dev.attest g.words
  s.occur (if s.dev.power.recovery then s.keep
    else if g.b = 0 then (s.keep.tick.dv fun d => { d with report := report, ephemeral := s.dev.fresh }).sendFrames 0 4 0 0 (report.flatMap wordBytes)
    else s.keep.dv fun d => { d with
      mgmt := d.mgmt.set g.a (byteWords (hkdf (Config.sharedSecret d.ephemeral g.words) (d.report.flatMap wordBytes)), 0) })

end Sys2Proof.Machine
end

