-- ==== Sys2Proof/Machine/Debug.lean ====
section
/-!
DEFINITION. What watches the machine: the cluster trace and its dump (R412 to R415), Thyme (R418), and the raising of contexts that
have aged (R230).
-/

namespace Sys2Proof.Machine

/-! ## The cluster trace -/

/-- A trigger is true in the present cycle. -/
def Trace.fires (t : Trace) (now : Nat) (w : Word) : Bool :=
  match bits w 60 4 with
  | 1 => t.seen.contains (1, bits w 0 18)
  | 2 => t.seen.contains (2, bits w 0 9)
  | 3 => decide (bits w 0 48 ≤ now % 2 ^ 48)
  | 4 => t.seen.contains (4, bits w 0 6)
  | 5 => true
  | _ => false
/-- The row of a cycle: one byte for each logical core of the cluster. -/
def State.traceRow (s : State) (clu : Nat) : List Nat :=
  (List.range 192).map fun i => if s.retired (logicalAt clu i) then 0 else (s.core (s.phys (logicalAt clu i))).didRow
def Trace.dumpAt (t : Trace) : Nat := (t.block.getD 3 0).toNat
/-- Bytes that the die writes to HBM, line by line. (DEDUCED, log entry 105.) -/
def State.dumpWrite (s : State) (c : Change) (pa : Nat) (bs : List Byte) : Change :=
  (chunks 64 ((bs.length + 63) / 64) bs).zipIdx.foldl (fun c b => c.andThen s fun t => t.physWrite t.keep (pa + 64 * b.2) b.1 []) c
/-- The die looks at its triggers, from the cycle after its arming on, and writes a row: from the start to the cycle of the stop trigger and POST cycles more. The
activations bound in the cycle write their start records. Arg: die. -/
def execTraceTrigger (s : State) : Out :=
  let die := s.dev.arg.a
  let now := s.dev.now
  let put (c : Change) (t : Trace) : Change := c.dv fun d => { d with traces := d.traces.set die { t with seen := [], bound := [] } }
  s.occur <| match s.dev.traces.find die with
  | none => s.keep
  | some t =>
    let b0 := t.block.getD 0 0
    let isOver : Bool := match t.stop with
      | some n => decide (n < now)
      | none => false
    if (t.state ≠ 1 ∧ t.state ≠ 2) ∨ isOver then s.keep
    else if s.dev.now ≤ t.armedAt then put s.keep t
    else if t.state = 1 ∧ b0.getLsbD 8 ∧ !t.fires now (t.block.getD 1 0) then put s.keep t
    else
      let t := if t.state = 1 then { t with state := 2, began := now } else t
      let rows := t.rows ++ [(now, s.traceRow (bits b0 0 7))]
      let stop := match t.stop with
        | some n => some n
        | none => if t.fires now (t.block.getD 2 0) || t.seen.contains (9, 0) then some (now + bits b0 48 16) else none
      let c := t.bound.zipIdx.foldl (fun c r =>
        let w := BitVec.ofNat 64 (r.1.1.toNat + (now - t.began) % 65536 * 2 ^ 48)
        c.andThen s fun u => u.physWrite u.keep (t.dumpAt + 4096 + 12582912 + (t.starts + r.2) % 2 ^ bits (t.block.getD 4 0) 0 5 * 16)
          (wordBytes w ++ wordBytes r.1.2) []) s.keep
      let c := put c { t with rows := rows.drop (rows.length - 65536), stop := stop, starts := t.starts + t.bound.length }
      if stop = some now then c.soon .traceDump { a := die, b := t.armedAt } else c
/-- The window goes to the dump area, oldest row first, and then its header. Arg: die, cycle of its arming. -/
def execTraceDump (s : State) : Out :=
  let g := s.dev.arg
  s.occur <| match s.dev.traces.find g.a with
  | none => s.keep
  | some t =>
    if t.state ≠ 2 ∨ t.armedAt ≠ g.b then s.keep
    else
      let first := (t.rows.headD (0, [])).1
      let head := natBytes 8 first ++ natBytes 8 t.rows.length ++ natBytes 8 t.starts ++ List.replicate 40 0
      let c := s.dumpWrite s.keep (t.dumpAt + 4096) (t.rows.flatMap fun r => r.2.map fun n => BitVec.ofNat 8 n)
      let c := s.dumpWrite c t.dumpAt head
      c.dv fun d => { d with traces := d.traces.set g.a { t with state := 3, rows := [] } }

/-! ## Thyme (R418) -/

/-- A record enters the ring. Weir has drained each half before the other is full; while it is suspended, a record that would overwrite
one that is not drained is dropped and counted (R418, R421). -/
def Change.thymeRecord (c : Change) (p state delta : Nat) : Change :=
  let full := decide (2048 ≤ (c.dev.cores.get {} p).thyme.length)
  if full && decide (0 < c.dev.power.actions) then c.count p 43
  else c.core p fun k => { k with thyme := (if full then k.thyme.drop 1024 else k.thyme) ++ [BitVec.ofNat 64 (state * 16384 + delta)] }
/-- A run has gone 16,384 cycles without a record, or has ended with the cycle before the last. Arg: core, the state in the last
cycle. -/
def execThyme (s : State) : Out :=
  let p := s.dev.arg.a
  let k := s.core p
  let ended := decide (s.dev.arg.b ≠ k.thymeState)
  let len := (if ended then s.dev.now - 1 else s.dev.now) - k.thymeFrom
  let c := (List.range (len / 16384)).foldl (fun c _ => c.thymeRecord p k.thymeState 0) s.keep
  s.occur (
    if ended then
      (if len % 16384 = 0 then c else c.thymeRecord p k.thymeState (len % 16384)).core p fun k => { k with
        thymeState := s.dev.arg.b, thymeFrom := s.dev.now - 1 }
    else c.core p fun k => { k with thymeFrom := k.thymeFrom + len / 16384 * 16384 })

/-! ## Aging (R230) -/

/-- A context that has been ready for another 1,024 cycles is raised one class. Arg: core, slot. -/
def execAgeRaise (s : State) : Out :=
  let g := s.dev.arg
  s.occur (if (s.ctx g.a g.b).age = 0 then s.keep else s.keep.ctx g.a g.b fun x => { x with raised := x.raised + 1 })

end Sys2Proof.Machine
end

