-- ==== Sys2Proof/Machine/WideAcc.lean ====
section
/-!
DEFINITION. The wide accumulators (R84, R85, R142 to R144).
-/

namespace Sys2Proof.Machine

/-- What every wide-accumulator instruction checks (R126, R128, R142): it blocks under speculation and while the adder works
for another context, and in a harvest context traps at once with 0x041, whatever its source is. (DESIGN CHOICE, log entry 116.) -/
def State.accIssue (s : State) (n : BitVec 3) (fp : Foot) (wait : Option Wait) (trap : Option Trap) (c : Change) : Out :=
  s.issue fp
    (if s.harvest then none
     else if s.speculative then some .spec
     else if s.my.accSlot ≠ s.slot ∧ s.dev.now < s.my.accUntil then some .accum
     else wait) <|
    if s.harvest then .error (s.trapHere 0x041 (BitVec.ofNat 64 n.toNat))
    else match trap with
    | some t => .error t
    | none => .ok c
/-- The value of an accumulator. -/
def State.wide (s : State) (n : BitVec 3) : Wide := s.my.wide.get {} n.toNat
def Change.setWide (c : Change) (n : BitVec 3) (w : Wide) : Change := c.mine fun k => { k with wide := k.wide.set n.toNat w }

def execAccz (d : BitVec 3) (s : State) : Out := s.accIssue d {} none none (s.keep.setWide d {})

/-- Add terms in order: the accumulator after, and the sum of the spans (R143). -/
def wideSum (w : Wide) (ts : List Num) : Wide × Nat :=
  ts.foldl (fun acc t => let (v, n) := wideAdd acc.1 t; (v, acc.2 + n)) (w, 0)
/-- An addition holds the context and the adder for the sum of its spans (R25, R143). -/
def State.accAdd (s : State) (c : Change) (d : BitVec 3) (neg : Bool) (ts : List Num) : Change :=
  let (w, n) := wideSum (s.wide d) (if neg then ts.map Num.neg else ts)
  let until_ := s.dev.now + n
  ((c.setWide d w).mine fun k => { k with accUntil := until_, accSlot := s.slot }).me fun x =>
    { x with holds := x.holds ++ [.until_ until_] }
def execAccw (d : BitVec 3) (a : Reg) (n : Bool) (s : State) : Out :=
  s.accIssue d { src := s.srcW a } none none (s.accAdd s.keep d n [f32 (s.w a).toNat])
def execAccwMul (d : BitVec 3) (a x : Reg) (n : Bool) (s : State) : Out :=
  s.accIssue d { src := s.srcW a ++ s.srcW x } none none
    (s.accAdd s.keep d n [Num.mul (f32 (s.w a).toNat) (f32 (s.w x).toNat)])
def execAccwv (d : BitVec 3) (a : Reg) (n : Bool) (s : State) : Out :=
  s.accIssue d { src := (s.vsrc a).words } (s.queueWait [a] none) (s.srcTrap [a] none)
    (s.accAdd (s.popAll s.keep [a]) d n ((lanesOf 32 (s.vsrc a).val).map f32))
def execAccwvMul (d : BitVec 3) (a x : Reg) (n : Bool) (s : State) : Out :=
  s.accIssue d { src := (s.vsrc a).words ++ (s.vsrc x).words } (s.queueWait [a, x] none) (s.srcTrap [a, x] none)
    (s.accAdd (s.popAll s.keep [a, x]) d n
      ((List.range 64).map fun k => Num.mul (f32 (lane 32 (s.vsrc a).val k)) (f32 (lane 32 (s.vsrc x).val k))))

def execAccrd (d : Reg) (a : BitVec 3) (c : Rnd) (s : State) : Out :=
  s.accIssue a { dst := s.dstW d } none none
    (s.seeded (s.setW s.keep 3 d (BitVec.ofNat 64 (wideRead (s.wide a) c (s.draw c 1 0)))) c 1)
def execAccrw (d : Reg) (a : BitVec 3) (j : Reg) (s : State) : Out :=
  s.accIssue a { dst := s.dstW d } none none (s.setW s.keep 1 d ((s.wide a).v.extractLsb' (64 * j.toNat) 64))
def execAccrwX (d : Reg) (a : BitVec 3) (s : State) : Out :=
  s.accIssue a { dst := s.dstW d } none none (s.setW s.keep 1 d ((s.wide a).x.setWidth 64))
/-- Replace word j of an accumulator. -/
def setWideWord (v : BitVec 640) (j : Nat) (x : Word) : BitVec 640 :=
  (v &&& ~~~((BitVec.allOnes 64).setWidth 640 <<< (64 * j))) ||| (x.setWidth 640 <<< (64 * j))
def execAccrwSt (t : Reg) (a : BitVec 3) (j : Reg) (s : State) : Out :=
  s.accIssue a { src := s.srcW t } none none
    (s.keep.setWide a { s.wide a with v := setWideWord (s.wide a).v j.toNat (s.w t) })
/-- The trap of an instruction word whose operand values are refused (R29, R30): the word stands in `dev.cur`. -/
def execAccrwStx (t : Reg) (a : BitVec 3) (s : State) : Out :=
  s.accIssue a { src := s.srcW t } none
    (if (s.w t).toNat < 4 then none else some (s.illegal 3)) (s.keep.setWide a { s.wide a with x := (s.w t).setWidth 2 })

end Sys2Proof.Machine
end

