-- ==== Sys2Proof/Machine/Dispatch.lean ====
section
/-!
DEFINITION. One arm for every constructor of `Instr`: each calls the meaning of its instruction or event.
-/

namespace Sys2Proof.Machine

/-- The meaning of an instruction for the context that the state names, or of an event with the particulars that the state
names. -/
def exec (i : Instr) (s : State) : Host.Outcome State Fault Refusal :=
  match i with
  | .br im => Sys2Proof.Machine.execBr im s
  | .brp a im => Sys2Proof.Machine.execBrp a im s
  | .brz a im => Sys2Proof.Machine.execBrz a im s
  | .bnz a im => Sys2Proof.Machine.execBnz a im s
  | .bri a => Sys2Proof.Machine.execBri a s
  | .call a im => Sys2Proof.Machine.execCall a im s
  | .calli d a => Sys2Proof.Machine.execCalli d a s
  | .ret a => Sys2Proof.Machine.execRet a s
  | .loop a im => Sys2Proof.Machine.execLoop a im s
  | .lexit im => Sys2Proof.Machine.execLexit im s
  | .yield k => Sys2Proof.Machine.execYield k s
  | .start d a b p => Sys2Proof.Machine.execStart d a b p s
  | .join a => Sys2Proof.Machine.execJoin a s
  | .spawn d a b => Sys2Proof.Machine.execSpawn d a b s
  | .trap k => Sys2Proof.Machine.execTrap k s
  | .bkpt k => Sys2Proof.Machine.execBkpt k s
  | .evrd d => Sys2Proof.Machine.execEvrd d s
  | .evrdPeek d => Sys2Proof.Machine.execEvrdPeek d s
  | .send n a b => Sys2Proof.Machine.execSend n a b s
  | .sendv n a b => Sys2Proof.Machine.execSendv n a b s
  | .recv d k => Sys2Proof.Machine.execRecv d k s
  | .recvv d k => Sys2Proof.Machine.execRecvv d k s
  | .hset d k => Sys2Proof.Machine.execHset d k s
  | .hmaskOn k => Sys2Proof.Machine.execHmaskOn k s
  | .hmaskOff k => Sys2Proof.Machine.execHmaskOff k s
  | .ld d a m z o => Sys2Proof.Machine.execLd d a m z o s
  | .ldSx d a m z o => Sys2Proof.Machine.execLdSx d a m z o s
  | .st d a m z o => Sys2Proof.Machine.execSt d a m z o s
  | .vld d a m o => Sys2Proof.Machine.execVld d a m o s
  | .vst d a m o => Sys2Proof.Machine.execVst d a m o s
  | .vlds d a b e m => Sys2Proof.Machine.execVlds d a b e m s
  | .vsts d a b e m => Sys2Proof.Machine.execVsts d a b e m s
  | .vldx d a b e m => Sys2Proof.Machine.execVldx d a b e m s
  | .vstx d a b e m => Sys2Proof.Machine.execVstx d a b e m s
  | .ldfTake d a o => Sys2Proof.Machine.execLdfTake d a o s
  | .ldfKeep d a o => Sys2Proof.Machine.execLdfKeep d a o s
  | .ste d a m o => Sys2Proof.Machine.execSte d a m o s
  | .tags a b => Sys2Proof.Machine.execTags a b s
  | .tagsV a b => Sys2Proof.Machine.execTagsV a b s
  | .tagr d a => Sys2Proof.Machine.execTagr d a s
  | .tagrV d a => Sys2Proof.Machine.execTagrV d a s
  | .bread n a b m => Sys2Proof.Machine.execBread n a b m s
  | .fence c => Sys2Proof.Machine.execFence c s
  | .rel c => Sys2Proof.Machine.execRel c s
  | .acq c => Sys2Proof.Machine.execAcq c s
  | .town n => Sys2Proof.Machine.execTown n s
  | .townKeep n => Sys2Proof.Machine.execTownKeep n s
  | .tfree n => Sys2Proof.Machine.execTfree n s
  | .tseek n im => Sys2Proof.Machine.execTseek n im s
  | .tseekReg a n => Sys2Proof.Machine.execTseekReg a n s
  | .tstep n im => Sys2Proof.Machine.execTstep n im s
  | .tstepReg a n => Sys2Proof.Machine.execTstepReg a n s
  | .trew n => Sys2Proof.Machine.execTrew n s
  | .trd d n p => Sys2Proof.Machine.execTrd d n p s
  | .trds d n im p => Sys2Proof.Machine.execTrds d n im p s
  | .twr d n p => Sys2Proof.Machine.execTwr d n p s
  | .twrs d n im p => Sys2Proof.Machine.execTwrs d n im p s
  | .twait n => Sys2Proof.Machine.execTwait n s
  | .thead d n => Sys2Proof.Machine.execThead d n s
  | .talign n => Sys2Proof.Machine.execTalign n s
  | .tshare n => Sys2Proof.Machine.execTshare n s
  | .tshareOff n => Sys2Proof.Machine.execTshareOff n s
  | .invoke d a b v => Sys2Proof.Machine.execInvoke d a b v s
  | .invokeRetry d a b v => Sys2Proof.Machine.execInvokeRetry d a b v s
  | .hgrant a => Sys2Proof.Machine.execHgrant a s
  | .qw d => Sys2Proof.Machine.execQw d s
  | .qwv d c => Sys2Proof.Machine.execQwv d c s
  | .qr d => Sys2Proof.Machine.execQr d s
  | .qrv d => Sys2Proof.Machine.execQrv d s
  | .qst d n => Sys2Proof.Machine.execQst d n s
  | .mlease d n im => Sys2Proof.Machine.execMlease d n im s
  | .mfree n => Sys2Proof.Machine.execMfree n s
  | .mma d a b => Sys2Proof.Machine.execMma d a b s
  | .xld a => Sys2Proof.Machine.execXld a s
  | .xwait d a => Sys2Proof.Machine.execXwait d a s
  | .xcan a => Sys2Proof.Machine.execXcan a s
  | .xst a => Sys2Proof.Machine.execXst a s
  | .bars im => Sys2Proof.Machine.execBars im s
  | .barw im => Sys2Proof.Machine.execBarw im s
  | .bari a im => Sys2Proof.Machine.execBari a im s
  | .specq d im => Sys2Proof.Machine.execSpecq d im s
  | .specqSelf d => Sys2Proof.Machine.execSpecqSelf d s
  | .tsnow d => Sys2Proof.Machine.execTsnow d s
  | .tsnowHz d => Sys2Proof.Machine.execTsnowHz d s
  | .mtc d k => Sys2Proof.Machine.execMtc d k s
  | .mfc d k => Sys2Proof.Machine.execMfc d k s
  | .xgo d => Sys2Proof.Machine.execXgo d s
  | .setwp a => Sys2Proof.Machine.execSetwp a s
  | .csave a k => Sys2Proof.Machine.execCsave a k s
  | .crest a k => Sys2Proof.Machine.execCrest a k s
  | .ctxkStop k => Sys2Proof.Machine.execCtxkStop k s
  | .ctxkGo k => Sys2Proof.Machine.execCtxkGo k s
  | .ctxkKill k => Sys2Proof.Machine.execCtxkKill k s
  | .halt c => Sys2Proof.Machine.execHalt c s
  | .haltBounce c => Sys2Proof.Machine.execHaltBounce c s
  | .haltOff c => Sys2Proof.Machine.execHaltOff c s
  | .scan d => Sys2Proof.Machine.execScan d s
  | .cmap a => Sys2Proof.Machine.execCmap a s
  | .stinvPage a k => Sys2Proof.Machine.execStinvPage a k s
  | .stinvPid a k => Sys2Proof.Machine.execStinvPid a k s
  | .stinvAll k => Sys2Proof.Machine.execStinvAll k s
  | .keyld a k => Sys2Proof.Machine.execKeyld a k s
  | .keyldClr k => Sys2Proof.Machine.execKeyldClr k s
  | .perfqSum d c e => Sys2Proof.Machine.execPerfqSum d c e s
  | .perfqMin d c e => Sys2Proof.Machine.execPerfqMin d c e s
  | .perfqMax d c e => Sys2Proof.Machine.execPerfqMax d c e s
  | .trarm a => Sys2Proof.Machine.execTrarm a s
  | .add d a b => Sys2Proof.Machine.execAdd d a b s
  | .sub d a b => Sys2Proof.Machine.execSub d a b s
  | .and d a b => Sys2Proof.Machine.execAnd d a b s
  | .or d a b => Sys2Proof.Machine.execOr d a b s
  | .xor d a b => Sys2Proof.Machine.execXor d a b s
  | .andn d a b => Sys2Proof.Machine.execAndn d a b s
  | .shl d a b => Sys2Proof.Machine.execShl d a b s
  | .shr d a b => Sys2Proof.Machine.execShr d a b s
  | .sra d a b => Sys2Proof.Machine.execSra d a b s
  | .rot d a b => Sys2Proof.Machine.execRot d a b s
  | .min d a b => Sys2Proof.Machine.execMin d a b s
  | .max d a b => Sys2Proof.Machine.execMax d a b s
  | .minu d a b => Sys2Proof.Machine.execMinu d a b s
  | .maxu d a b => Sys2Proof.Machine.execMaxu d a b s
  | .addsat d a b => Sys2Proof.Machine.execAddsat d a b s
  | .subsat d a b => Sys2Proof.Machine.execSubsat d a b s
  | .mov d a => Sys2Proof.Machine.execMov d a s
  | .abs d a => Sys2Proof.Machine.execAbs d a s
  | .clz d a => Sys2Proof.Machine.execClz d a s
  | .ctz d a => Sys2Proof.Machine.execCtz d a s
  | .popc d a => Sys2Proof.Machine.execPopc d a s
  | .sext d a w => Sys2Proof.Machine.execSext d a w s
  | .zext d a w => Sys2Proof.Machine.execZext d a w s
  | .mul d a b => Sys2Proof.Machine.execMul d a b s
  | .mulh d a b => Sys2Proof.Machine.execMulh d a b s
  | .mulhu d a b => Sys2Proof.Machine.execMulhu d a b s
  | .div d a b => Sys2Proof.Machine.execDiv d a b s
  | .divu d a b => Sys2Proof.Machine.execDivu d a b s
  | .rem d a b => Sys2Proof.Machine.execRem d a b s
  | .remu d a b => Sys2Proof.Machine.execRemu d a b s
  | .sel d a b p => Sys2Proof.Machine.execSel d a b p s
  | .bfx d a b => Sys2Proof.Machine.execBfx d a b s
  | .bfxSx d a b => Sys2Proof.Machine.execBfxSx d a b s
  | .bfi d a b => Sys2Proof.Machine.execBfi d a b s
  | .adds d a b h => Sys2Proof.Machine.execAdds d a b h s
  | .widx d a im => Sys2Proof.Machine.execWidx d a im s
  | .addImm d a im => Sys2Proof.Machine.execAddImm d a im s
  | .andImm d a im => Sys2Proof.Machine.execAndImm d a im s
  | .orImm d a im => Sys2Proof.Machine.execOrImm d a im s
  | .xorImm d a im => Sys2Proof.Machine.execXorImm d a im s
  | .shlImm d a im => Sys2Proof.Machine.execShlImm d a im s
  | .shrImm d a im => Sys2Proof.Machine.execShrImm d a im s
  | .sraImm d a im => Sys2Proof.Machine.execSraImm d a im s
  | .rotImm d a im => Sys2Proof.Machine.execRotImm d a im s
  | .minImm d a im => Sys2Proof.Machine.execMinImm d a im s
  | .maxImm d a im => Sys2Proof.Machine.execMaxImm d a im s
  | .mulImm d a im => Sys2Proof.Machine.execMulImm d a im s
  | .movi d im => Sys2Proof.Machine.execMovi d im s
  | .movh d im => Sys2Proof.Machine.execMovh d im s
  | .cmp d a b c => Sys2Proof.Machine.execCmp d a b c s
  | .pand d a b => Sys2Proof.Machine.execPand d a b s
  | .por d a b => Sys2Proof.Machine.execPor d a b s
  | .pxor d a b => Sys2Proof.Machine.execPxor d a b s
  | .pnot d a => Sys2Proof.Machine.execPnot d a s
  | .pmov d a => Sys2Proof.Machine.execPmov d a s
  | .fadd d a b => Sys2Proof.Machine.execFadd d a b s
  | .fsub d a b => Sys2Proof.Machine.execFsub d a b s
  | .fmul d a b => Sys2Proof.Machine.execFmul d a b s
  | .ffma d a b => Sys2Proof.Machine.execFfma d a b s
  | .fmin d a b => Sys2Proof.Machine.execFmin d a b s
  | .fmax d a b => Sys2Proof.Machine.execFmax d a b s
  | .fabs d a => Sys2Proof.Machine.execFabs d a s
  | .fneg d a => Sys2Proof.Machine.execFneg d a s
  | .fdiv d a b => Sys2Proof.Machine.execFdiv d a b s
  | .fsqrt d a => Sys2Proof.Machine.execFsqrt d a s
  | .fclass d a => Sys2Proof.Machine.execFclass d a s
  | .fcmp d a b c => Sys2Proof.Machine.execFcmp d a b c s
  | .fcvt d a x c r => Sys2Proof.Machine.execFcvt d a x c r s
  | .vadd d a b m e => Sys2Proof.Machine.execVadd d a b m e s
  | .vsub d a b m e => Sys2Proof.Machine.execVsub d a b m e s
  | .vmul d a b m e => Sys2Proof.Machine.execVmul d a b m e s
  | .vmulhI d a b m e => Sys2Proof.Machine.execVmulhI d a b m e s
  | .vmulhN d a b m e => Sys2Proof.Machine.execVmulhN d a b m e s
  | .vmacI d a b m g => Sys2Proof.Machine.execVmacI d a b m g s
  | .vmacN d a b m g => Sys2Proof.Machine.execVmacN d a b m g s
  | .vdotI d a b m => Sys2Proof.Machine.execVdotI d a b m s
  | .vdotN d a b m => Sys2Proof.Machine.execVdotN d a b m s
  | .vand d a b m e => Sys2Proof.Machine.execVand d a b m e s
  | .vor d a b m e => Sys2Proof.Machine.execVor d a b m e s
  | .vxor d a b m e => Sys2Proof.Machine.execVxor d a b m e s
  | .vshl d a b m e => Sys2Proof.Machine.execVshl d a b m e s
  | .vshr d a b m e => Sys2Proof.Machine.execVshr d a b m e s
  | .vsra d a b m e => Sys2Proof.Machine.execVsra d a b m e s
  | .vminI d a b m e => Sys2Proof.Machine.execVminI d a b m e s
  | .vminN d a b m e => Sys2Proof.Machine.execVminN d a b m e s
  | .vmaxI d a b m e => Sys2Proof.Machine.execVmaxI d a b m e s
  | .vmaxN d a b m e => Sys2Proof.Machine.execVmaxN d a b m e s
  | .vabs d a m e => Sys2Proof.Machine.execVabs d a m e s
  | .vaddsatI d a b m e => Sys2Proof.Machine.execVaddsatI d a b m e s
  | .vaddsatN d a b m e => Sys2Proof.Machine.execVaddsatN d a b m e s
  | .vsubsatI d a b m e => Sys2Proof.Machine.execVsubsatI d a b m e s
  | .vsubsatN d a b m e => Sys2Proof.Machine.execVsubsatN d a b m e s
  | .vrshrI d a b m e => Sys2Proof.Machine.execVrshrI d a b m e s
  | .vrshrN d a b m e => Sys2Proof.Machine.execVrshrN d a b m e s
  | .vclampI d a b m e => Sys2Proof.Machine.execVclampI d a b m e s
  | .vclampN d a b m e => Sys2Proof.Machine.execVclampN d a b m e s
  | .vcmpI d a x c e => Sys2Proof.Machine.execVcmpI d a x c e s
  | .vcmpN d a x c e => Sys2Proof.Machine.execVcmpN d a x c e s
  | .vfadd d a b m => Sys2Proof.Machine.execVfadd d a b m s
  | .vfsub d a b m => Sys2Proof.Machine.execVfsub d a b m s
  | .vfmul d a b m => Sys2Proof.Machine.execVfmul d a b m s
  | .vffma d a b m => Sys2Proof.Machine.execVffma d a b m s
  | .vfmin d a b m => Sys2Proof.Machine.execVfmin d a b m s
  | .vfmax d a b m => Sys2Proof.Machine.execVfmax d a b m s
  | .vfexp2 d a m => Sys2Proof.Machine.execVfexp2 d a m s
  | .vflog2 d a m => Sys2Proof.Machine.execVflog2 d a m s
  | .vfrcp d a m => Sys2Proof.Machine.execVfrcp d a m s
  | .vfrsq d a m => Sys2Proof.Machine.execVfrsq d a m s
  | .vmov d a m => Sys2Proof.Machine.execVmov d a m s
  | .vsplat d a m e => Sys2Proof.Machine.execVsplat d a m e s
  | .vext d a b e => Sys2Proof.Machine.execVext d a b e s
  | .vins d a b m e => Sys2Proof.Machine.execVins d a b m e s
  | .viota d a m e => Sys2Proof.Machine.execViota d a m e s
  | .vperm d a b m e => Sys2Proof.Machine.execVperm d a b m e s
  | .vrot d a b m e => Sys2Proof.Machine.execVrot d a b m e s
  | .vslide d a b m e => Sys2Proof.Machine.execVslide d a b m e s
  | .vpack d a b m e => Sys2Proof.Machine.execVpack d a b m e s
  | .vunpk d a u h m e => Sys2Proof.Machine.execVunpk d a u h m e s
  | .vred d a o m e => Sys2Proof.Machine.execVred d a o m e s
  | .vsel d a b m => Sys2Proof.Machine.execVsel d a b m s
  | .mand d a b => Sys2Proof.Machine.execMand d a b s
  | .mor d a b => Sys2Proof.Machine.execMor d a b s
  | .mxor d a b => Sys2Proof.Machine.execMxor d a b s
  | .mnot d a => Sys2Proof.Machine.execMnot d a s
  | .mpop d a => Sys2Proof.Machine.execMpop d a s
  | .vcvt d a x c w r => Sys2Proof.Machine.execVcvt d a x c w r s
  | .vcvts d a x c r => Sys2Proof.Machine.execVcvts d a x c r s
  | .accz d => Sys2Proof.Machine.execAccz d s
  | .accw d a n => Sys2Proof.Machine.execAccw d a n s
  | .accwMul d a x n => Sys2Proof.Machine.execAccwMul d a x n s
  | .accwv d a n => Sys2Proof.Machine.execAccwv d a n s
  | .accwvMul d a x n => Sys2Proof.Machine.execAccwvMul d a x n s
  | .accrd d a c => Sys2Proof.Machine.execAccrd d a c s
  | .accrw d a j => Sys2Proof.Machine.execAccrw d a j s
  | .accrwX d a => Sys2Proof.Machine.execAccrwX d a s
  | .accrwSt t a j => Sys2Proof.Machine.execAccrwSt t a j s
  | .accrwStx t a => Sys2Proof.Machine.execAccrwStx t a s
  | .nop => Sys2Proof.Machine.execNop s
  | .done => Sys2Proof.Machine.execDone s
  | .openAct => Sys2Proof.Machine.execOpenAct s
  | .hrevoke => Sys2Proof.Machine.execHrevoke s
  | .mset => Sys2Proof.Machine.execMset s
  | .eret => Sys2Proof.Machine.execEret s
  | .trarmOff => Sys2Proof.Machine.execTrarmOff s
  | .trarmStop => Sys2Proof.Machine.execTrarmStop s
  | .amoAdd d a b c => Sys2Proof.Machine.execAmoAdd d a b c s
  | .amoAnd d a b c => Sys2Proof.Machine.execAmoAnd d a b c s
  | .amoOr d a b c => Sys2Proof.Machine.execAmoOr d a b c s
  | .amoXor d a b c => Sys2Proof.Machine.execAmoXor d a b c s
  | .amoMin d a b c => Sys2Proof.Machine.execAmoMin d a b c s
  | .amoMax d a b c => Sys2Proof.Machine.execAmoMax d a b c s
  | .amoMinu d a b c => Sys2Proof.Machine.execAmoMinu d a b c s
  | .amoMaxu d a b c => Sys2Proof.Machine.execAmoMaxu d a b c s
  | .cas d a b c => Sys2Proof.Machine.execCas d a b c s
  | .casXchg d a b c => Sys2Proof.Machine.execCasXchg d a b c s
  | .famoFadd d a b c => Sys2Proof.Machine.execFamoFadd d a b c s
  | .famoFmin d a b c => Sys2Proof.Machine.execFamoFmin d a b c s
  | .famoFmax d a b c => Sys2Proof.Machine.execFamoFmax d a b c s
  | .rrot d a b => Sys2Proof.Machine.execRrot d a b s
  | .grprd d a => Sys2Proof.Machine.execGrprd d a s
  | .task a b => Sys2Proof.Machine.execTask a b s
  | .glaunch d a => Sys2Proof.Machine.execGlaunch d a s
  | .gdone a => Sys2Proof.Machine.execGdone a s
  | .boot => Sys2Proof.Machine.execBoot s
  | .attestation => Sys2Proof.Machine.execAttestation s
  | .launchRecord => Sys2Proof.Machine.execLaunchRecord s
  | .launchStart => Sys2Proof.Machine.execLaunchStart s
  | .wake => Sys2Proof.Machine.execWake s
  | .launchEnd => Sys2Proof.Machine.execLaunchEnd s
  | .commitHorizon => Sys2Proof.Machine.execCommitHorizon s
  | .messageAccept => Sys2Proof.Machine.execMessageAccept s
  | .sendRetry => Sys2Proof.Machine.execSendRetry s
  | .helperBinding => Sys2Proof.Machine.execHelperBinding s
  | .controlBinding => Sys2Proof.Machine.execControlBinding s
  | .spawnBounce => Sys2Proof.Machine.execSpawnBounce s
  | .fill => Sys2Proof.Machine.execFill s
  | .deposit => Sys2Proof.Machine.execDeposit s
  | .arrivingAccess => Sys2Proof.Machine.execArrivingAccess s
  | .atomicExecution => Sys2Proof.Machine.execAtomicExecution s
  | .release => Sys2Proof.Machine.execRelease s
  | .scopeMiss => Sys2Proof.Machine.execScopeMiss s
  | .towpathDelivery => Sys2Proof.Machine.execTowpathDelivery s
  | .trackShift => Sys2Proof.Machine.execTrackShift s
  | .reverify => Sys2Proof.Machine.execReverify s
  | .autoRealign => Sys2Proof.Machine.execAutoRealign s
  | .weirStep => Sys2Proof.Machine.execWeirStep s
  | .checkpoint => Sys2Proof.Machine.execCheckpoint s
  | .abort => Sys2Proof.Machine.execAbort s
  | .commit => Sys2Proof.Machine.execCommit s
  | .trackedRead => Sys2Proof.Machine.execTrackedRead s
  | .trapDelivery => Sys2Proof.Machine.execTrapDelivery s
  | .impreciseEffectFault => Sys2Proof.Machine.execImpreciseEffectFault s
  | .launchFault => Sys2Proof.Machine.execLaunchFault s
  | .copyStart => Sys2Proof.Machine.execCopyStart s
  | .rangeLockRegister => Sys2Proof.Machine.execRangeLockRegister s
  | .copyRequest => Sys2Proof.Machine.execCopyRequest s
  | .copyWrite => Sys2Proof.Machine.execCopyWrite s
  | .copyCompletion => Sys2Proof.Machine.execCopyCompletion s
  | .leaseGrant => Sys2Proof.Machine.execLeaseGrant s
  | .leaseTimeout => Sys2Proof.Machine.execLeaseTimeout s
  | .resultDiscard => Sys2Proof.Machine.execResultDiscard s
  | .arrayPush => Sys2Proof.Machine.execArrayPush s
  | .msetAtArray => Sys2Proof.Machine.execMsetAtArray s
  | .mfreeAtArray => Sys2Proof.Machine.execMfreeAtArray s
  | .commandStart => Sys2Proof.Machine.execCommandStart s
  | .chunkRow => Sys2Proof.Machine.execChunkRow s
  | .resultVector => Sys2Proof.Machine.execResultVector s
  | .rotation => Sys2Proof.Machine.execRotation s
  | .rotationEnd => Sys2Proof.Machine.execRotationEnd s
  | .translation => Sys2Proof.Machine.execTranslation s
  | .walk => Sys2Proof.Machine.execWalk s
  | .taskEntry => Sys2Proof.Machine.execTaskEntry s
  | .cancelNotice => Sys2Proof.Machine.execCancelNotice s
  | .releaseNotice => Sys2Proof.Machine.execReleaseNotice s
  | .graphInstance => Sys2Proof.Machine.execGraphInstance s
  | .nodeDone => Sys2Proof.Machine.execNodeDone s
  | .preEmption => Sys2Proof.Machine.execPreEmption s
  | .restore => Sys2Proof.Machine.execRestore s
  | .revocation => Sys2Proof.Machine.execRevocation s
  | .harvestBinding => Sys2Proof.Machine.execHarvestBinding s
  | .invocationPacket => Sys2Proof.Machine.execInvocationPacket s
  | .packetDrain => Sys2Proof.Machine.execPacketDrain s
  | .invocationReply => Sys2Proof.Machine.execInvocationReply s
  | .nack => Sys2Proof.Machine.execNack s
  | .replyTimeout => Sys2Proof.Machine.execReplyTimeout s
  | .retryWait => Sys2Proof.Machine.execRetryWait s
  | .heartbeat => Sys2Proof.Machine.execHeartbeat s
  | .heartbeatArrival => Sys2Proof.Machine.execHeartbeatArrival s
  | .suspect => Sys2Proof.Machine.execSuspect s
  | .failed => Sys2Proof.Machine.execFailed s
  | .remap => Sys2Proof.Machine.execRemap s
  | .remapApply => Sys2Proof.Machine.execRemapApply s
  | .frame => Sys2Proof.Machine.execFrame s
  | .hostInvocation => Sys2Proof.Machine.execHostInvocation s
  | .rdmaWrite => Sys2Proof.Machine.execRdmaWrite s
  | .rdmaRead => Sys2Proof.Machine.execRdmaRead s
  | .managementMessage => Sys2Proof.Machine.execManagementMessage s
  | .powerStepCommand => Sys2Proof.Machine.execPowerStepCommand s
  | .preemptCommand => Sys2Proof.Machine.execPreemptCommand s
  | .tenantTableWrite => Sys2Proof.Machine.execTenantTableWrite s
  | .invocationTableWrite => Sys2Proof.Machine.execInvocationTableWrite s
  | .rankMapWrite => Sys2Proof.Machine.execRankMapWrite s
  | .groupTableWrite => Sys2Proof.Machine.execGroupTableWrite s
  | .statusRead => Sys2Proof.Machine.execStatusRead s
  | .firmwareStaging => Sys2Proof.Machine.execFirmwareStaging s
  | .breakpointWrite => Sys2Proof.Machine.execBreakpointWrite s
  | .dump => Sys2Proof.Machine.execDump s
  | .launchRestore => Sys2Proof.Machine.execLaunchRestore s
  | .weirCap => Sys2Proof.Machine.execWeirCap s
  | .rampRate => Sys2Proof.Machine.execRampRate s
  | .pstepSample => Sys2Proof.Machine.execPstepSample s
  | .powerEstimate => Sys2Proof.Machine.execPowerEstimate s
  | .weirPeriod => Sys2Proof.Machine.execWeirPeriod s
  | .pfail => Sys2Proof.Machine.execPfail s
  | .drain => Sys2Proof.Machine.execDrain s
  | .deviceRecord => Sys2Proof.Machine.execDeviceRecord s
  | .powerDown => Sys2Proof.Machine.execPowerDown s
  | .traceTrigger => Sys2Proof.Machine.execTraceTrigger s
  | .traceDump => Sys2Proof.Machine.execTraceDump s
  | .thyme => Sys2Proof.Machine.execThyme s
  | .haltRequest => Sys2Proof.Machine.execHaltRequest s
  | .halted => Sys2Proof.Machine.execHalted s
  | .ageRaise => Sys2Proof.Machine.execAgeRaise s
  | .yieldExpiry => Sys2Proof.Machine.execYieldExpiry s
  | .scanComplete => Sys2Proof.Machine.execScanComplete s
  | .perfqResult => Sys2Proof.Machine.execPerfqResult s
  | .illegalEncoding => Sys2Proof.Machine.execIllegalEncoding s
  | .fetchFault => Sys2Proof.Machine.execFetchFault s
  | .powerReturn => Sys2Proof.Machine.execPowerReturn s
  | .patrolScrub => Sys2Proof.Machine.execPatrolScrub s
  | .serdesRetraining => Sys2Proof.Machine.execSerdesRetraining s

end Sys2Proof.Machine
end

