-- ==== Sys2Proof/Machine/Issue.lean ====
section
/-!
DEFINITION. A cycle of the machine: presenting a context's group (R18 to R31), issue selection and aging (R225 to R230), what
follows a group that has issued (R24, R96), and the passage to the next cycle.
-/

namespace Sys2Proof.Machine

/-! ## Running decoded instructions -/

/-- The meaning of a decoded instruction. -/
def execDecoded (d : Decoded) (s : State) : Host.Outcome State Fault Refusal :=
  match d with
  | .plain i => exec i s
  | .late l => match l with
    | .amoAdd d a b c => Sys2Proof.Machine.execAmoAdd d a b c s
    | .amoAnd d a b c => Sys2Proof.Machine.execAmoAnd d a b c s
    | .amoOr d a b c => Sys2Proof.Machine.execAmoOr d a b c s
    | .amoXor d a b c => Sys2Proof.Machine.execAmoXor d a b c s
    | .amoMin d a b c => Sys2Proof.Machine.execAmoMin d a b c s
    | .amoMax d a b c => Sys2Proof.Machine.execAmoMax d a b c s
    | .amoMinu d a b c => Sys2Proof.Machine.execAmoMinu d a b c s
    | .amoMaxu d a b c => Sys2Proof.Machine.execAmoMaxu d a b c s
    | .cas d a b c => Sys2Proof.Machine.execCas d a b c s
    | .casXchg d a b c => Sys2Proof.Machine.execCasXchg d a b c s
    | .famoFadd d a b c => Sys2Proof.Machine.execFamoFadd d a b c s
    | .famoFmin d a b c => Sys2Proof.Machine.execFamoFmin d a b c s
    | .famoFmax d a b c => Sys2Proof.Machine.execFamoFmax d a b c s
    | .rrot d a b => Sys2Proof.Machine.execRrot d a b s
    | .grprd d a => Sys2Proof.Machine.execGrprd d a s
    | .task a b => Sys2Proof.Machine.execTask a b s
    | .glaunch d a => Sys2Proof.Machine.execGlaunch d a s
    | .gdone a => Sys2Proof.Machine.execGdone a s
/-- Run one word of the group. -/
def State.runWord (s : State) (w : Nat) (second : Bool) (d : Decoded) : State :=
  let s := { s with dev := { s.dev with cur := { s.dev.cur with word := w, second := second } } }
  match execDecoded d s with
  | .next t => t
  | _ => s.settle (.waits .other s.keep)
/-- The same state, with another account of what the group did. -/
def State.withLast (s : State) (l : Last) : State := { s with dev := { s.dev with last := l } }
def State.withSize (s : State) (n : Nat) : State := { s with dev := { s.dev with cur := { s.dev.cur with size := n } } }
/-- The word ends or opens its activation or ends its lease: the other word of its pair takes effect before it. -/
def closesAct : Decoded → Bool
  | .plain .done => true
  | .plain .openAct => true
  | .plain (.mfree _) => true
  | .plain (.rel _) => true
  | _ => false
/-- The state that the pops of a pair's first word leave, for the judgement of the second when the first is not performed (R38). -/
def State.popped (s : State) (d : Decoded) : State :=
  match d with
  | .plain (.sendv _ _ b) => s.apply (s.popAll s.keep [b])
  | .plain (.recv _ k) => (match takeWords 1 (s.my.chans.get [] k.toNat) with
    | some (_, rest, _) => s.apply (s.keep.mine fun c => { c with chans := c.chans.set k.toNat rest })
    | none => s)
  | .plain (.recvv _ k) => (match takeWords 32 (s.my.chans.get [] k.toNat) with
    | some (_, rest, _) => s.apply (s.keep.mine fun c => { c with chans := c.chans.set k.toNat rest })
    | none => s)
  | .plain (.qrv _) => s.apply (s.popResult.pop s.keep)
  | _ => s
/-- Run a pair: both read the storage and registers as they stand; both wait if either waits, and by the interlock only if nothing else
holds either (R28); a trap suppresses both, in the order of R31 (R21). (DEDUCED, log entry 8.) -/
def State.runPair (s : State) (w0 w1 : Nat) (d0 d1 : Decoded) : State :=
  let s := { s with snap := some { mem := s.mem, tags := s.tags, ctx := s.me, hold := s.my.hold, fresh := s.dev.fresh } }
  let a := s.runWord w0 false d0
  let alone := (s.popped d0).runWord w1 true d1
  match a.dev.last with
  | .waits w =>
    (match w, alone.dev.last with
      | .interlock, .waits u => a.withLast (.waits u)
      | _, _ => a)
  | .traps t =>
    if t.cause = 0x006 then a
    else (match alone.dev.last with
      | .waits u => s.withLast (.waits u)
      | .traps u => if t.cause ≠ 0x004 ∧ u.cause = 0x004 then s.withLast (.traps u) else a
      | _ => a)
  | .ran =>
    let b := if closesAct d0 then s.runWord w1 true d1 else a.runWord w1 true d1
    (match b.dev.last with
      | .waits w => s.withLast (.waits w)
      | .traps t =>
        let b := s.runWord w1 true d1
        (match b.dev.last with
          | .traps _ => b
          | _ => s.withLast (.traps t))
      | _ => if closesAct d0 then b.runWord w0 false d0 else b)
  | .starts =>
    (match alone.dev.last with
      | .waits u => s.withLast (.waits u)
      | .traps _ => alone
      | _ => a)
/-- Run a fetched group. -/
def State.perform (s : State) (f : Fetched) : State :=
  let r := match f with
    | .fault t c => s.settle (.traps t c)
    | .lone w d => s.runWord w false d
    | .pair w0 w1 d0 d1 => (s.withSize 8).runPair w0 w1 d0 d1
  { r with snap := none }

/-! ## Presenting a group -/

/-- Look at a context's group. -/
def State.focus (s : State) (p sl : Nat) : State :=
  { s with snap := none, dev := { s.dev with cur := { core := p, slot := sl, addr := (s.ctx p sl).pc } } }
/-- The breakpoint register that the group of the current context meets (R417). (DEDUCED, log entry 59.) -/
def State.breakpoint (s : State) : Option (Nat × Bool) :=
  let a := s.dev.cur.addr
  let n := a.toNat
  let two := decide (n % 8 = 0) && decide (n + 8 ≤ 0x40000) && decide (s.fetchWord s.here n 0 < 2 ^ 31)
  if s.me.stepPast = some a ∨ s.slot = 15 then none
  else match s.my.breaks.find? fun b => b.2.getLsbD 18 && b.2.getLsbD (48 + s.slot) &&
      (decide (bits b.2 0 18 = n) || (two && decide (bits b.2 0 18 = n + 4))) with
  | some b => some (b.1, two)
  | none => none
/-- The FSX check of the words that the binding placed, before the first group (R72).
(DEDUCED, log entry 13.) -/
def State.placedFsx (s : State) : Option Trap :=
  (s.act.fsxNeed.find? fun n => n.1 != s.fsx).map fun n =>
    s.trap 0x040 (BitVec.ofNat 64 n.2.1) (BitVec.ofNat 64 ((if n.1 then 256 else 0) + n.2.2))
/-- Present the group of the current context: a breakpoint first, then the fetch, then the placed words, then the group. -/
def State.attempt (s : State) : State :=
  match s.breakpoint with
  | some (i, two) =>
    s.settle (.traps (s.trapHere 0x181 (BitVec.ofNat 64 (2 ^ 17 + two.toNat * 2 ^ 16 + i))) (s.keep.count s.here 39))
  | none =>
    let f := s.fetch
    let s := if s.fetchChoice then s.apply s.keep.tick.tick else s
    match f, s.placedFsx with
    | .fault .., _ => s.perform f
    | _, some t => s.settle (.traps t s.keep)
    | _, none => s.perform f
/-- A word's stall count and class (R19). -/
def Fetched.first : Fetched → Nat
  | .lone w _ => w
  | .pair w _ _ _ => w
  | .fault _ _ => 0
def Fetched.isPair : Fetched → Bool
  | .pair .. => true
  | _ => false

/-! ## What follows a group that has issued (R24, R96) -/

/-- The group of a context has been performed: its next address, and the cycle of its next group. -/
def State.completed (s : State) (p sl act stall : Nat) : State :=
  let k := s.core p
  let x := s.ctx p sl
  if !x.live || x.act.num != act then s
  else
    let seq := s.dev.cur.addr + BitVec.ofNat 64 s.dev.cur.size
    let base := if k.accSlot = sl ∧ s.dev.now + 1 < k.accUntil then k.accUntil else s.dev.now + 1
    let x := match x.next with
      | some a => { x with pc := a, next := none }
      | none => x.loopBack s.dev.cur.addr.toNat seq
    s.apply (s.keep.ctx p sl fun _ => { x with
      stallUntil := base + stall, age := 0, raised := 0, stepPast := none, joining := none, outcome := none, wait := none
      act := { x.act with fsxNeed := [] } })

/-! ## Readiness (R228) -/

/-- A group that has issued has still to be performed, or to end what it performs: the context is at no group boundary (R204). -/
def Hold.midGroup : Hold → Bool
  | .realigned _ => true
  | .rotation => true
  | .ack _ => true
  | .elements => true
  | _ => false
/-- A wait that began when a group issued is over. -/
def State.holdOver (s : State) (p sl : Nat) : Hold → Bool
  | .until_ c _ => decide (c ≤ s.dev.now)
  | .released => !((s.core p).relq.any fun h => h.org.act == (s.ctx p sl).act.num)
  | .performed sc => s.performed p (s.ctx p sl).act.num sc
  | .performedBefore sc mark => s.performedBefore p mark sc
  | .loads => s.loadsFilled p sl
  | .elements => !((s.core p).strided.any fun t => t.store && t.org.slot == sl)
  | .barrier b e => decide ((s.barrier p b).epoch ≠ e)
  | .notices => !(s.dev.notices.any fun n => n.2.writer.core == p && n.2.writer.act == (s.ctx p sl).act.num)
  | .stopped k => (s.ctx p k).pipe.isEmpty && !(s.ctx p k).holds.any Hold.midGroup
  | .realigned _ => false
  | .ack _ => false
  | .rotation => false
  | .commit => false
  | .regrant => false
  | .rearrive _ => false
  | .copying => false
/-- A context may be looked at in this cycle. -/
def State.mayIssue (s : State) (p sl : Nat) : Bool :=
  let k := s.core p
  let x := s.ctx p sl
  x.live && !x.stopped && !x.trapped && !x.specTrap && !x.act.ended && decide (x.stallUntil ≤ s.dev.now) &&
    decide (x.yieldUntil ≤ s.dev.now) && x.holds.all (s.holdOver p sl) && !k.scanning && !k.dead && !k.failed && !(s.clu (physCluster p)).gated && !(k.frozen && decide (sl ≤ 10)) &&
    (!(decide (11 ≤ sl) && decide (sl ≤ 14)) || (match k.grant with
      | some g => decide (g.issue = 1) && (!k.revoking || decide (s.dev.now ≤ k.revokeAt))
      | none => false))

/-! ## Issue selection (R229, R230) -/

/-- The place of a context's class in the order, with its raises. -/
def Ctx.rank (x : Ctx) (sl : Nat) : Nat :=
  if sl = 15 then 0 else if sl = 0 then 1 else if 11 ≤ sl then 10 else max 1 (2 + x.act.prio % 8 - x.raised)
/-- The order in which a core looks at its contexts: by class, and within it from the slot after the last to issue; from slot 0 while none
has. (DESIGN CHOICE, log entry 136.) -/
def Core.order (k : Core) : List Nat :=
  (List.range 11).flatMap fun r =>
    let last := k.rrClass.get 15 r
    ((List.range 16).map fun i => (last + 1 + i) % 16).filter fun sl => (k.ctx sl).live && (k.ctx sl).rank sl == r
/-- A context's group waits: what it leaves, and what is counted. -/
def State.waited (s : State) (p sl : Nat) (w : Wait) : State :=
  let old := (s.ctx p sl).wait
  let c := s.keep.ctx p sl fun x => { x with
    wait := some w, stallcnt := if w = .interlock then x.stallcnt + 1 else x.stallcnt }
  s.apply (match w with
    | .interlock => c.count p 5
    | .tag => c.count p 8
    | .fill => c.count p 8
    | .channel => c.count p 9
    | .track => if old = some .track then c else c.count p 10
    | .bank => c.count p 7
    | _ => c)
/-- A ready context that does not issue grows older; harvest contexts do not. -/
def State.older (s : State) (p sl : Nat) : State :=
  if 11 ≤ sl ∧ sl ≤ 14 then s
  else
    let n := (s.ctx p sl).age + 1
    let c := s.keep.ctx p sl fun x => { x with age := n, wait := none }
    s.apply (if n % 1024 = 0 then c.sched s.dev.now .ageRaise { a := p, b := sl } else c)
/-- Look at one context; the first that is ready is selected. -/
def State.look (acc : State × Option Nat) (p sl : Nat) : State × Option Nat :=
  let (s, sel) := acc
  if !s.mayIssue p sl then (s, sel)
  else
    let r := (s.focus p sl).attempt
    match r.dev.last with
    | .waits w => (r.waited p sl w, sel)
    | _ => match sel with
      | none => (s, some sl)
      | some _ => (s.older p sl, sel)

/-- Why a context has not issued, as the trace says it (R412). (DEDUCED, log entry 56.) -/
def State.why (s : State) (p sl : Nat) : Nat :=
  let k := s.core p
  let x := s.ctx p sl
  let held (h : Hold) : Option Nat := if s.holdOver p sl h then none else some (match h with
    | .until_ _ n => n
    | .released => 11
    | .elements => 5
    | .realigned _ => 4
    | .barrier _ _ => 7
    | .rotation => 7
    | .regrant => 7
    | .rearrive _ => 7
    | .stopped _ => 10
    | .commit => 6
    | .copying => 6
    | _ => 2)
  if x.stopped || x.trapped || k.scanning || k.failed || (s.clu (physCluster p)).gated || (k.frozen && decide (sl ≤ 10)) then 10
  else if x.specTrap || x.act.ended then 6
  else match x.holds.findSome? held with
  | some n => n
  | none =>
    if k.accSlot = sl ∧ s.dev.now < k.accUntil then 8
    else if s.dev.now < x.stallUntil ∨ s.dev.now < x.yieldUntil then 1
    else match x.wait with
    | some .tag | some .fill | some .loads | some .tracker => 2
    | some .channel | some .queue | some .towpath | some .engine | some .slot => 3
    | some .track => 4
    | some .bank | some .lock => 5
    | some .spec => 6
    | some .lease | some .barrier | some .join => 7
    | some .divider | some .accum => 8
    | some .interlock => 9
    | some .hold => 11
    | _ => 1
/-- The state that a context's wait gives its core (R418): 2 a fill, a tag, a bank, a track or a lock, 1 a channel, a queue, the Towpath, a
barrier or a commit, 3 anything else. (DEDUCED, log entry 56.) -/
def State.waitState (s : State) (p sl : Nat) : Nat :=
  let k := s.core p
  let x := s.ctx p sl
  if x.stopped || x.trapped || k.scanning || k.failed || (s.clu (physCluster p)).gated || (k.frozen && decide (sl ≤ 10)) then 3
  else if x.specTrap || x.act.ended then 1
  else match x.holds.find? fun h => !s.holdOver p sl h with
  | some h => (match h with
    | .loads => 2
    | .elements => 2
    | .realigned _ => 2
    | .barrier .. => 1
    | .rearrive _ => 1
    | .commit => 1
    | _ => 3)
  | none =>
    if s.dev.now < x.stallUntil ∨ s.dev.now < x.yieldUntil then 3
    else match x.wait with
    | some .tag | some .fill | some .loads | some .bank | some .track | some .lock => 2
    | some .channel | some .queue | some .towpath | some .barrier | some .spec => 1
    | _ => 3
/-- The state of a core in a cycle in which nothing issued (R418). -/
def State.idleState (s : State) (p : Nat) : Nat :=
  let live := ((s.core p).ctxs.filter fun x => x.2.live).map fun x => s.waitState p x.1
  if live.contains 2 then 2 else if live.contains 1 then 1 else 3
/-- Nothing has issued on a core in this cycle: the reason of the control context, or else of the lowest live slot, which is 12 for one
that was selected and suppressed by a trap (R412), and the core's state. -/
def State.idleRow (s : State) (p : Nat) (trapped : Option Nat) : State :=
  let row := match ((s.core p).ctxs.filter fun x => x.2.live).head? with
    | some x => if trapped = some x.1 then 12 else s.why p x.1
    | none => 0
  let st := s.idleState p
  s.apply (s.keep.core p fun k => { k with didRow := k.didRow % 4 + row * 16, didState := st })

/-- Account for a group that has issued. -/
def State.counted (s : State) (p sl : Nat) (f : Fetched) : State :=
  let ar := decide (f.first / 2 ^ 30 % 2 = 1)
  let rank := ((s.core p).ctx sl).rank sl
  let a := s.dev.cur.addr.toNat
  let c := (s.keep.count p 1).seen p 1 a
  let c := if f.isPair then (((c.count p 2).count p 3).count p 4).seen p 1 (a + 4) else c.count p (if ar then 4 else 3)
  let c := if 11 ≤ sl ∧ sl ≤ 14 then c.count p 30 else c
  s.apply (c.core p fun k => { k with
    rrClass := k.rrClass.set rank sl, didState := 0
    didRow := k.didRow % 4 + sl * 16 + (if f.isPair then 12 else if ar then 4 else 8) })
/-- The group that has been selected issues, traps, or starts work. (DESIGN CHOICE, log entry 57.) -/
def State.issueSelected (s : State) (p sl : Nat) : State :=
  let s := (s.apply (s.keep.ctx p sl fun x => { x with holds := [] })).focus p sl
  let s := s.apply s.fetchFixed
  let f := s.fetch
  let act := s.act.num
  let r := s.attempt
  let stall := f.first / 2 ^ 27 % 8
  match r.dev.last, (s.core p).mismatch with
  | .traps t, _ => (r.apply (r.raise r.keep p sl t)).idleRow p (some sl)
  | .waits w, _ => (r.waited p sl w).idleRow p none
  | _, some aux =>
    let t := s.trapHere 0x1E0 (BitVec.ofNat 64 aux)
    let s := s.apply (s.keep.core p fun k => { k with mismatch := none })
    (s.apply (s.raise s.keep p sl t)).idleRow p (some sl)
  | .ran, none => ((s.counted p sl f).focus p sl).attempt.completed p sl act stall
  | .starts, none =>
    let r := ((s.counted p sl f).focus p sl).attempt
    r.apply (r.keep.ctx p sl fun x => { x with age := 0, raised := 0, wait := none })
/-- One cycle of a core's issue. -/
def State.issueTurn (s : State) (p : Nat) : State :=
  let (s, sel) := (s.core p).order.foldl (fun acc sl => State.look acc p sl) (s, none)
  match sel with
  | some sl => (s.apply (s.keep.count p 6)).issueSelected p sl
  | none => s.idleRow p none
/-- The work that a group started has ended: the group is performed now, outside issue selection (R171). -/
def State.finishTurn (s : State) (p sl : Nat) : State :=
  let s := s.apply (s.keep.ctx p sl fun x => { x with holds := x.holds.filter fun h => match h with
    | .realigned _ => false
    | _ => true })
  let s := s.focus p sl
  let f := s.fetch
  let act := s.act.num
  if !s.me.live then s
  else
    let r := s.attempt
    match r.dev.last with
    | .traps t => r.apply (r.raise r.keep p sl t)
    | .waits w =>
      let r := r.waited p sl w
      r.apply (r.keep.ctx p sl fun x => { x with holds := x.holds ++ [.realigned (s.dev.now + 1)] })
    | .ran => r.completed p sl act (f.first / 2 ^ 27 % 8)
    | .starts => r

/-! ## The passage to the next cycle -/

/-- A core is idle in its launch (R218). -/
def State.idleNow (s : State) (p : Nat) : Bool :=
  let k := s.core p
  !(k.ctxs.any fun x => x.2.live && decide (x.1 ≤ 10)) && k.tasks.isEmpty &&
    !(k.chans.any fun e => !e.2.isEmpty && (decide (e.1 ≤ 2) || !(k.handler e.1).mask)) &&
    (k.hold ++ k.relq).all (fun h => h.org.harvest) &&
    !(s.dev.copies.any fun c => c.2.core == p && !c.2.accepted) &&
    !(s.dev.arrays.any fun a => (match a.2.holder with
        | some h => h.1 == p && a.2.leased
        | none => false) || a.2.requests.any fun q => q.core == p) &&
    !(s.dev.flights.any fun f => f.2.org.core == p && (match f.2.cargo with
        | .effect (.command ..) => true
        | .effect (.feed ..) => true
        | .effect (.mset ..) => true
        | .effect (.copy ..) => true
        | .effect (.spawn ..) => true
        | _ => false)) &&
    !((s.clu (physCluster p)).arrivals.any fun r => r.core == p)
/-- Bytes of a result that no local store of this cycle, which issued after it, has written (R60). -/
def Core.unstored (k : Core) (p now : Nat) (b : Nat × List Byte) : List (Nat × List Byte) :=
  let late := k.recent.filter fun r => r.1 == now && overlaps b.1 b.2.length (nearKey p r.2.1) r.2.2.length
  if late.isEmpty then [b]
  else (b.2.zipIdx.filter fun x => !(late.any fun r => overlaps (b.1 + x.2) 1 (nearKey p r.2.1) r.2.2.length)).map fun x => (b.1 + x.2, [x.1])
/-- The words that an entry's result touches. -/
def Pipe.touches (e : Pipe) (w : Nat) : Bool :=
  (e.bytes.any fun b => overlaps b.1 b.2.length (8 * w) 8) || e.preds.any fun q => q.1 / 8 == w
/-- Write one result: its bytes, and its predicates as single bits, but for what a local store of this cycle has written. A word whose
tag a local access of this cycle has set keeps that tag (R60). -/
def State.landPipe (s : State) (p : Nat) (k : Core) (c : Change) (e : Pipe) : Change :=
  let c := (e.bytes.flatMap (k.unstored p s.dev.now)).foldl (fun c b => c.write b.1 b.2) c
  let c := e.preds.foldl (fun c q =>
    if (k.unstored p s.dev.now (q.1, [0])).isEmpty then c
    else c.write q.1 [predByte ((s.apply c).byte q.1) q.2.1 q.2.2]) c
  (k.tagged.filter fun t => t.1 == s.dev.now && e.touches t.2).foldl (fun c t => c.setTag t.2 (s.tagOf t.2)) c
/-- Fixed-latency results that are readable from the next cycle are written, after what the contexts do in this one and before what
arrives: an access of this cycle sees the old value (R55, R60). -/
def State.land (s : State) (c : Change) (p sl : Nat) (k : Core) (x : Ctx) : Change :=
  let go := x.pipe.filter fun e => decide (e.due ≤ s.dev.now + 1)
  if go.isEmpty then c
  else (go.foldl (s.landPipe p k) c).ctx p sl fun y =>
    { y with pipe := y.pipe.filter fun e => decide (s.dev.now + 1 < e.due) }
def State.landTurn (s : State) : Change :=
  s.dev.cores.foldl (fun c e => e.2.ctxs.foldl (fun c x => s.land c e.1 x.1 e.2 x.2) c) s.keep
/-- What a core may do in a cycle. -/
def State.turnsOf (s : State) (p : Nat) (k : Core) : List Turn :=
  if k.dead || k.failed then []
  else
    (k.ctxs.filterMap fun x => if x.2.live && x.2.holds.any (fun h => match h with
        | .realigned c => decide (c ≤ s.dev.now)
        | _ => false) then some (.finish p x.1) else none) ++
      (if k.ctxs.any fun x => x.2.live then [.issue p, .elements p] else if k.strided.isEmpty then [] else [.elements p]) ++
      (if k.tasks.isEmpty && k.chans.all fun e => e.2.isEmpty then [] else [.bindHelper p, .bindControl p])
/-- Thyme writes when the state of a core changes, and when a run has gone 16,384 cycles (R418). -/
def Change.thymeDue (c : Change) (p : Nat) (k : Core) : Change :=
  if k.didState ≠ k.thymeState ∨ k.thymeFrom + 16384 ≤ c.dev.now then
    c.sched c.dev.now .thyme { a := p, b := k.didState }
  else c
/-- The rounds of the reduction tree every 64 cycles (R218, R309). -/
def Change.rounds (c : Change) (s : State) : Change :=
  if c.dev.now % 64 ≠ 0 ∨ c.dev.power.fail.isSome then c
  else
    let running := c.dev.launches.filter fun l => l.2.phase == .running
    let c := ((running.map fun l => l.2.dom).eraseDups).foldl (fun c d => c.sched c.dev.now .commitHorizon { a := d }) c
    running.foldl (fun c l => c.sched c.dev.now .launchEnd { a := l.1 }) c
/-- An access that another device's Wharf has sent here goes to a station by its virtual address (R280, R349): its source is that device,
of which no core or context stands here. The list of such accesses is an input, log entry 122. -/
def Change.fromDevice (c : Change) (f : Flight) : Change :=
  let d := f.from_.getD 0
  let o := { f.org with core := 32768 + d, slot := 0, act := 0 }
  let id := c.dev.fresh
  (c.tick.dv fun v => { v with flights := v.flights.set id { f with org := o, from_ := some d } }).sched c.dev.now .translation { a := id }
/-- Every such access that stands in the input is taken, oldest first; in recovery none is answered (R433). -/
def Change.takeInbound (c : Change) : Change :=
  (if c.dev.power.recovery then [] else c.dev.inbound).foldl Change.fromDevice (c.dv fun d => { d with inbound := [] })
/-- The next cycle begins: the cores' last cycle is recorded, and every core has its turn again, with the landing of results after them. -/
def State.tick (s : State) : State :=
  let idle := s.dev.cores.map fun e => (e.1, { e.2 with
    idle := e.2.idle && s.idleNow e.1, holdMax := max e.2.holdMax (heldBytes e.2.hold + heldBytes e.2.relq) })
  let s := { s with dev := { s.dev with cores := idle } }
  let c := s.keep.dv fun d => { d with now := d.now + 1 }
  let c := s.dev.cores.foldl (fun c e => c.thymeDue e.1 e.2) c
  let c := s.dev.traces.foldl (fun c t => if t.2.state = 1 ∨ t.2.state = 2 then c.sched c.dev.now .traceTrigger { a := t.1 } else c) c
  let c := (c.rounds s).takeInbound
  let t := s.apply c
  t.apply (t.keep.dv fun d => { d with
    turn := (d.cores.flatMap fun e => t.turnsOf e.1 e.2) ++ [.land]
    cores := d.cores.map fun e => (e.1, { e.2 with didState := 3, didRow := 0 }) })

/-! ## One step of the machine -/

/-- Take a core's turn. -/
def State.takeTurn (s : State) : Turn → Host.Outcome State Fault Refusal
  | .issue p => .next (s.issueTurn p)
  | .finish p sl => .next (s.finishTurn p sl)
  | .elements p => .next (s.apply (s.elementsTurn p))
  | .land => .next (s.apply s.landTurn)
  | .bindHelper p => exec .helperBinding { s with dev := { s.dev with arg := { a := p } } }
  | .bindControl p => exec .controlBinding { s with dev := { s.dev with arg := { a := p } } }
/-- The next thing that happens: the boot after reset, a core's turn of this cycle, an event that is due, or the next cycle.
(DESIGN CHOICE, log entry 5.) -/
def State.advance (s : State) : Host.Outcome State Fault Refusal :=
  match s.dev.turn with
  | t :: rest => State.takeTurn { s with dev := { s.dev with turn := rest } } t
  | [] =>
    if !s.dev.booted then exec .boot s
    else match s.dev.agenda with
    | e :: rest =>
      if e.at_ ≤ s.dev.now then exec e.ev { s with dev := { s.dev with agenda := rest, arg := e.arg } }
      else .next s.tick
    | [] => .next s.tick

/-! ## Placing a group for the next step -/

/-- Write the word or words of a group at near-SRAM address 0 of core 0, and let its slot 0 issue next. -/
def State.placeGroup (s : State) (words : List Nat) : State :=
  let c := words.zipIdx.foldl (fun c w => c.write (nearKey 0 (4 * w.2)) (natBytes 4 w.1)) s.keep
  s.apply ((c.ctx 0 0 fun x => { x with
    live := true, pc := 0, wp := slotWp 0x32800 0, act := { x.act with cls := .control } }).dv fun d => { d with turn := [.issue 0] })
/-- A lone instruction stands alone; a word of a pair stands beside a NOP, or beside a PMOV to p0. -/
def groupFor (w : Nat) : List Nat :=
  if w / 2 ^ 31 % 2 = 1 then [w] else if w / 2 ^ 30 % 2 = 1 then [0x00100000, w] else [w, 0x42100004]

end Sys2Proof.Machine
end

