-- ==== Sys2Proof/Machine/Step.lean ====
section
/-!
DEFINITION. One step of the machine, and the placing of an instruction where the next step fetches it.
-/

namespace Sys2Proof.Machine

/-- One step: a core's turn of the present cycle, the next event that is due, or the passage to the next cycle.
(DESIGN CHOICE, log entry 6.) -/
def step (s : State) : Host.Outcome State Fault Refusal := s.advance

/-- The state with an instruction word placed as the group that the next step issues. -/
def State.withFetchWord (s : State) (_nbits w : Nat) : State := s.placeGroup (groupFor (w % 2 ^ 32))

end Sys2Proof.Machine
end

