-- ==== Sys2Proof/Safety.lean ====
section
/-!
DEFINITION. What a safe run is, and the terms in which the statements speak: when a group's operands are ready, and what has been
written.
-/

namespace Sys2Proof

/-- Storage is in canonical form: memory lists no zero byte and the tags no FULL word, in rising order, so that equal storage is
equal data. -/
abbrev Safe (s : Machine.State) : Prop := Machine.Memory.wf s

namespace Machine

/-! ## Readiness of operands (R26, R57, R58) -/

/-- The words a group uses let it issue normally: no source is EMPTY; no destination has a fill pending; the pipeline's results that
it needs are readable; and no word that it reads, or writes in part, is POISON, has the reserved tag or an error (R402). -/
def Ready (s : State) (fp : Foot) : Prop :=
  (∀ w ∈ fp.src ++ fp.mem, s.view.tagOf w ≠ .empty) ∧
  (∀ w ∈ fp.dst ++ fp.part, s.fillPending w = false) ∧
  (∀ w ∈ fp.src ++ fp.dst ++ fp.part, s.notReady w = 0) ∧
  (∀ w ∈ fp.src ++ fp.part ++ fp.mem ++ fp.memPart,
    s.view.tagOf w ≠ .poison ∧ s.view.tagOf w ≠ .res ∧ s.sramBad w = false ∧ s.sramSoft w = false)

/-! ## What an instruction has done -/

/-- The instruction has run and has made a change, and nothing else. -/
def State.did (s : State) (c : Change) : State := s.note c .ran
/-- It has given a value to a scalar register, a mask register or a predicate, readable after a latency (R25, R52). -/
def State.gaveW (s : State) (lat : Nat) (d : Reg) (v : Word) : State := s.did (s.setW s.keep lat d v)
def State.gaveM (s : State) (lat : Nat) (d : BitVec 3) (v : Word) : State := s.did (s.setM s.keep lat d v)
def State.gaveP (s : State) (lat : Nat) (d : BitVec 3) (v : Bool) : State := s.did (s.setP s.keep lat d v)
/-- It has waited, or trapped, with no effect. -/
def State.stood (s : State) (w : Wait) : State := s.note s.keep (.waits w)
def State.raised (s : State) (t : Trap) : State := s.note s.keep (.traps t)

end Machine

end Sys2Proof
end

