-- ==== Sys2Proof/Certificates/Slice0/Obligations.lean ====
section
/-!
DEFINITION. The statements for the provers, each from the numbered rules that its docstring names.
-/

open Sys2Proof Sys2Proof.Machine

/-! ## What stays as it was -/

namespace Sys2Proof.Claims

/-- Byte `k` is one of `n` bytes from `a`. -/
def within (a n k : Nat) : Prop := a ≤ k ∧ k < a + n
/-- Some byte of word `w` is one of `n` bytes from `a`. -/
def touches (a n w : Nat) : Prop := w * 8 < a + n ∧ a < w * 8 + 8

/-- Between two states, storage differs at most where `at_` holds of a byte's address: bytes, and the tags of words with such a
byte. -/
def StorageOutside (at_ : Nat → Prop) (s t : State) : Prop :=
  (∀ k, ¬at_ k → t.byte k = s.byte k) ∧ (∀ w, (∀ i < 8, ¬at_ (w * 8 + i)) → t.tagOf w = s.tagOf w)

/-- No storage at all differs. -/
def SameStorage (s t : State) : Prop := t.mem = s.mem ∧ t.tags = s.tags ∧ t.bad = s.bad

/-- Of the units, only the running context, and fields of its core and of the device that `k` and `d` name, differ. -/
def OnlyMine (k : Core → Core → Core) (d : Dev → Dev → Dev) (s t : State) : Prop :=
  (∀ p, p ≠ s.here → t.core p = s.core p) ∧ (∀ sl, sl ≠ s.slot → t.ctx s.here sl = s.ctx s.here sl) ∧
  t.core s.here = k (t.core s.here) { s.core s.here with ctxs := (t.core s.here).ctxs } ∧
  t.dev = d t.dev { s.dev with cores := t.dev.cores, last := t.dev.last }

/-- No other word of the running group has changed the context before this one: it is a lone word, or the first word of a pair. -/
def First (s : State) : Prop := s.opCtx = s.me

/-- The effective address of the plain loads and stores: RegW(a) + SignExtend(off, 6) × unit, modulo 2^64 (R145, R148). -/
def addr (s : State) (a : Reg) (o : BitVec 6) (unit : Nat) : Word := s.w a + BitVec.ofInt 64 (o.toInt * unit)

end Sys2Proof.Claims

open Sys2Proof.Claims

/-! ## Results of fixed latency (R25, R52, R55, R57) -/

/-- R52, R57: a scalar result of latency 1 is in its register at once, all 8 bytes of it, with tag FULL, and nothing else has changed;
a result of w0 is discarded, and w0 reads 0.
R51, R52: a predicate result changes its own bit of the predicate word and no other predicate, and nothing else in storage but the
tag of that word; a mask register takes all 8 bytes; p0 and m0 take none and read one and all ones. -/
def Obligations.RegisterWritesAreExact : Prop :=
  (∀ (s : State) (d : Reg) (v : Word), Safe s → s.snap = none →
     let t := s.gaveW 1 d v
     t.dev = { s.dev with last := .ran } ∧ t.snap = none ∧
     (d ≠ 0 → t.w d = v ∧ (tagged (s.wKey d) = true → ∀ w, touches (s.wKey d) 8 w → t.tagOf w = .full) ∧
       StorageOutside (within (s.wKey d) 8) s t) ∧
     (d = 0 → t.w d = 0 ∧ SameStorage s t)) ∧
  (∀ (s : State) (d : BitVec 3) (v : Bool) (x : Word), Safe s → s.snap = none →
     (let t := s.gaveP 1 d v
      t.dev = { s.dev with last := .ran } ∧ (∀ q, q ≠ d → t.p q = s.p q) ∧ StorageOutside (· = s.pKey) s t ∧
      (d ≠ 0 → t.p d = v ∧ (tagged s.pKey = true → t.tagOf (s.pKey / 8) = .full)) ∧ (d = 0 → t.p d = true ∧ SameStorage s t)) ∧
     (let t := s.gaveM 1 d x
      t.dev = { s.dev with last := .ran } ∧ StorageOutside (within (s.mKey d) 8) s t ∧
      (d ≠ 0 → t.m d = x ∧ (tagged (s.mKey d) = true → ∀ w, touches (s.mKey d) 8 w → t.tagOf w = .full)) ∧
      (d = 0 → t.m d = BitVec.allOnes 64 ∧ SameStorage s t)))

/-- R25, R55: a result of a longer latency L leaves storage as it is and waits in its context until cycle c + L.
R25, R55: at the end of the cycle before the first in which a result may be read, it is in its word with tag FULL and no longer waits.
Log entry 6 is the model's own reading here. -/
def Obligations.LongerResultsWaitAndLand : Prop :=
  (∀ (s : State) (d : Reg) (v : Word) (lat : Nat), 2 ≤ lat → d ≠ 0 →
     let t := s.gaveW lat d v
     SameStorage s t ∧ OnlyMine (fun _ k => k) (fun _ d => d) s t ∧
     ∃ e : Pipe, t.me = { s.me with pipe := s.me.pipe ++ [e] } ∧ e.due = s.dev.now + lat ∧ e.bytes = [(s.wKey d, wordBytes v)] ∧
       ∀ w, w ∈ e.words ↔ touches (s.wKey d) 8 w) ∧
  (∀ (s : State) (p sl : Nat) (k : Nat) (v : Word) (ws : List Nat) (rest : List Turn), Safe s → s.dev.turn = .land :: rest →
     (s.ctx p sl).pipe = [{ due := s.dev.now + 1, words := ws, bytes := [(k, wordBytes v)] }] →
     (∀ r ∈ (s.core p).recent, r.1 ≠ s.dev.now) → (∀ r ∈ (s.core p).tagged, r.1 ≠ s.dev.now) →
     (∀ c ∈ s.dev.cores, ∀ x ∈ c.2.ctxs, (c.1 = p ∧ x.1 = sl ∧ c.2 = s.core p ∧ x.2 = s.ctx p sl) ∨ ∀ e ∈ x.2.pipe, s.dev.now + 1 < e.due) →
     ∃ t, step s = .next t ∧ t.dev.now = s.dev.now ∧ t.dev.turn = rest ∧ t.wordAt k = v ∧ (∀ w, touches k 8 w → tagged k = true → t.tagOf w = .full) ∧ (t.ctx p sl).pipe = [] ∧
       StorageOutside (within k 8) s t)

/-! ## Scalar integer instructions (R111 to R119) -/

/-- R111, R114: the two-operand instructions of major 0x01, and BFX, BFX.sx and ADDS, with latency 1. -/
def Obligations.ScalarTwoOperandResults : Prop :=
  ∀ (s : State) (d a b : Reg) (h : BitVec 3), Ready s { src := s.srcW a ++ s.srcW b, dst := s.srcW d } →
    let x := s.w a
    let y := s.w b
    let n := y.toNat % 64
    let out (i : Instr) (v : Word) : Prop := exec i s = .next (s.gaveW 1 d v)
    out (.add d a b) (x + y) ∧ out (.sub d a b) (x - y) ∧ out (.and d a b) (x &&& y) ∧ out (.or d a b) (x ||| y) ∧
    out (.xor d a b) (x ^^^ y) ∧ out (.andn d a b) (x &&& ~~~y) ∧
    out (.shl d a b) (BitVec.ofNat 64 (x.toNat * 2 ^ n)) ∧ out (.shr d a b) (BitVec.ofNat 64 (x.toNat / 2 ^ n)) ∧
    out (.sra d a b) (BitVec.ofInt 64 (x.toInt / 2 ^ n)) ∧ out (.rot d a b) ((x <<< n) ||| (x >>> (64 - n))) ∧
    out (.min d a b) (if x.toInt ≤ y.toInt then x else y) ∧ out (.max d a b) (if y.toInt ≤ x.toInt then x else y) ∧
    out (.minu d a b) (if x.toNat ≤ y.toNat then x else y) ∧ out (.maxu d a b) (if y.toNat ≤ x.toNat then x else y) ∧
    out (.addsat d a b) (BitVec.ofInt 64 (max (-2 ^ 63) (min (x.toInt + y.toInt) (2 ^ 63 - 1)))) ∧
    out (.subsat d a b) (BitVec.ofInt 64 (max (-2 ^ 63) (min (x.toInt - y.toInt) (2 ^ 63 - 1)))) ∧
    out (.bfx d a b) (BitVec.ofNat 64 (x.toNat / 2 ^ n % 2 ^ min (y.toNat / 256 % 64 + 1) (64 - n))) ∧
    out (.bfxSx d a b)
      (let w := y.toNat / 256 % 64 + 1
       let f := x.toNat / 2 ^ n % 2 ^ min w (64 - n)
       if f.testBit (w - 1) then BitVec.ofInt 64 (f - 2 ^ w) else BitVec.ofNat 64 f) ∧
    out (.adds d a b h) (BitVec.ofNat 64 (x.toNat + y.toNat * 2 ^ h.toNat))

/-- R112: the one-operand instructions of major 0x02, with latency 1. -/
def Obligations.ScalarOneOperandResults : Prop :=
  ∀ (s : State) (d a : Reg), Ready s { src := s.srcW a, dst := s.srcW d } →
    let x := s.w a
    let out (i : Instr) (v : Word) : Prop := exec i s = .next (s.gaveW 1 d v)
    out (.mov d a) x ∧ out (.abs d a) (BitVec.ofNat 64 x.toInt.natAbs) ∧
    (∀ n, 2 ^ n ≤ x.toNat → x.toNat < 2 ^ (n + 1) → out (.clz d a) (BitVec.ofNat 64 (63 - n))) ∧
    (x = 0 → out (.clz d a) 64 ∧ out (.ctz d a) 64) ∧
    (∀ n k, x.toNat = 2 ^ n * (2 * k + 1) → out (.ctz d a) (BitVec.ofNat 64 n)) ∧
    out (.popc d a) (BitVec.ofNat 64 ((List.range 64).filter x.getLsbD).length) ∧
    (∀ z, (z = .b ∨ z = .h ∨ z = .s) →
      let n := match z with | .b => 8 | .h => 16 | _ => 32
      out (.sext d a z) ((x.setWidth n).signExtend 64) ∧ out (.zext d a z) ((x.setWidth n).setWidth 64))

/-- R113, R114, R116: MUL, MULH and MULHU with latency 3; BFX.sx; BFI, which reads its destination; SEL, which reads a predicate;
MOVI and MOVH. -/
def Obligations.MultiplyInsertSelectMove : Prop :=
  ∀ (s : State) (d a b : Reg) (p : BitVec 3) (i : BitVec 15),
    let x := s.w a
    let y := s.w b
    (Ready s { src := s.srcW a ++ s.srcW b, dst := s.srcW d } →
      exec (.mul d a b) s = .next (s.gaveW 3 d (BitVec.ofNat 64 (x.toNat * y.toNat))) ∧
      exec (.mulh d a b) s = .next (s.gaveW 3 d (BitVec.ofInt 64 (x.toInt * y.toInt / 2 ^ 64))) ∧
      exec (.mulhu d a b) s = .next (s.gaveW 3 d (BitVec.ofNat 64 (x.toNat * y.toNat / 2 ^ 64))) ∧
      exec (.bfxSx d a b) s = .next (s.gaveW 1 d
        (let w := y.toNat / 256 % 64 + 1
         let f := x.toNat / 2 ^ (y.toNat % 64) % 2 ^ min w (64 - y.toNat % 64)
         if f.testBit (w - 1) then BitVec.ofInt 64 (f - 2 ^ w) else BitVec.ofNat 64 f))) ∧
    (Ready s { src := s.srcW a ++ s.srcW b ++ s.srcW d, dst := s.srcW d } →
      ∃ v, exec (.bfi d a b) s = .next (s.gaveW 1 d v) ∧
        let l := y.toNat % 64
        let w := y.toNat / 256 % 64 + 1
        ∀ k < 64, v.getLsbD k = if l ≤ k ∧ k < l + w then x.getLsbD (k - l) else (s.w d).getLsbD k) ∧
    (Ready s { src := s.srcP p ++ s.srcW a ++ s.srcW b, dst := s.srcW d } →
      exec (.sel d a b p) s = .next (s.gaveW 1 d (if s.p p then x else y))) ∧
    (Ready s { dst := s.srcW d } → exec (.movi d i) s = .next (s.gaveW 1 d (i.signExtend 64))) ∧
    (Ready s { src := s.srcW d, dst := s.srcW d } →
      exec (.movh d i) s = .next (s.gaveW 1 d (BitVec.ofNat 64 ((s.w d).toNat * 2 ^ 15 + i.toNat))))

/-- R115: each immediate form acts as its register form on the sign-extended immediate.
R117: WIDX extracts a field of a work ID: n bits above the widths of the fields before it, n the field's own width. -/
def Obligations.ImmediateAndWorkIdResults : Prop :=
  (∀ (s : State) (d a : Reg) (i : BitVec 10), Ready s { src := s.srcW a, dst := s.srcW d } →
     let x := s.w a
     let y := i.toInt
     let out (j : Instr) (v : Word) : Prop := exec j s = .next (s.gaveW 1 d v)
     out (.addImm d a i) (BitVec.ofInt 64 (x.toInt + y)) ∧ out (.andImm d a i) (x &&& BitVec.ofInt 64 y) ∧
     out (.orImm d a i) (x ||| BitVec.ofInt 64 y) ∧ out (.xorImm d a i) (x ^^^ BitVec.ofInt 64 y) ∧
     out (.minImm d a i) (BitVec.ofInt 64 (min x.toInt y)) ∧ out (.maxImm d a i) (BitVec.ofInt 64 (max x.toInt y)) ∧
     exec (.mulImm d a i) s = .next (s.gaveW 3 d (BitVec.ofInt 64 (x.toInt * y))) ∧
     (i.toNat ≤ 63 → out (.shlImm d a i) (BitVec.ofNat 64 (x.toNat * 2 ^ i.toNat)) ∧
       out (.shrImm d a i) (BitVec.ofNat 64 (x.toNat / 2 ^ i.toNat)) ∧
       out (.sraImm d a i) (BitVec.ofInt 64 (x.toInt / 2 ^ i.toNat)) ∧
       out (.rotImm d a i) ((x <<< i.toNat) ||| (x >>> (64 - i.toNat))))) ∧
  (∀ (s : State) (d a : Reg) (i : BitVec 10) (before after : List Nat) (n : Nat),
     Ready s { src := s.srcW a, dst := s.srcW d } → i.toNat ≤ 5 → s.my.widths = before ++ n :: after → before.length = i.toNat →
     exec (.widx d a i) s = .next (s.gaveW 1 d (BitVec.ofNat 64 ((s.w a).toNat / 2 ^ before.sum % 2 ^ n))))

/-- R113, R120: a division, FDIV and FSQRT wait while the divider is busy; otherwise each keeps the divider busy and fills its destination 4 + ⌈q/2⌉
cycles after issue, FDIV and FSQRT after 16. -/
def Obligations.DivisionFills : Prop :=
  ∀ (s : State) (d a b : Reg),
    let x := s.w a
    let y := s.w b
    let fills (i : Instr) (n : Nat) (v : Word) : Prop :=
      exec i s = .next (s.did (s.fillAt (s.keep.mine fun k => { k with divUntil := s.dev.now + n }) (s.fillW d) (s.dev.now + n) v))
    let signed := if y = 0 ∨ (x = BitVec.intMin 64 ∧ y = BitVec.allOnes 64) then 64 else (Nat.log2 (2 * (x.toInt.natAbs / y.toInt.natAbs)))
    let plain := if y = 0 then 64 else (Nat.log2 (2 * (x.toNat / y.toNat)))
    (s.my.divUntil ≤ s.dev.now →
      (Ready s { src := s.srcW a ++ s.srcW b, dst := s.srcW d } →
        fills (.div d a b) (4 + (signed + 1) / 2) (if y = 0 then BitVec.allOnes 64 else BitVec.ofInt 64 (x.toInt.tdiv y.toInt)) ∧
        fills (.rem d a b) (4 + (signed + 1) / 2) (if y = 0 then x else BitVec.ofInt 64 (x.toInt.tmod y.toInt)) ∧
        fills (.divu d a b) (4 + (plain + 1) / 2) (if y = 0 then BitVec.allOnes 64 else BitVec.ofNat 64 (x.toNat / y.toNat)) ∧
        fills (.remu d a b) (4 + (plain + 1) / 2) (if y = 0 then x else BitVec.ofNat 64 (x.toNat % y.toNat)) ∧
        fills (.fdiv d a b) 16 (fword (fdiv x.toNat y.toNat))) ∧
      (Ready s { src := s.srcW a, dst := s.srcW d } → fills (.fsqrt d a) 16 (fword (fsqrt x.toNat)))) ∧
    (s.dev.now < s.my.divUntil → Ready s { src := s.srcW a ++ s.srcW b, dst := s.srcW d } →
      ∀ i ∈ [Instr.div d a b, .divu d a b, .rem d a b, .remu d a b, .fdiv d a b], exec i s = .next (s.stood .divider)) ∧
    (s.dev.now < s.my.divUntil → Ready s { src := s.srcW a, dst := s.srcW d } → exec (.fsqrt d a) s = .next (s.stood .divider))

/-- R118: CMP compares two scalar registers, signed for `lt`, `ge`, `le` and `gt` and unsigned for the `u` forms, with latency 1; a
result for p0 is discarded.
R119: the predicate instructions on predicates, with latency 1. -/
def Obligations.ComparesAndPredicates : Prop :=
  ∀ (s : State) (d p q : BitVec 3) (a b : Reg) (c : Cond),
    (Ready s { src := s.srcW a ++ s.srcW b, part := s.srcP d } →
      exec (.cmp d a b c) s = .next (s.gaveP 1 d
        (match c with
        | .eq => s.w a = s.w b | .ne => s.w a ≠ s.w b
        | .lt => (s.w a).toInt < (s.w b).toInt | .ge => (s.w b).toInt ≤ (s.w a).toInt
        | .le => (s.w a).toInt ≤ (s.w b).toInt | .gt => (s.w b).toInt < (s.w a).toInt
        | .ltu => (s.w a).toNat < (s.w b).toNat | .geu => (s.w b).toNat ≤ (s.w a).toNat
        | .leu => (s.w a).toNat ≤ (s.w b).toNat | .gtu => (s.w b).toNat < (s.w a).toNat))) ∧
    (∀ v, s.gaveP 1 0 v = s.did s.keep) ∧
    (Ready s { src := s.srcP p ++ s.srcP q, part := s.srcP d } →
      exec (.pand d p q) s = .next (s.gaveP 1 d (s.p p && s.p q)) ∧ exec (.por d p q) s = .next (s.gaveP 1 d (s.p p || s.p q)) ∧
      exec (.pxor d p q) s = .next (s.gaveP 1 d (s.p p != s.p q))) ∧
    (Ready s { src := s.srcP p ++ s.srcP p, part := s.srcP d } →
      exec (.pnot d p) s = .next (s.gaveP 1 d (!s.p p)) ∧ exec (.pmov d p) s = .next (s.gaveP 1 d (s.p p)))

/-! ## Scalar FP32 (R120 to R123) -/

/-- R120, R121, R123: the scalar FP32 instructions on the values in bits 31:0 of their sources, each exact and then rounded once to
nearest even; a NaN operand of FMIN, FMAX, FABS and FNEG gives the canonical NaN, and −0 is below +0. FCMP on a NaN holds for `ne` and
`un` alone; FCVT converts between FP32 and one other format, and `.sr` uses one draw of SRSEED.
R122: FCLASS sets exactly the bit of its source's class.
Log entry 8 is the model's own reading here: `.sr` leaves a SRSEED that the pair's other word has written. -/
def Obligations.FloatResultsAndClasses : Prop :=
  (∀ (s : State) (d a b : Reg) (q : BitVec 3) (c : FCond) (x : Fmt) (r : Rnd) (back : Bool),
     let u := (s.w a).toNat % 2 ^ 32
     let v := (s.w b).toNat % 2 ^ 32
     let A := decodeNum false .f32 u
     let B := decodeNum false .f32 v
     let rne (z : Machine.Num) : Nat := roundNum false .f32 .rne 0 z
     let out (i : Instr) (z : Nat) : Prop := exec i s = .next (s.gaveW 4 d (BitVec.ofNat 64 (z % 2 ^ 32)))
     (Ready s { src := s.srcW a ++ s.srcW b, dst := s.srcW d } →
       out (.fadd d a b) (rne (A.add B)) ∧ out (.fsub d a b) (rne (A.add B.neg)) ∧ out (.fmul d a b) (rne (A.mul B)) ∧
       (A = .nan ∨ B = .nan → out (.fmin d a b) 0x7FC00000 ∧ out (.fmax d a b) 0x7FC00000) ∧
       (A ≠ .nan → B ≠ .nan →
         let below := A.cmp B = some .lt ∨ (A.cmp B = some .eq ∧ 2 ^ 31 ≤ u ∧ v < 2 ^ 31)
         let above := A.cmp B = some .gt ∨ (A.cmp B = some .eq ∧ u < 2 ^ 31 ∧ 2 ^ 31 ≤ v)
         (below → out (.fmin d a b) u ∧ out (.fmax d a b) v) ∧ (above → out (.fmin d a b) v ∧ out (.fmax d a b) u) ∧
         (u = v → out (.fmin d a b) u ∧ out (.fmax d a b) u))) ∧
     (Ready s { src := s.srcW a ++ s.srcW b ++ s.srcW d, dst := s.srcW d } →
       out (.ffma d a b) (rne ((A.mul B).add (decodeNum false .f32 ((s.w d).toNat % 2 ^ 32))))) ∧
     (Ready s { src := s.srcW a, dst := s.srcW d } →
       (A = .nan → out (.fabs d a) 0x7FC00000 ∧ out (.fneg d a) 0x7FC00000) ∧
       (A ≠ .nan → out (.fabs d a) (u % 2 ^ 31) ∧ out (.fneg d a) (if u < 2 ^ 31 then u + 2 ^ 31 else u - 2 ^ 31)) ∧
       exec (.fcvt d a x r back) s = .next (s.did (s.setW
         (if r = .sr then s.keep.me fun y => if y.srseed = s.opCtx.srseed then { y with srseed := srStep s.opCtx.srseed } else y
           else s.keep) 3 d
         (let n := fmtBits x
          let draw := if r = .sr then srDraw (srStep s.opCtx.srseed) else 0
          if back then
            let z := roundNum s.fsx x r draw A
            if x = .i4 ∨ x = .i8 ∨ x = .i16 ∨ x = .i32 then sext n z else BitVec.ofNat 64 z
          else BitVec.ofNat 64 (roundNum s.fsx .f32 r draw (decodeNum s.fsx x ((s.w a).toNat % 2 ^ n))))))) ∧
     (Ready s { src := s.srcW a ++ s.srcW b, part := s.srcP q } →
       exec (.fcmp q a b c) s = .next (s.gaveP 4 q
         (match c with
         | .eq => A.cmp B = some .eq | .ne => A.cmp B ≠ some .eq | .lt => A.cmp B = some .lt | .gt => A.cmp B = some .gt
         | .le => A.cmp B = some .lt ∨ A.cmp B = some .eq | .ge => A.cmp B = some .gt ∨ A.cmp B = some .eq
         | .un => A.cmp B = none)))) ∧
  (∀ (s : State) (d a : Reg), Ready s { src := s.srcW a, dst := s.srcW d } →
     let u := (s.w a).toNat % 2 ^ 32
     let neg := 2 ^ 31 ≤ u
     let e := u / 2 ^ 23 % 256
     let f := u % 2 ^ 23
     exec (.fclass d a) s = .next (s.gaveW 4 d
       (if e = 255 ∧ f ≠ 0 then 0x100 else if e = 255 then (if neg then 1 else 0x80)
         else if e = 0 ∧ f = 0 then (if neg then 8 else 0x10)
         else if e = 0 then (if neg then 4 else 0x20) else (if neg then 2 else 0x40))))

/-! ## Addresses (R145, R146) -/

/-- R145, R146: the checks of an access of n bytes outside a harvest context: alignment first, then the window of the mode and its
regions; an access that passes lies wholly in one region, and one that starts in a region and runs past its end has the fault of the
first word beyond it. TRAPADDR is the effective address.
R146, R163: a misaligned access of LD, LD.sx, ST, VLD, VST, LDF and STE traps with 0x080 and performs nothing. -/
def Obligations.AddressChecksAndMisalignment : Prop :=
  (∀ (s : State) (v : Word) (n al : Nat) (wr : Bool), s.harvest = false → 0 < al → 0 < n →
     let a := v.toNat
     let bad (md : AddrMode) (cause : Nat) (aux : Word) : Prop := ∃ t, s.checkAccess md v n al wr = some t ∧
       t.cause = cause ∧ t.addr = v ∧ t.pc = s.groupAddr ∧ t.aux = aux
     (∀ md, a % al ≠ 0 → bad md 0x080 (accessAux md n wr)) ∧
     (a % al = 0 → n % al = 0 → 8 ∣ al ∨ n ≤ 8 ∧ n = al →
       (a + n ≤ 0x40000 → s.checkAccess .l v n al wr = none) ∧
       (0x40000 ≤ a → a < 0x240000 → bad .l 0x082 (accessAux .l n wr)) ∧
       (0x240000 ≤ a → bad .l 0x081 (accessAux .l n wr)) ∧
       (a + n ≤ 2 ^ 57 → s.checkAccess .g v n al wr = none) ∧ (2 ^ 57 ≤ a → bad .g 0x086 (accessAux .g n wr)) ∧
       (0x3000000 ≤ a → bad .ci 0x085 (accessAux .ci n wr)) ∧
       (2147483648 ≤ a → bad .cd 0x083 (accessAux .cd n wr)) ∧
       (200 ≤ a / 8388608 → a < 2147483648 → bad .cd 0x083 (accessAux .cd n wr)) ∧
       (a / 8388608 < 192 → 0x40000 ≤ a % 8388608 → bad .cd 0x083 (accessAux .cd n wr)) ∧
       (a / 8388608 < 192 → a % 8388608 + n ≤ 0x40000 → s.retired (logicalAt s.myCluster (a / 8388608)) = false →
         s.checkAccess .cd v n al wr = none) ∧
       (a / 8388608 < 192 → a % 8388608 < 0x40000 → s.retired (logicalAt s.myCluster (a / 8388608)) = true →
         bad .cd 0x084 (BitVec.ofNat 64 (a / 8388608))) ∧
       (s.myCluster < 96 → 192 ≤ a / 8388608 → a / 8388608 ≤ 199 → a % 8388608 + n ≤ 8388608 → s.checkAccess .cd v n al wr = none) ∧
       (let gone (j : Nat) : Bool := s.retired (logicalAt s.myCluster ((a / 8 + j) % 192))
        let inside (j : Nat) : Prop := 8 * j < n ∧ a + 8 * j < 0x3000000
        ((∀ j, inside j → gone j = false) → a + n ≤ 0x3000000 → s.checkAccess .ci v n al wr = none) ∧
        ((∀ j, inside j → gone j = false) → 8 ∣ al → a < 0x3000000 → 0x3000000 < a + n → bad .ci 0x085 (accessAux .ci n wr)) ∧
        (∀ j, inside j → gone j = true → (∀ i < j, gone i = false) → bad .ci 0x084 (BitVec.ofNat 64 ((a / 8 + j) % 192)))) ∧
       (8 ∣ al →
         (a < 0x40000 → 0x40000 < a + n → bad .l 0x082 (accessAux .l n wr)) ∧
         (a < 2 ^ 57 → 2 ^ 57 < a + n → bad .g 0x086 (accessAux .g n wr)) ∧
         (a / 8388608 < 192 → a % 8388608 < 0x40000 → 0x40000 < a % 8388608 + n →
           s.retired (logicalAt s.myCluster (a / 8388608)) = false → bad .cd 0x083 (accessAux .cd n wr)) ∧
         (s.myCluster < 96 → 192 ≤ a / 8388608 → a / 8388608 ≤ 199 → 8388608 < a % 8388608 + n → bad .cd 0x083 (accessAux .cd n wr))))) ∧
  (∀ (s : State) (d a : Reg) (m : AddrMode) (z : Size) (o : BitVec 6),
     let n := Size.bytes z
     let ea := addr s a o n
     let va := addr s a o 256
     let wa := addr s a o 8
     let traps (i : Instr) (e : Word) (md : AddrMode) (n : Nat) (wr : Bool) : Prop :=
       exec i s = .next (s.raised (s.trap 0x080 e (accessAux md n wr)))
     s.loadRoom = none → s.noRoom 272 = none → s.overflow 272 = none → s.speculative = false →
     (Ready s { src := s.srcW a, dst := s.srcW d } → ea.toNat % n ≠ 0 → traps (.ld d a m z o) ea m n false ∧ traps (.ldSx d a m z o) ea m n false) ∧
     (Ready s { src := s.srcW a ++ s.srcW d } → ea.toNat % n ≠ 0 → traps (.st d a m z o) ea m n true) ∧
     (Ready s { src := s.srcW a, dst := s.srcV d } → va.toNat % 8 ≠ 0 → traps (.vld d a m o) va m 256 false) ∧
     (Ready s { src := s.srcW a ++ s.srcV d } → va.toNat % 8 ≠ 0 → traps (.vst d a m o) va m 256 true) ∧
     (Ready s { src := s.srcW a, dst := s.srcW d } → wa.toNat % 8 ≠ 0 →
       traps (.ldfTake d a o) wa .l 8 false ∧ traps (.ldfKeep d a o) wa .l 8 false) ∧
     (Ready s { src := s.srcW a ++ s.srcW d } → wa.toNat % 8 ≠ 0 → traps (.ste d a m o) wa m 8 true))

/-! ## Loads and stores (R147 to R150) -/

/-- R148, R150: a local load takes each byte from the youngest held store of its activation to that address, else from near SRAM,
and extends it with zeros or the sign; VLD writes a whole vector with latency 4. -/
def Obligations.LocalLoadResults : Prop :=
  ∀ (s : State) (d a : Reg) (z : Size) (o : BitVec 6),
    (let n := Size.bytes z
     let ea := addr s a o n
     let e := ea.toNat
     let fwd := s.forwards .l e n
     let x := leNat ((List.range n).map fun i => (s.forward .l (e + i)).getD ((s.view.nearBytes s.here (e + i) 1).headD 0))
     s.localTrap ea n n false = none → s.regsReady (s.srcW a) = true → s.bankWait e n = none →
     s.trackWait (nearKey s.here e) n = none →
     Ready s { src := s.srcW a, dst := s.srcW d, mem := s.readWords e n fwd } →
       exec (.ld d a .l z o) s = .next (s.did (s.setW (s.readDone s.keep e n fwd) 3 d (BitVec.ofNat 64 x))) ∧
       exec (.ldSx d a .l z o) s = .next (s.did (s.setW (s.readDone s.keep e n fwd) 3 d
         (if x < 2 ^ (8 * n - 1) then BitVec.ofNat 64 x else BitVec.ofInt 64 (x - 2 ^ (8 * n)))))) ∧
    (let ea := addr s a o 256
     let e := ea.toNat
     let fwd := s.forwards .l e 256
     let bs := (List.range 256).map fun i => (s.forward .l (e + i)).getD ((s.view.nearBytes s.here (e + i) 1).headD 0)
     s.localTrap ea 256 8 false = none → s.regsReady (s.srcW a) = true → s.bankWait e 256 = none →
     s.trackWait (nearKey s.here e) 256 = none →
     Ready s { src := s.srcW a, dst := s.srcV d, mem := s.readWords e 256 fwd } →
       exec (.vld d a .l o) s = .next (s.did ((s.readDone s.keep e 256 fwd).result 4
         (vecWrites (s.vKey d) (fun _ => true) (bytesVec bs)))))

/-- R58, R148: a load in another mode empties its destination and leaves a fill pending on each of its words, with a read on its way
for each word; w0 discards the value. No byte of storage changes.
Log entry 2 is the model's own reading here. -/
def Obligations.RemoteLoadsFillLater : Prop :=
  ∀ (s : State) (d a : Reg) (m : AddrMode) (z : Size) (o : BitVec 6), Safe s → m ≠ .l → s.loadRoom = none →
    (let n := Size.bytes z
     let ea := addr s a o n
     s.checkAccess m ea n n false = none → Ready s { src := s.srcW a, dst := s.srcW d } →
     ∀ i sx, (i = Instr.ld d a m z o ∧ sx = false) ∨ (i = Instr.ldSx d a m z o ∧ sx = true) →
      ∃ t, exec i s = .next t ∧ t.dev.last = .ran ∧ t.mem = s.mem ∧
        (d ≠ 0 → t.tagOf (s.wKey d / 8) = .empty) ∧ (∀ w, d = 0 ∨ w ≠ s.wKey d / 8 → t.tagOf w = s.tagOf w) ∧
        (∃ id f, t.dev.fills.find id = some f ∧ f.core = s.here ∧ f.slot = s.slot ∧
          f.dst = (if d = 0 then none else some (s.wKey d)) ∧ f.left = 1 ∧ f.size = n ∧ f.sx = sx ∧
          ∃ j g, t.dev.flights.find j = some g ∧ g.place = s.place s.here m ea.toNat ∧
            g.cargo = .read id 0 n 0 ((List.range n).map fun i => s.forward m (ea.toNat + i)))) ∧
    (let ea := addr s a o 256
     s.checkAccess m ea 256 8 false = none → d.toNat < 16 → Ready s { src := s.srcW a, dst := s.srcV d } →
      ∃ t, exec (.vld d a m o) s = .next t ∧ t.dev.last = .ran ∧ t.mem = s.mem ∧
        (∀ w ∈ s.srcV d, t.tagOf w = .empty) ∧ (∀ w, w ∉ s.srcV d → t.tagOf w = s.tagOf w) ∧
        ∀ i < 32, ∃ id f, t.dev.fills.find id = some f ∧ f.core = s.here ∧ f.slot = s.slot ∧ f.dst = some (s.vKey d + 8 * i) ∧
          ∃ j g, t.dev.flights.find j = some g ∧ g.place = s.place s.here m (ea.toNat + 8 * i) ∧
            g.cargo = .read id 0 8 i ((List.range 8).map fun b => s.forward m (ea.toNat + 8 * i + b)))

/-- R57, R149: a local store outside speculation writes its bytes at the effective address of the core's near SRAM, sets the words
they touch FULL, and writes nothing else. (The bits 63:8 of a live context's predicate word take no write: R51.)
Log entry 20 is the model's own reading here. -/
def Obligations.LocalStoresWriteTheirBytes : Prop :=
  ∀ (s : State) (d a : Reg) (z : Size) (o : BitVec 6), Safe s → s.speculative = false →
    let stores (i : Instr) (regs : List Nat) (ea : Word) (n al : Nat) (bs : List Byte) : Prop :=
      s.localTrap ea n al true = none → s.regsReady regs = true → s.bankWait ea.toNat n = none →
      Ready s { src := regs, memPart := s.partOf ea.toNat n } →
        ∃ t, exec i s = .next t ∧ t.dev.last = .ran ∧
          (∀ j < n, t.byte (nearKey s.here (ea.toNat + j)) =
            if s.predHole s.here (ea.toNat + j) then s.byte (nearKey s.here (ea.toNat + j)) else bs.getD j 0) ∧
          StorageOutside (within (nearKey s.here ea.toNat) n) s t ∧
          ((∀ j < n, s.predHole s.here (ea.toNat + j) = false) → tagged (nearKey s.here ea.toNat) = true →
            ∀ w, touches (nearKey s.here ea.toNat) n w → t.tagOf w = .full)
    stores (.st d a .l z o) (s.srcW a ++ s.srcW d) (addr s a o (Size.bytes z)) (Size.bytes z) (Size.bytes z)
      (natBytes (Size.bytes z) (s.w d).toNat) ∧
    stores (.vst d a .l o) (s.srcW a ++ s.srcV d) (addr s a o 256) 256 8 (vecBytes (s.v d))

/-- R149, R233, R154: a store in another mode, and STE in another mode, is an effect: held while the activation is contained, and
sent at once when it is open. It changes no storage at issue. -/
def Obligations.RemoteStoresAreEffects : Prop :=
  ∀ (s : State) (d a : Reg) (m : AddrMode) (z : Size) (o : BitVec 6), m ≠ .l →
    let sends (i : Instr) (regs : List Nat) (chk : Option Trap) (e : Effect) : Prop :=
      chk = none → s.noRoom e.cost = none → s.overflow e.cost = none → Ready s { src := regs } →
        exec i s = .next (s.did (s.emit s.keep e)) ∧ SameStorage s (s.did (s.emit s.keep e))
    sends (.st d a m z o) (s.srcW a ++ s.srcW d) (s.checkAccess m (addr s a o (Size.bytes z)) (Size.bytes z) (Size.bytes z) true)
      (.store m (addr s a o (Size.bytes z)).toNat (natBytes (Size.bytes z) (s.w d).toNat)) ∧
    sends (.vst d a m o) (s.srcW a ++ s.srcV d) (s.checkAccess m (addr s a o 256) 256 8 true)
      (.store m (addr s a o 256).toNat (vecBytes (s.v d))) ∧
    (s.speculative = false →
      sends (.ste d a m o) (s.srcW a ++ s.srcW d) (s.noBstore m (addr s a o 8) 8) (.deposit m (addr s a o 8).toNat (s.w d)))

/-- R233, R235: an effect of a contained activation stands last in its core's hold buffer with the sender's origin and its bytes, and
nothing has left; an effect of an open activation with nothing of its own still to release leaves at once, one flight for each
part, and the hold buffer is as before.
R103, R235: OPEN, and every opening operation, opens a contained activation: each effect that it held goes, in order, behind what
the core has still to release, and the context is held until the last has left; an open activation is left as it is.
Log entry 128 is the model's own reading here: the timestamp that an effect carries is that of its release. -/
def Obligations.EffectsAreHeldThenReleased : Prop :=
  (∀ (s : State) (e : Effect), First s → let t := s.did (s.emit s.keep e)
     (s.holding = true →
       t.my.hold = s.my.hold ++ [{ org := s.origin, eff := e, bytes := e.cost, after := s.speculative, ready := s.dev.now }] ∧
       t.dev = { s.dev with cores := t.dev.cores, last := .ran }) ∧
     (s.holding = false → (∀ h ∈ s.my.relq, h.org.act ≠ s.act.num) → s.act.mark = none →
       t.my.hold = s.my.hold ∧ t.my.relq = s.my.relq ∧
       ∃ ids : List Nat, ids.length = e.parts.length ∧ ids.Nodup ∧ ∀ j < ids.length, ∃ f, t.dev.flights.find (ids.getD j 0) = some f ∧
         f.org = s.origin ∧ some f.cargo = (e.parts[j]?).map Cargo.effect ∧ some f.place = (e.parts[j]?).map (s.bound s.here) ∧
         ∃ g ∈ t.dev.agenda, g.arg.a = ids.getD j 0 ∧ s.dev.now < g.at_ ∧ some g.ev = (e.parts[j]?).map Effect.arrival)) ∧
  (∀ s : State, First s → s.speculative = false →
     exec .openAct s = .next (s.did (s.opened s.keep)) ∧
     let t := s.did (s.opened s.keep)
     (s.act.open_ = true → t = s.did s.keep) ∧
     (s.act.open_ = false →
       let own := s.my.hold.filter fun h => h.org.act == s.act.num
       SameStorage s t ∧ t.me.act.open_ = true ∧ t.my.hold = s.my.hold.filter (fun h => h.org.act != s.act.num) ∧
       t.my.relq = s.my.relq ++ own.map (Held.stamped { s.act with open_ := true }) ∧ t.me.holds = (if own = [] then s.me.holds else .released :: s.me.holds)))

/-! ## Strided and indexed accesses, full/empty words, tags, block reads (R152 to R156) -/

/-- R153: VLDS and VLDX of near SRAM empty all 32 destination words, leave a fill pending on each, and begin to read one element at
each address: base + k × stride, or base + a signed 32-bit index.
R153: VSTS and VSTX of near SRAM outside speculation begin to write one element at each address and hold their context until the
last is written; in another mode each element is one effect, in ascending order.
Log entry 7 is the model's own reading here. -/
def Obligations.GathersAndScattersBegin : Prop :=
  (∀ (s : State) (d a b : Reg) (z : Size), Safe s → d.toNat < 16 →
     let n := Size.bytes z
     let begins (i : Instr) (regs : List Nat) (ea : Nat → Word) : Prop :=
       (∀ k < 256 / n, s.checkAccess .l (ea k) n n false = none ∧ s.lockTrap (ea k).toNat n false = none ∧
         s.localBehind (ea k).toNat n = false) →
       (s.speculative = true → s.linesFull (((((List.range (256 / n)).map ea).filter fun e =>
         !((s.forwards .l e.toNat n).all Option.isSome)).flatMap fun e => linesOf (nearKey s.here e.toNat) n).eraseDups) = false) →
       Ready s { src := regs, dst := s.srcV d } →
       ∃ t, exec i s = .next t ∧ t.dev.last = .ran ∧ t.mem = s.mem ∧
         (∀ w ∈ s.srcV d, t.tagOf w = .empty) ∧ (∀ w, w ∉ s.srcV d → t.tagOf w = s.tagOf w) ∧
         (∀ i < 32, ∃ f, t.dev.fills.find (s.dev.fresh + i) = some f ∧ f.core = s.here ∧ f.slot = s.slot ∧
           f.dst = some (s.vKey d + 8 * i) ∧ f.left = 8 / n) ∧
         ∃ r, t.my.strided = s.my.strided ++ [r] ∧ r.org = s.origin ∧ r.store = false ∧ r.size = n ∧ r.fill0 = s.dev.fresh ∧
           r.elems = (List.range (256 / n)).map fun k => { k := k, off := (ea k).toNat, bytes := s.forwards .l (ea k).toNat n : Elem }
     begins (.vlds d a b z .l) (s.srcW a ++ s.srcW b) (fun k => s.w a + BitVec.ofNat 64 k * s.w b) ∧
     begins (.vldx d a b z .l) (s.srcW a ++ s.srcV b)
       (fun k => s.w a + (((s.v b).extractLsb' (32 * k) 32 : BitVec 32).signExtend 64))) ∧
  (∀ (s : State) (d a b : Reg) (z : Size), d.toNat < 16 →
     let n := Size.bytes z
     let data (k : Nat) : List Byte := natBytes n ((s.v d).extractLsb' (8 * n * k) (8 * n)).toNat
     let begins (op : AddrMode → Instr) (regs : List Nat) (ea : Nat → Word) : Prop :=
       (s.speculative = false →
         (∀ k < 256 / n, s.checkAccess .l (ea k) n n true = none ∧ s.lockTrap (ea k).toNat n true = none ∧
           s.localBehind (ea k).toNat n = false) → s.regsReady regs = true →
         Ready s { src := regs, memPart := (List.range (256 / n)).flatMap fun k => s.partOf (ea k).toNat n } →
         ∃ t, exec (op .l) s = .next t ∧ t.dev.last = .ran ∧ SameStorage s t ∧ t.me = { s.me with holds := s.me.holds ++ [.elements] } ∧
           ∃ r, t.my.strided = s.my.strided ++ [r] ∧ r.org = s.origin ∧ r.store = true ∧ r.size = n ∧
             r.elems = (List.range (256 / n)).map fun k => { k := k, off := (ea k).toNat, bytes := (data k).map some : Elem }) ∧
       (∀ m, m ≠ .l → (∀ k < 256 / n, s.checkAccess m (ea k) n n true = none) →
         s.noRoom (256 / n * 16) = none → s.overflow (256 / n * 16) = none → Ready s { src := regs } →
         exec (op m) s = .next (s.did ((List.range (256 / n)).foldl
           (fun c k => s.emit c (.store m (ea k).toNat (data k))) s.keep)))
     begins (.vsts d a b z) (s.srcW a ++ s.srcW b ++ s.srcV d) (fun k => s.w a + BitVec.ofNat 64 k * s.w b) ∧
     begins (.vstx d a b z) (s.srcW a ++ s.srcV b ++ s.srcV d)
       (fun k => s.w a + (((s.v b).extractLsb' (32 * k) 32 : BitVec 32).signExtend 64)))

/-- R154: LDF waits while its word is EMPTY, else takes its value with latency 3 and, with `.take`, leaves it EMPTY; a local STE waits
while its word is FULL and otherwise stores the word and makes it FULL. Neither runs under speculation. -/
def Obligations.FullEmptyAccesses : Prop :=
  ∀ (s : State) (d a : Reg) (o : BitVec 6), Safe s →
    let ea := addr s a o 8
    let e := ea.toNat
    let w := nearKey s.here e / 8
    (s.speculative = true → ∀ i ∈ [Instr.ldfTake d a o, .ldfKeep d a o, .ste d a .l o], ∃ x, exec i s = .next (s.stood x)) ∧
    (s.speculative = false → s.localTrap ea 8 8 false = none → s.regsReady (s.srcW a) = true →
      (s.view.tagOf w = .empty →
        exec (.ldfTake d a o) s = .next (s.stood .tag) ∧ exec (.ldfKeep d a o) s = .next (s.stood .tag)) ∧
      (s.bankWait e 8 = none → Ready s { src := s.srcW a, dst := s.srcW d, mem := [w] } →
        let v := bytesWord ((List.range 8).map fun i => (s.view.nearBytes s.here (e + i) 1).headD 0)
        exec (.ldfTake d a o) s = .next (s.did (s.setW (((s.readDone s.keep e 8 []).setTag w .empty).tagSet s.here [w]) 3 d v)) ∧
        exec (.ldfKeep d a o) s = .next (s.did (s.setW (s.readDone s.keep e 8 []) 3 d v)))) ∧
    (s.speculative = false → s.localTrap ea 8 8 true = none → s.regsReady (s.srcW a ++ s.srcW d) = true →
      (s.view.tagOf w = .full → exec (.ste d a .l o) s = .next (s.stood .tag)) ∧
      (s.view.tagOf w = .empty → s.bankWait e 8 = none → Ready s { src := s.srcW a ++ s.srcW d, memPart := [w] } →
        ∃ t, exec (.ste d a .l o) s = .next t ∧ t.dev.last = .ran ∧ StorageOutside (within (nearKey s.here e) 8) s t ∧
          ((∀ j < 8, s.predHole s.here (e + j) = false) → t.wordAt (nearKey s.here e) = s.w d ∧
            (tagged (nearKey s.here e) = true → t.tagOf w = .full))))

/-- R155: TAGS sets the tags of one word or of 32 and changes no data; the value 11 traps with 0x087 and sets none; TAGR reads them
with latency 1. -/
def Obligations.TagAccesses : Prop :=
  ∀ (s : State) (d a b : Reg), Safe s →
    let ea := s.w a
    let w := nearKey s.here ea.toNat / 8
    let code (t : Tag) : Nat := match t with | .empty => 0 | .full => 1 | .poison => 2 | .res => 3
    ∀ k i r, (k = 1 ∧ i = Instr.tags a b ∧ r = Instr.tagr d a) ∨ (k = 32 ∧ i = Instr.tagsV a b ∧ r = Instr.tagrV d a) →
      (s.checkAccess .l ea (8 * k) 8 true = none → s.speculative = false → s.regsReady (s.srcW a ++ s.srcW b) = true →
        s.bankWait ea.toNat (8 * k) = none → Ready s { src := s.srcW a ++ s.srcW b } →
        (∀ j < k, (s.w b).toNat / 4 ^ j % 4 = 3 → exec i s = .next (s.raised (s.trap 0x087 ea (s.w b)))) ∧
        ((∀ j < k, (s.w b).toNat / 4 ^ j % 4 ≠ 3) → s.lockTrap ea.toNat (8 * k) true = none →
          ∃ t, exec i s = .next t ∧ t.dev.last = .ran ∧ t.mem = s.mem ∧
            (∀ j < k, code (t.tagOf (w + j)) = (s.w b).toNat / 4 ^ j % 4) ∧ (∀ x, x < w ∨ w + k ≤ x → t.tagOf x = s.tagOf x))) ∧
      (s.localTrap ea (8 * k) 8 false = none → s.bankWait ea.toNat (8 * k) = none →
        s.trackWait (nearKey s.here ea.toNat) (8 * k) = none → Ready s { src := s.srcW a, dst := s.srcW d } →
        exec r s = .next (s.did (s.setW (s.readDone s.keep ea.toNat (8 * k) []) 1 d
          (BitVec.ofNat 64 ((List.range k).map fun j => code (s.view.tagOf (w + j)) * 4 ^ j).sum))))

/-- R156: BREAD asks for each word of its range, which will arrive on the named channel in ascending order, and writes nothing; a
length or an address outside its limits traps with 0x088. -/
def Obligations.BlockReadsRequestTheirWords : Prop :=
  ∀ (s : State) (n : BitVec 6) (a b : Reg) (m : AddrMode), s.harvest = false → Ready s { src := s.srcW a ++ s.srcW b } →
    let ea := s.w a
    let len := (s.w b).toNat
    let fine := ea.toNat % 8 = 0 ∧ 8 ≤ len ∧ len ≤ 4096 ∧ (if n.toNat ≤ 15 then len % 256 = 0 else len % 8 = 0)
    (¬fine → exec (.bread n a b m) s = .next (s.raised (s.trap 0x088 ea (s.w b)))) ∧
    (fine → s.checkAccess m ea len 8 false = none →
      ∃ t, exec (.bread n a b m) s = .next t ∧ t.dev.last = .ran ∧ SameStorage s t ∧ t.dev.cores = s.dev.cores ∧
        ∃ id r, t.dev.breads.find id = some r ∧ r.core = s.here ∧ r.chan = n.toNat ∧ r.total = len / 8 ∧
          r.unit = (if n.toNat ≤ 15 then 32 else 1) ∧
          ∀ i < len / 8, ∃ j f, t.dev.flights.find j = some f ∧ f.cargo = .block id i 8 ∧ f.place = s.place s.here m (ea.toNat + 8 * i))

/-! ## Atomics (R157 to R159) -/

/-- R157, R158: an atomic with a return opens its activation, empties d, leaves a fill pending on it and goes to its executor; one
without a return is an effect outside `.core`. In `.core`, with a return or without, it replaces the word by the new value at once, and
the old value is on its way to d. The new values are those of the table of R158.
Log entry 24 is the model's own reading here. -/
def Obligations.AtomicsActAsTheirTables : Prop :=
  ∀ (s : State) (d a b : Reg) (sc : Scope), s.speculative = false →
    let md := match sc with | .core => AddrMode.l | .clu => .cd | _ => .g
    let ea := s.w a
    let x := s.w b
    let atomic (i : Instr) (op : AtomicOp) (n : Nat) (cmp : Word) (extra : List Nat) : Prop :=
      let regs := s.srcW a ++ s.srcW b ++ extra
      (d ≠ 0 → sc ≠ .core → s.noBstore md ea n = none → Ready s { src := regs, dst := s.srcW d } →
        exec i s = .next (s.did (s.leave (s.fill (s.opened s.keep) (s.fillW d) 1 none n false true)
          (.atomic sc op ea.toNat x cmp (some (s.opened s.keep).dev.fresh))))) ∧
      (d ≠ 0 → sc = .core → s.localTrap ea n n true = none → s.regsReady regs = true → s.bankWait ea.toNat n = none →
        (let w := nearKey s.here ea.toNat / 8
         s.tagOf w = .full ∧ w ≠ s.wKey d / 8 ∧ s.sramBad w = false ∧ s.sramSoft w = false ∧ s.atomicAhead (nearKey s.here ea.toNat) = false) →
        Ready s { src := regs, dst := s.srcW d } →
        let old : Word := BitVec.ofNat 64 (leNat (s.view.nearBytes s.here ea.toNat n))
        let c := (s.fill (s.opened s.keep) (s.fillW d) 1 none n false true).useBanks s.here (bankBits ea.toNat n)
        exec i s = .next (s.did ((s.localWrite c ea.toNat (natBytes n (op.eval old x cmp).toNat)).answer (s.opened s.keep).dev.fresh old))) ∧
      (d = 0 → sc ≠ .core → s.noBstore md ea n = none → s.noRoom 16 = none → s.overflow 16 = none → Ready s { src := regs } →
        exec i s = .next (s.did (s.emit s.keep (.atomic sc op ea.toNat x cmp none)))) ∧
      (d = 0 → sc = .core → s.localTrap ea n n true = none → s.regsReady regs = true → s.bankWait ea.toNat n = none →
        s.atomicAhead (nearKey s.here ea.toNat) = false → Ready s { src := regs, mem := s.nearWords ea.toNat n } →
        exec i s = .next (s.did (s.localWrite s.keep ea.toNat (natBytes n
          (op.eval (BitVec.ofNat 64 (leNat (s.view.nearBytes s.here ea.toNat n))) x cmp).toNat))))
    atomic (.amoAdd d a b sc) .add 8 0 [] ∧ atomic (.amoAnd d a b sc) .and 8 0 [] ∧ atomic (.amoOr d a b sc) .or 8 0 [] ∧
    atomic (.amoXor d a b sc) .xor 8 0 [] ∧ atomic (.amoMin d a b sc) .min 8 0 [] ∧ atomic (.amoMax d a b sc) .max 8 0 [] ∧
    atomic (.amoMinu d a b sc) .minu 8 0 [] ∧ atomic (.amoMaxu d a b sc) .maxu 8 0 [] ∧
    atomic (.cas d a b sc) .cas 8 (s.w d) (s.srcW d) ∧ atomic (.casXchg d a b sc) .xchg 8 0 [] ∧
    atomic (.famoFadd d a b sc) .fadd 4 0 [] ∧ atomic (.famoFmin d a b sc) .fmin 4 0 [] ∧ atomic (.famoFmax d a b sc) .fmax 4 0 [] ∧
    (∀ old x cmp : Word,
      AtomicOp.eval .add old x cmp = old + x ∧ AtomicOp.eval .and old x cmp = old &&& x ∧ AtomicOp.eval .or old x cmp = old ||| x ∧
      AtomicOp.eval .xor old x cmp = old ^^^ x ∧ AtomicOp.eval .min old x cmp = (if x.toInt < old.toInt then x else old) ∧
      AtomicOp.eval .max old x cmp = (if old.toInt < x.toInt then x else old) ∧
      AtomicOp.eval .minu old x cmp = (if x.toNat < old.toNat then x else old) ∧
      AtomicOp.eval .maxu old x cmp = (if old.toNat < x.toNat then x else old) ∧
      AtomicOp.eval .cas old x cmp = (if old = cmp then x else old) ∧ AtomicOp.eval .xchg old x cmp = x ∧
      AtomicOp.eval .fadd old x cmp = BitVec.ofNat 64 (Machine.fadd old.toNat x.toNat) ∧
      AtomicOp.eval .fmin old x cmp = BitVec.ofNat 64 (Machine.fmin old.toNat x.toNat) ∧
      AtomicOp.eval .fmax old x cmp = BitVec.ofNat 64 (Machine.fmax old.toNat x.toNat))

/-! ## Control flow (R94 to R97) -/

/-- R94: branches and calls, each setting the next group; a call leaves the address after its group in its link register.
R95, R97: LOOP opens the outer level, or the inner one when the outer is active, or skips its body when the count is 0; a body
that would end before it begins, or a count of 2^32 or more, traps with 0x183, and a third level with 0x182; LEXIT ends the innermost
active level and branches.
Log entry 27 is the model's own reading here. -/
def Obligations.BranchCallAndLoopResults : Prop :=
  (∀ (s : State) (d a : Reg) (q : BitVec 3) (i : BitVec 15),
     let there : Word := s.dev.cur.addr + BitVec.ofInt 64 (4 * i.toInt)
     let after : Word := s.dev.cur.addr + BitVec.ofNat 64 s.dev.cur.size
     let takes (j : Instr) (t : Word) : Prop := exec j s = .next (s.did (s.keep.me fun x => { x with next := some t }))
     let falls (j : Instr) : Prop := exec j s = .next (s.did s.keep)
     takes (.br i) there ∧
     (Ready s { src := s.srcP q } → (s.p q = true → takes (.brp q i) there) ∧ (s.p q = false → falls (.brp q i))) ∧
     (Ready s { src := s.srcW a } →
       (s.w a = 0 → takes (.brz a i) there ∧ falls (.bnz a i)) ∧ (s.w a ≠ 0 → falls (.brz a i) ∧ takes (.bnz a i) there) ∧
       takes (.bri a) (s.w a) ∧ takes (.ret a) (s.w a)) ∧
     (Ready s { dst := s.srcW a } →
       exec (.call a i) s = .next (s.did ((s.setW s.keep 1 a after).me fun x => { x with next := some there }))) ∧
     (Ready s { src := s.srcW a, dst := s.srcW d } →
       exec (.calli d a) s = .next (s.did ((s.setW s.keep 1 d after).me fun x => { x with next := some (s.w a) })))) ∧
  (∀ (s : State) (a : Reg) (i : BitVec 15),
     let c := (s.w a).toNat
     let e : Int := s.dev.cur.addr.toNat + 4 * i.toInt
     let body := (s.dev.cur.addr + BitVec.ofNat 64 s.dev.cur.size).toNat
     let x := s.me
     let ctx (f : Ctx → Ctx) : State := s.did (s.keep.me f)
     let opens (lcnt lbeg lend : Word) : Prop :=
       exec (.loop a i) s = .next (ctx fun x => { x with lcnt := lcnt, lbeg := lbeg, lend := lend })
     (Ready s { src := s.srcW a } →
       ((e < body ∨ 2 ^ 32 ≤ c) → exec (.loop a i) s = .next (s.raised (s.trap 0x183 (BitVec.ofInt 64 e) (s.w a)))) ∧
       (body ≤ e → 0 < c → c < 2 ^ 32 → x.lcnt.toNat % 2 ^ 32 = 0 →
         opens (BitVec.ofNat 64 (x.lcnt.toNat / 2 ^ 32 * 2 ^ 32 + c)) (BitVec.ofNat 64 (x.lbeg.toNat / 2 ^ 32 * 2 ^ 32 + body % 2 ^ 32))
           (BitVec.ofNat 64 (x.lend.toNat / 2 ^ 32 * 2 ^ 32 + (BitVec.ofInt 64 e).toNat % 2 ^ 32))) ∧
       (body ≤ e → 0 < c → c < 2 ^ 32 → x.lcnt.toNat % 2 ^ 32 ≠ 0 → x.lcnt.toNat / 2 ^ 32 = 0 →
         opens (BitVec.ofNat 64 (x.lcnt.toNat % 2 ^ 32 + c * 2 ^ 32)) (BitVec.ofNat 64 (x.lbeg.toNat % 2 ^ 32 + body % 2 ^ 32 * 2 ^ 32))
           (BitVec.ofNat 64 (x.lend.toNat % 2 ^ 32 + (BitVec.ofInt 64 e).toNat % 2 ^ 32 * 2 ^ 32))) ∧
       (body ≤ e → 0 < c → c < 2 ^ 32 → x.lcnt.toNat % 2 ^ 32 ≠ 0 → x.lcnt.toNat / 2 ^ 32 ≠ 0 →
         exec (.loop a i) s = .next (s.raised (s.trap 0x182 s.groupAddr 0))) ∧
       (body ≤ e → c = 0 → e + 4 ≤ 0x40000 → ∃ t, exec (.loop a i) s = .next t ∧ t.dev.last = .ran ∧ t.me = { s.me with
         next := some (BitVec.ofInt 64 e +
           (if leNat (s.nearBytes s.here e.toNat 4) < 2 ^ 31 then 8 else 4)) })) ∧
     exec (.lexit i) s = .next (ctx fun x => { x with
       next := some (s.dev.cur.addr + BitVec.ofInt 64 (4 * i.toInt))
       lcnt := if x.lcnt.toNat / 2 ^ 32 ≠ 0 then BitVec.ofNat 64 (x.lcnt.toNat % 2 ^ 32)
         else BitVec.ofNat 64 (x.lcnt.toNat / 2 ^ 32 * 2 ^ 32) }))

/-- R24, R96, R97: after a group has completed, the context goes on where a taken transfer says, with no level counting; otherwise the
loop-back step applies, the inner level first, and else the group in sequence follows. -/
def Obligations.GroupCompletionAndLoopBack : Prop :=
  ∀ (s : State) (p sl stall : Nat), (s.ctx p sl).live = true →
    let x := s.ctx p sl
    let a := s.dev.cur.addr.toNat
    let y := (s.completed p sl x.act.num stall).ctx p sl
    let in_ := x.lcnt.toNat / 2 ^ 32
    let out := x.lcnt.toNat % 2 ^ 32
    let inEnds := in_ ≠ 0 ∧ x.lend.toNat / 2 ^ 32 = a
    let outEnds := out ≠ 0 ∧ x.lend.toNat % 2 ^ 32 = a
    let seq : Word := s.dev.cur.addr + BitVec.ofNat 64 s.dev.cur.size
    (∀ t, x.next = some t → y.pc = t ∧ y.lcnt = x.lcnt) ∧
    (x.next = none →
      (inEnds → in_ ≠ 1 → y.pc = BitVec.ofNat 64 (x.lbeg.toNat / 2 ^ 32) ∧ y.lcnt.toNat / 2 ^ 32 = in_ - 1 ∧ y.lcnt.toNat % 2 ^ 32 = out) ∧
      (inEnds → in_ = 1 → y.lcnt.toNat / 2 ^ 32 = 0) ∧
      (¬inEnds → y.lcnt.toNat / 2 ^ 32 = in_) ∧
      (¬inEnds ∨ in_ = 1 →
        (outEnds → y.lcnt.toNat % 2 ^ 32 = out - 1 ∧ (out ≠ 1 → y.pc = BitVec.ofNat 64 (x.lbeg.toNat % 2 ^ 32)) ∧ (out = 1 → y.pc = seq)) ∧
        (¬outEnds → y.lcnt.toNat % 2 ^ 32 = out ∧ y.pc = seq))) ∧
    y.next = none ∧ y.lbeg = x.lbeg ∧ y.lend = x.lend ∧ s.dev.now + 1 + stall ≤ y.stallUntil

/-! ## Activations (R98 to R105, R108, R109) -/

/-- R98, R99: NOP does nothing; YIELD n keeps its context from issuing for the n cycles that follow and changes no register; DONE waits
while a fill is pending, and then ends the activation: its held effects go to the release queue behind those before, its tracks
without KEEP are unowned, the loop registers are 0 and the slot is free.
Log entry 128 is the model's own reading here: the timestamp that an effect carries is that of its release. -/
def Obligations.NopYieldAndDone : Prop :=
  ∀ (s : State) (k : BitVec 12), First s → exec .nop s = .next (s.did s.keep) ∧
    (∃ t, exec (.yield k) s = .next t ∧ t.dev.last = .ran ∧ SameStorage s t ∧ t.dev.cores = (if k = 0 then s.dev.cores else t.dev.cores) ∧
      t.me = (if k = 0 then s.me else { s.me with yieldUntil := s.dev.now + k.toNat + 1 })) ∧
    (s.anyFill s.here s.slot = true → exec .done s = .next (s.stood .fill)) ∧
    (s.anyFill s.here s.slot = false → s.slot = 15 → exec .done s = .next (s.raised (s.trapHere 0x184 15))) ∧
    (s.anyFill s.here s.slot = false → s.slot ≠ 15 → s.speculative = true →
      ∃ t, exec .done s = .next t ∧ t.dev.last = .ran ∧ SameStorage s t ∧
        t.me = { s.me with act := { s.me.act with ended := true } }) ∧
    (s.anyFill s.here s.slot = false → s.slot ≠ 15 → s.speculative = false →
      ∃ t, exec .done s = .next t ∧ t.dev.last = .ran ∧ SameStorage s t ∧ t.me.live = false ∧
        t.me.lcnt = 0 ∧ t.me.lbeg = 0 ∧ t.me.lend = 0 ∧ t.me.freeAt = s.dev.now ∧
        t.my.hold = s.my.hold.filter (fun h => h.org.act != s.act.num) ∧
        t.my.relq = s.my.relq ++ (s.my.hold.filter fun h => h.org.act == s.act.num).map (Held.stamped s.act) ∧
        t.my.endedTs.get 0 s.slot = max (s.my.endedTs.get 0 s.slot) s.act.ts ∧
        ∀ e ∈ t.my.tracks, e.2.owner = s.slot → e.2.keep = true)

/-- R100: START binds the lowest free helper slot: the context starts at RegW(a) with RegW(b) in w1, slot 0's MODE and identity, and
the binding count grown by 1; d is the token. Outside slot 0 it traps with 0x184, and it waits while no helper slot is free.
R101: JOIN waits while the slot is live with the token's binding count; then it takes the larger of its own timestamp and the one
that the slot keeps, in its entry of the commit queue too, and writes nothing. A token that names no other activation traps with 0x185. -/
def Obligations.HelpersStartAndJoin : Prop :=
  (∀ (s : State) (d a b : Reg) (p : BitVec 3), Safe s → s.speculative = false → Ready s { src := s.srcW a ++ s.srcW b, dst := s.srcW d } →
     (s.freeHelper = none → exec (.start d a b p) s = .next (s.stood .slot)) ∧
     (∀ sl, s.freeHelper = some sl → 1 ≤ sl ∧ sl ≤ 10 ∧ (s.my.ctx sl).live = false ∧
       (s.slot ≠ 0 → exec (.start d a b p) s = .next (s.raised (s.trapHere 0x184 (BitVec.ofNat 64 s.slot)))) ∧
       (s.slot = 0 → ∃ t, exec (.start d a b p) s = .next t ∧ t.dev.last = .ran ∧
         let n := (s.my.bindCount.get 0 sl + 1) % 2 ^ 32
         let y := t.ctx s.here sl
         y.live = true ∧ y.pc = BitVec.ofNat 64 (s.w a).toNat ∧ y.wp = s.my.wpbase + sl * 0x1200 ∧ y.mode = (s.my.ctx 0).mode ∧
         y.pid = (s.my.ctx 0).pid ∧ y.tenant = (s.my.ctx 0).tenant ∧ y.lcnt = 0 ∧ y.lbeg = 0 ∧ y.lend = 0 ∧ y.stallcnt = 0 ∧
         y.act.prio = p.toNat ∧ y.act.rep = false ∧ y.act.maySpec = false ∧ y.act.open_ = false ∧
         t.my.bindCount.get 0 sl = n ∧
         (let w1 := nearKey s.here (s.my.wpbase + sl * 0x1200 + 8)
          (d = 0 ∨ s.wKey d + 8 ≤ w1 ∨ w1 + 8 ≤ s.wKey d) → t.wordAt w1 = s.w b) ∧
         (d ≠ 0 → t.wordAt (s.wKey d) = BitVec.ofNat 64 (n * 65536 + sl))))) ∧
  (∀ (s : State) (a : Reg), s.harvest = false → Ready s { src := s.srcW a } →
     let t := (s.w a).toNat
     let sl := t % 16
     let n := t / 65536 % 2 ^ 32
     let good := 1 ≤ sl ∧ sl ≤ 10 ∧ t / 16 % 4096 = 0 ∧ t / 2 ^ 48 = 0 ∧ ¬(sl = s.slot ∧ s.my.bindCount.get 0 sl = n)
     let live := (s.my.ctx sl).live = true ∧ s.my.bindCount.get 0 sl = n
     (¬good → exec (.join a) s = .next (s.raised (s.trapHere 0x185 (s.w a)))) ∧
     (good → live → ∃ u, exec (.join a) s = .next u ∧ u.dev.last = .waits .join ∧ SameStorage s u ∧
       u.me = { s.me with joining := some sl }) ∧
     (good → ¬live → First s → let ts := max s.me.act.ts (s.my.endedTs.get 0 sl)
       ∃ u, exec (.join a) s = .next u ∧ u.dev.last = .ran ∧ SameStorage s u ∧
         u.me = { s.me with act := { s.me.act with ts := ts }, shadow := s.me.shadow.map fun h => { h with ts := ts } } ∧
         (∀ e ∈ (u.clu s.myCluster).commits, e.core = s.here → e.act = s.me.act.num → e.ts = ts) ∧
         OnlyMine (fun _ k => k) (fun t d => { d with clusters := t.clusters }) s u))

/-- R104, R105, R93: HSET writes the handler entry from its descriptor, HMASK.on and HMASK.off set and clear its MASK bit; a bad
descriptor traps with 0x189; in a harvest context all three trap with 0x18A.
R108, R109: EVRD gives the oldest event record of the context's tenant and removes it, EVRD.peek keeps it, and an empty queue gives
0; TRAP and BKPT raise 0x180 and 0x181 with their number, and bit 16 for a pair, and the group has no effect.
Log entry 36 is the model's own reading here. -/
def Obligations.HandlersEventsAndProgramTraps : Prop :=
  (∀ (s : State) (d : Reg) (k : BitVec 12), s.speculative = false →
     let v := (s.w d).toNat
     let old := s.my.handler k.toNat
     let bad := v / 2 ^ 32 ≠ 0 ∨ v / 2 ^ 18 % 16 ≠ 0 ∨ 4 < v / 2 ^ 29 % 8 ∨ v % 4 ≠ 0
     let sets (i : Instr) (h : Handler) : Prop := exec i s = .next (s.did (s.keep.mine fun c => { c with handlers := c.handlers.set k.toNat h }))
     (s.harvest = true → Ready s { src := s.srcW d } → ∀ i ∈ [Instr.hset d k, .hmaskOn k, .hmaskOff k],
       exec i s = .next (s.raised (s.trapHere 0x18A (BitVec.ofNat 64 s.slot)))) ∧
     (s.harvest = false →
       (Ready s { src := s.srcW d } →
         (bad → exec (.hset d k) s = .next (s.raised (s.trapHere 0x189 (s.w d)))) ∧
         (¬bad → sets (.hset d k) { narg := v / 2 ^ 29 % 8, spec := v.testBit 28, rep := v.testBit 27, ctl := v.testBit 26
                                    prio := v / 2 ^ 23 % 8, mask := v.testBit 22, entry := v % 2 ^ 18 })) ∧
       sets (.hmaskOn k) { old with mask := true } ∧
       sets (.hmaskOff k) { old with mask := false, from_ := if old.mask then s.dev.now + 1 else old.from_ })) ∧
  (∀ (s : State) (d : Reg) (k : BitVec 12), s.speculative = false →
     (s.harvest = false → Ready s { dst := s.srcW d } →
       (s.my.events.filter (fun e => e.1 == s.me.tenant) = [] →
         exec (.evrd d) s = .next (s.gaveW 1 d 0) ∧ exec (.evrdPeek d) s = .next (s.gaveW 1 d 0)) ∧
       (∀ r rest, s.my.events.filter (fun e => e.1 == s.me.tenant) = r :: rest →
         exec (.evrdPeek d) s = .next (s.gaveW 1 d r.2) ∧
         exec (.evrd d) s = .next (s.did (s.setW (s.keep.mine fun c => { c with events := c.events.erase r }) 1 d r.2)))) ∧
     (let pair := if s.dev.cur.size = 8 then 65536 else 0
      exec (.trap k) s = .next (s.raised (s.trapHere 0x180 (BitVec.ofNat 64 (k.toNat + pair)))) ∧
      exec (.bkpt k) s = .next (s.raised (s.trapHere 0x181 (BitVec.ofNat 64 (k.toNat + pair))))))

/-! ## Messages, tasks and graphs at the core (R102, R106, R107, R160, R194 to R196) -/

/-- R102: SPAWN offers a child to a core of the sub-mesh: after its checks it opens the activation, empties d, and sends the entry and
the arguments of its block; a retired target fills d with 0; a bad block traps with 0x188 and a target outside the sub-mesh with
0x186, before anything opens.
Log entries 35 and 119 are the model's own reading here. -/
def Obligations.SpawnOffersAChild : Prop :=
  ∀ (s : State) (d a b : Reg), s.harvest = false → s.speculative = false → s.regsReady (s.srcW a ++ s.srcW b) = true →
    let e := (s.w b).toNat
    let fwd := s.forwards .l e 48
    let word (i : Nat) : Word := bytesWord (s.readBytes (e + 8 * i) 8 (s.forwards .l (e + 8 * i) 8))
    let w0 := (word 0).toNat
    let w1 := (word 1).toNat
    let t := (s.w a).toNat
    let opened := s.opened (s.readDone s.keep e 48 fwd)
    let bad (o : Nat) : Prop := exec (.spawn d a b) s = .next (s.raised (s.trap 0x188 (s.w b) (BitVec.ofNat 64 o)))
    (Ready s { src := s.srcW a ++ s.srcW b, dst := s.srcW d } →
      (e % 8 ≠ 0 → bad 0) ∧ (e % 8 = 0 → 0x40000 ≤ e → bad 0) ∧ (e % 8 = 0 → e < 0x40000 → 0x40000 < e + 48 → bad (0x40000 - e))) ∧
    (e % 8 = 0 → e + 48 ≤ 0x40000 → s.lockTrap e 48 false = none → s.bankWait e 48 = none →
      Ready s { src := s.srcW a ++ s.srcW b, dst := s.srcW d, mem := s.readWords e 48 fwd } →
      ((2 ^ 18 ≤ w0 ∨ w0 % 4 ≠ 0) → bad 0) ∧ (w0 < 2 ^ 18 → w0 % 4 = 0 → 5 ≤ w1 → bad 8) ∧
      (w0 < 2 ^ 18 → w0 % 4 = 0 → w1 ≤ 4 →
        (s.inMesh t = false → exec (.spawn d a b) s = .next (s.raised (s.trap 0x186 (s.w a) 1))) ∧
        (s.inMesh t = true → s.retired t = true → exec (.spawn d a b) s = .next (s.did (s.fillSoon opened (s.fillW d) 0))) ∧
        (s.inMesh t = true → s.retired t = false → exec (.spawn d a b) s = .next (s.did
          (s.leave (s.fill opened (s.fillW d) 1) (.spawn t w0 ((List.range w1).map fun i => word (2 + i)) opened.dev.fresh))))))

/-- R106: SEND and SENDV make a message for a channel of a core as an effect; a target outside the sub-mesh traps with 0x186, a retired
one with 0x187, and a harvest context with 0x18A. SENDV's vector may come from a queue, which it pops. -/
def Obligations.SendsAreEffects : Prop :=
  ∀ (s : State) (n : BitVec 6) (a b : Reg),
    let t := (s.w a).toNat
    let sends (i : Instr) (regs : List Nat) (c : Change) (e : Effect) : Prop :=
      Ready s { src := regs } → s.noRoom e.cost = none → s.overflow e.cost = none →
      (s.harvest = true → exec i s = .next (s.raised (s.trapHere 0x18A (BitVec.ofNat 64 s.slot)))) ∧
      (s.harvest = false →
        (s.inMesh t = false → exec i s = .next (s.raised (s.trap 0x186 (s.w a) (BitVec.ofNat 64 n.toNat)))) ∧
        (s.inMesh t = true → s.retired t = true → exec i s = .next (s.raised (s.trap 0x187 (s.w a) (BitVec.ofNat 64 n.toNat)))) ∧
        (s.inMesh t = true → s.retired t = false → exec i s = .next (s.did (s.emit c e))))
    sends (.send n a b) (s.srcW a ++ s.srcW b) s.keep (.send t n.toNat [s.w b] false) ∧
    (s.harvest = true ∨ (s.queueWait [b] none = none ∧ s.srcTrap [b] none = none) →
      sends (.sendv n a b) (s.srcW a ++ (s.vsrc b).words) (s.popAll s.keep [b]) (.send t n.toNat (vecWords (s.vsrc b).val) true))

/-- R107: RECV and RECVV wait until the channel holds enough words; then they take them, empty the destination, and fill it 3 cycles
later, a poisoned word with its record; a message whose FSX is not the context's traps with 0x040 and nothing is popped. A message of
which some words stay remembers that the activation has begun to read it.
Log entries 16 and 117 are the model's own reading here. -/
def Obligations.ReceivesTakeWords : Prop :=
  ∀ (s : State) (d : Reg) (k : BitVec 12), s.harvest = false → s.speculative = false →
    let q := s.my.chans.get [] k.toNat
    let receives (i : Instr) (n : Nat) (dst : List Nat) (dsts : List (Option Nat)) : Prop := Ready s { dst := dst } →
      ((q.map fun m => (m.words.drop m.taken).length).sum < n → exec i s = .next (s.stood .channel)) ∧
      (∀ reached rest ws, takeWords n q = some (reached, rest, ws) →
        ws = ((q.flatMap fun m => m.delivered.drop m.taken).take n) ∧
        (∀ t, reached.findSome? s.fsxTrap = some t → exec i s = .next (s.raised t)) ∧
        (reached.findSome? s.fsxTrap = none →
          exec i s = .next (s.did ((dsts.zip ws).foldl (fun c e => s.fillWord c e.1 (s.dev.now + 3) e.2.1 e.2.2)
            (reached.foldl (fun c m => c.keepMsg { m with taken := 0 })
              (s.keep.mine fun c => { c with chans := c.chans.set k.toNat (readBegun s.act.num reached rest) }))))))
    receives (.recv d k) 1 (s.srcW d) [s.fillW d] ∧ (d.toNat < 16 → receives (.recvv d k) 32 (s.srcV d) (s.vecDsts d))

/-- R160: FENCE holds its context until its earlier loads have filled, and, when the activation is open, until what it has sent is
performed at its scope; a contained one leaves a mark in the hold buffer. REL opens, holds until all of it is performed, and marks what
follows. ACQ holds until the earlier loads have filled and opens nothing.
Log entry 37 is the model's own reading here. -/
def Obligations.FencesReleasesAcquires : Prop :=
  ∀ (s : State) (c : Scope),
    let holds (k : Change) (hs : List Hold) : Change := k.me fun x => { x with holds := x.holds ++ hs }
    exec (.acq c) s = .next (s.did (holds s.keep [.loads])) ∧
    (s.holding = false → exec (.fence c) s = .next (s.did (holds s.keep [.loads, .performed c]))) ∧
    (s.holding = true → s.noRoom 8 = none → s.overflow 8 = none →
      exec (.fence c) s = .next (s.did (holds (s.emit s.keep (.fence c)) [.loads]))) ∧
    (s.speculative = true → exec (.rel c) s = .next (s.stood .spec)) ∧
    (First s → s.speculative = false → ∃ t, exec (.rel c) s = .next t ∧ t.dev.last = .ran ∧ SameStorage s t ∧
      t.me.act.open_ = true ∧ t.me.act.mark = some c ∧ t.me.act.rels = (s.act.rels + 1) % 2 ^ 32 ∧
      .loads ∈ t.me.holds ∧ .performed c ∈ t.me.holds)

/-- R194 to R196: TASK sends an entry made from its block as an effect, after the checks of its block and then of its target; TSNOW gives the activation's timestamp and TSNOW.hz the commit
horizon; GLAUNCH opens the activation and hands its table to the graph engine, which fills d; GDONE signals a node of a graph.
Log entry 34 is the model's own reading here. -/
def Obligations.TaskAndGraphResults : Prop :=
  ∀ (s : State) (d a b : Reg), s.harvest = false →
    (Ready s { dst := s.srcW d } → exec (.tsnow d) s = .next (s.gaveW 1 d (BitVec.ofNat 64 s.act.ts)) ∧
      exec (.tsnowHz d) s = .next (s.gaveW 1 d (BitVec.ofNat 64 s.my.horizon))) ∧
    (s.speculative = false → Ready s { src := s.srcW a, dst := s.srcW d } →
      exec (.glaunch d a) s = .next (s.did (s.leave (s.fill (s.opened s.keep) (s.fillW d) 1)
        (.glaunch (s.w a) (s.opened s.keep).dev.fresh)))) ∧
    (s.noRoom 16 = none → s.overflow 16 = none → Ready s { src := s.srcW a } →
      (s.graphLaunch s.here = true → (s.w a).toNat < 65536 → exec (.gdone a) s = .next (s.did (s.emit s.keep (.gdone (s.w a).toNat)))) ∧
      (s.graphLaunch s.here = false ∨ 65536 ≤ (s.w a).toNat → exec (.gdone a) s = .next (s.raised (s.trapHere 0x18E (s.w a))))) ∧
    (let e := (s.w b).toNat
     let fwd := s.forwards .l e 32
     let w := (chunks 8 4 (s.readBytes e 32 fwd)).map bytesWord
     let w0 := (w.getD 0 0).toNat
     let w1 := (w.getD 1 0).toNat
     s.localTrap (s.w b) 32 1 false = none → s.regsReady (s.srcW a ++ s.srcW b) = true → s.bankWait e 32 = none →
     s.trackWait (nearKey s.here e) 32 = none → s.noRoom 48 = none → s.overflow 48 = none →
     e % 8 = 0 → Ready s { src := s.srcW a ++ s.srcW b, mem := s.readWords e 32 fwd } →
       ((2 ^ 18 ≤ w0 ∨ w0 % 4 ≠ 0) → exec (.task a b) s = .next (s.raised (s.trap 0x18D (s.w b) 0))) ∧
       (w0 < 2 ^ 18 → w0 % 4 = 0 → 2 ^ 32 ≤ w1 ∨ w1 < s.act.ts → exec (.task a b) s = .next (s.raised (s.trap 0x18D (s.w b) 8))) ∧
       (w0 < 2 ^ 18 → w0 % 4 = 0 → w1 < 2 ^ 32 → s.act.ts ≤ w1 → s.inMesh (s.w a).toNat = false →
         exec (.task a b) s = .next (s.raised (s.trap 0x186 (s.w a) 0))) ∧
       (w0 < 2 ^ 18 → w0 % 4 = 0 → w1 < 2 ^ 32 → s.act.ts ≤ w1 → s.inMesh (s.w a).toNat = true → s.retired (s.w a).toNat = true →
         exec (.task a b) s = .next (s.raised (s.trap 0x187 (s.w a) 0))) ∧
       (w0 < 2 ^ 18 → w0 % 4 = 0 → w1 < 2 ^ 32 → s.act.ts ≤ w1 → s.inMesh (s.w a).toNat = true → s.retired (s.w a).toNat = false →
         exec (.task a b) s = .next (s.did (s.emit (s.readDone s.keep e 32 fwd) (.task (s.w a).toNat (s.taskEntry w))))))

/-! ## Barriers and queries (R189 to R192, R297 to R299) -/

/-- R190, R297: an arrival at a barrier counts; the last of an epoch empties the count and begins the next epoch, and the others wait for
it, unless BARS goes ahead: then the activation becomes speculative with a commit entry at epoch + 1. Outside a graph launch the
activation's timestamp becomes the larger of its own and epoch + 1. A barrier without parties traps with 0x18C, the last epoch with
0x195.
R191, R192: BARI sets a barrier's parties and holds its context until the unit has acknowledged; a number outside 1 to 65,535 or a
barrier with arrivals traps with 0x18B. SPECQ fills d with the barrier's word as it stands when the fill lands, and SPECQ.self gives the
speculative state and the timestamp.
Log entry 38 is the model's own reading here. -/
def Obligations.BarrierInstructionResults : Prop :=
  (∀ (s : State) (i : BitVec 8) (j : Instr), First s → s.harvest = false → s.speculative = false →
     (j = .barw i ∨ (j = .bars i ∧ s.anyFill s.here s.slot = false ∧ s.me.pipe = [])) →
     let b := i.toNat
     let x := s.barrier s.here b
     let ts := if s.graphLaunch s.here then s.act.ts else max s.act.ts (x.epoch + 1)
     (x.parties = 0 → exec j s = .next (s.raised (s.trapHere 0x18C (BitVec.ofNat 64 b)))) ∧
     (x.parties ≠ 0 → x.epoch = 2 ^ 32 - 1 → exec j s = .next (s.raised (s.trapHere 0x195 (BitVec.ofNat 64 b)))) ∧
     (x.parties ≠ 0 → x.epoch ≠ 2 ^ 32 - 1 → (b < 64 ∨ s.launchOf s.here ≠ none) →
       ∃ t, exec j s = .next t ∧ t.dev.last = .ran ∧ SameStorage s t ∧ t.me.act.ts = ts ∧
         t.barrier s.here b = (if x.arrived + 1 = x.parties then { x with arrived := 0, epoch := x.epoch + 1 }
           else { x with arrived := x.arrived + 1 }) ∧
         (x.arrived + 1 = x.parties → t.me.holds = s.me.holds ∧ t.me.shadow = none) ∧
         (x.arrived + 1 ≠ x.parties → j = .barw i ∨ s.goesAhead x.epoch = false →
           t.me.holds = s.me.holds ++ [.barrier b x.epoch] ∧ t.me.shadow = none) ∧
         (x.arrived + 1 ≠ x.parties → j = .bars i → s.goesAhead x.epoch = true → t.me.shadow.isSome = true ∧ .copying ∈ t.me.holds ∧
           ∃ e ∈ (t.clu s.myCluster).commits, e.ts = x.epoch + 1 ∧ e.core = s.here ∧ e.slot = s.slot ∧ e.act = s.act.num))) ∧
  (∀ (s : State) (d a : Reg) (i : BitVec 8),
     let b := i.toNat
     let n := (s.w a).toNat
     let x := s.barrier s.here b
     (s.harvest = false → s.speculative = false → Ready s { src := s.srcW a } →
       (n = 0 ∨ 65536 ≤ n ∨ x.arrived ≠ 0 → exec (.bari a i) s = .next (s.raised (s.trapHere 0x18B (BitVec.ofNat 64 b)))) ∧
       (1 ≤ n → n < 65536 → x.arrived = 0 → (b < 64 ∨ s.launchOf s.here ≠ none) →
         ∃ t c, exec (.bari a i) s = .next t ∧ t.dev.last = .ran ∧ SameStorage s t ∧
           t.barrier s.here b = { x with parties := n, arrived := 0 } ∧ s.dev.now < c ∧ t.me = { s.me with holds := s.me.holds ++ [.until_ c 7] })) ∧
     (Ready s { dst := s.srcW d } →
       exec (.specqSelf d) s = .next (s.gaveW 1 d (BitVec.ofNat 64 ((if s.speculative then 2 ^ 63 else 0) + s.act.ts % 2 ^ 32))) ∧
       ∃ t id f, exec (.specq d i) s = .next t ∧ t.dev.last = .ran ∧ t.mem = s.mem ∧ t.dev.fills.find id = some f ∧
         f.core = s.here ∧ f.slot = s.slot ∧ f.dst = s.fillW d ∧ f.probe = some (s.here, b) ∧
         ∃ g ∈ t.dev.agenda, g.ev = .fill ∧ g.arg.a = id ∧ s.dev.now < g.at_))

/-! ## Vectors (R124 to R141) -/

namespace Sys2Proof.Claims

/-- A vector instruction with these vector sources, further source words and destination may issue: no queue operand makes it wait or
trap, and its words are ready. `act` are the active bytes, and `old` says that it reads its destination. -/
def VecReady (s : State) (d : Reg) (srcs : List Reg) (words : List Nat) (act : Nat → Bool) (old : Bool) : Prop :=
  s.queueWait srcs (some d) = none ∧ s.srcTrap srcs (some d) = none ∧
  Ready s { src := words ++ (srcs.flatMap fun c => (s.vsrc c).words) ++ (if old then s.readsDst d act else [])
            dst := if d.toNat < 16 then (wholeWords act).map (s.vKey d / 8 + ·) else []
            part := if d.toNat < 16 then (partWords act).map (s.vKey d / 8 + ·) else [] }
/-- It pops each popping source once and gives the vector `r`, in its active bytes, to its destination. -/
def VecGives (s : State) (i : Instr) (lat : Nat) (d : Reg) (srcs : List Reg) (act : Nat → Bool) (r : Vec) : Prop :=
  exec i s = .next (s.did (s.setV (s.popAll s.keep srcs) lat d act r))
/-- A vector instruction with another destination, in the same terms. -/
def FromReady (s : State) (srcs : List Reg) (words dst : List Nat) : Prop :=
  s.queueWait srcs none = none ∧ s.srcTrap srcs none = none ∧
  Ready s { src := words ++ srcs.flatMap fun c => (s.vsrc c).words, dst := dst }
/-- An element read as a signed number. -/
def signed (w x : Nat) : Int := if x < 2 ^ (w - 1) then x else x - 2 ^ w
/-- An element read signed or unsigned. -/
def reading (g : Bool) (w x : Nat) : Int := if g then signed w x else x
/-- The nearest number of a range of width `w`. -/
def nearest (g : Bool) (w : Nat) (x : Int) : Int :=
  let lo : Int := if g then -2 ^ (w - 1) else 0
  let hi : Int := if g then 2 ^ (w - 1) - 1 else 2 ^ w - 1
  if x < lo then lo else if hi < x then hi else x

end Sys2Proof.Claims

/-- R124: a vector result written to a register changes the bytes of its active lanes and no other byte; pushed, it carries zero in its
inactive bytes. A source code of 16 to 30 pops its queue once, and one of 0 to 15 pops nothing (R37, R38). -/
def Obligations.VectorWritesActiveBytes : Prop :=
  (∀ (s : State) (d : Reg) (act : Nat → Bool) (v : Vec), Safe s → d.toNat < 16 →
    let t := s.did (s.setV s.keep 1 d act v)
    t.dev = { s.dev with last := .ran } ∧
    (∀ b < 256, t.byte (s.vKey d + b) = if act b then v.extractLsb' (8 * b) 8 else s.byte (s.vKey d + b)) ∧
    (∀ k, k < s.vKey d ∨ s.vKey d + 256 ≤ k → t.byte k = s.byte k) ∧
    (∀ w, t.tagOf w ≠ s.tagOf w → ∃ b < 256, act b = true ∧ w = (s.vKey d + b) / 8)) ∧
  (∀ (s : State) (lat : Nat) (act : Nat → Bool) (v : Vec), ∃ z : Vec,
    (∀ b < 256, z.extractLsb' (8 * b) 8 = if act b then v.extractLsb' (8 * b) 8 else 0) ∧
    s.setV s.keep lat 16 act v =
      s.emit s.keep (.feed (vecWords z) 0x7F7F7F7F7F7F7F7F s.opCtx.lease.array s.opCtx.lease.serial) (lat - 1) ∧
    (∃ q, (s.did (s.setV s.keep lat 17 act v)).dev.cores.find (s.east s.myLogical) = some q ∧
      q.fromWest = (s.core (s.east s.myLogical)).fromWest ++ [{ id := s.dev.fresh, v := z }]) ∧
    (∃ q, (s.did (s.setV s.keep lat 18 act v)).dev.cores.find (s.west s.myLogical) = some q ∧
      q.fromEast = (s.core (s.west s.myLogical)).fromEast ++ [{ id := s.dev.fresh, v := z }])) ∧
  (∀ (s : State) (srcs : List Reg), (∀ c ∈ srcs, c.toNat < 16) → s.popAll s.keep srcs = s.keep) ∧
  (∀ (s : State) (c : Reg) (m : Msg) (rest : List Msg), 16 ≤ c.toNat → c.toNat ≤ 27 →
    s.my.chans.get [] (c.toNat - 12) = m :: rest →
    (s.vsrc c).val = wordsVec (m.delivered.map fun w => w.1) ∧
    (s.did (s.popAll s.keep [c, c])).my.chans.get [] (c.toNat - 12) = rest) ∧
  (∀ (s : State) (t : Tow) (rest : List Tow), t.ready = true →
    (s.my.fromWest = t :: rest → (s.vsrc 28).val = t.v ∧ (s.did (s.popAll s.keep [28, 28])).my.fromWest = rest) ∧
    (s.my.fromEast = t :: rest → (s.vsrc 29).val = t.v ∧ (s.did (s.popAll s.keep [29, 29])).my.fromEast = rest)) ∧
  (∀ (s : State) (v : ResultVec) (rest : List ResultVec), (s.arr s.myArray).q2 = v :: rest → s.ownsResults = true →
    (s.holding = false ∨ s.heldPush = false) → v.entered = true → v.due < s.dev.now →
    (s.vsrc 30).val = wordsVec v.words ∧ ((s.did (s.popAll s.keep [30, 30])).arr s.myArray).q2 = rest)

/-- R129 to R131: the vector integer instructions, element by element at the width of e: each active element takes the stated value, with
latency 2, or 4 for VMAC and VDOT, which with VCLAMP read their destination. -/
def Obligations.VectorIntegerResults : Prop :=
  ∀ (s : State) (d a b : Reg) (m : BitVec 3) (e : EW) (g : BitVec 2),
    let w := match e with | .w32 => 32 | .w16 => 16 | .w8 => 8
    let act := maskBytes (s.m m)
    let A := (s.vsrc a).val
    let B := (s.vsrc b).val
    let gives (i : Instr) (lat w : Nat) (srcs : List Reg) (f : Nat → Int) : Prop :=
      ∃ r : Vec, VecGives s i lat d srcs act r ∧ ∀ k < 2048 / w, (lane w r k : Int) = f k % 2 ^ w
    let x (k : Nat) : Int := lane w A k
    let y (k : Nat) : Int := lane w B k
    let X (h : Bool) (k : Nat) : Int := reading h w (lane w A k)
    let Y (h : Bool) (k : Nat) : Int := reading h w (lane w B k)
    let n (k : Nat) : Nat := lane w B k
    (VecReady s d [a, b] (s.srcM m) act false →
      gives (.vadd d a b m e) 2 w [a, b] (fun k => x k + y k) ∧ gives (.vsub d a b m e) 2 w [a, b] (fun k => x k - y k) ∧
      gives (.vmul d a b m e) 2 w [a, b] (fun k => x k * y k) ∧
      gives (.vmulhI d a b m e) 2 w [a, b] (fun k => X true k * Y true k / 2 ^ w) ∧
      gives (.vmulhN d a b m e) 2 w [a, b] (fun k => x k * y k / 2 ^ w) ∧
      gives (.vand d a b m e) 2 w [a, b] (fun k => (lane w A k &&& lane w B k : Nat)) ∧
      gives (.vor d a b m e) 2 w [a, b] (fun k => (lane w A k ||| lane w B k : Nat)) ∧
      gives (.vxor d a b m e) 2 w [a, b] (fun k => (lane w A k ^^^ lane w B k : Nat)) ∧
      gives (.vshl d a b m e) 2 w [a, b] (fun k => if w ≤ n k then 0 else x k * 2 ^ n k) ∧
      gives (.vshr d a b m e) 2 w [a, b] (fun k => if w ≤ n k then 0 else x k / 2 ^ n k) ∧
      gives (.vsra d a b m e) 2 w [a, b] (fun k => X true k / 2 ^ min (n k) (w - 1)) ∧
      gives (.vminI d a b m e) 2 w [a, b] (fun k => min (X true k) (Y true k)) ∧
      gives (.vminN d a b m e) 2 w [a, b] (fun k => min (x k) (y k)) ∧
      gives (.vmaxI d a b m e) 2 w [a, b] (fun k => max (X true k) (Y true k)) ∧
      gives (.vmaxN d a b m e) 2 w [a, b] (fun k => max (x k) (y k)) ∧
      gives (.vaddsatI d a b m e) 2 w [a, b] (fun k => nearest true w (X true k + Y true k)) ∧
      gives (.vaddsatN d a b m e) 2 w [a, b] (fun k => nearest false w (x k + y k)) ∧
      gives (.vsubsatI d a b m e) 2 w [a, b] (fun k => nearest true w (X true k - Y true k)) ∧
      gives (.vsubsatN d a b m e) 2 w [a, b] (fun k => nearest false w (x k - y k)) ∧
      ∀ h i, (h = true ∧ i = Instr.vrshrI d a b m e) ∨ (h = false ∧ i = Instr.vrshrN d a b m e) →
        gives i 2 32 [a, b] fun k =>
          let v := reading h 32 (lane 32 A k)
          let n := min (lane 32 B k) 63
          nearest h w (if n = 0 then v else (v + 2 ^ (n - 1)) / 2 ^ n)) ∧
    (VecReady s d [a] (s.srcM m) act false → gives (.vabs d a m e) 2 w [a] fun k => (X true k).natAbs) ∧
    (VecReady s d [a, b] (s.srcM m) act true →
      let D := s.v d
      let byte (h : Bool) (v : Vec) (k j : Nat) : Int := reading h 8 (lane 8 v (4 * k + j))
      ∀ h, (∀ i, (h = true ∧ i = Instr.vclampI d a b m e) ∨ (h = false ∧ i = Instr.vclampN d a b m e) →
          gives i 2 w [a, b] fun k => max (Y h k) (min (X h k) (reading h w (lane w D k)))) ∧
        (∀ i, (h = true ∧ i = Instr.vmacI d a b m g) ∨ (h = false ∧ i = Instr.vmacN d a b m g) →
          gives i 4 32 [a, b] fun k => lane 32 D k + byte h A k g.toNat * byte h B k g.toNat) ∧
        ∀ i, (h = true ∧ i = Instr.vdotI d a b m) ∨ (h = false ∧ i = Instr.vdotN d a b m) →
          gives i 4 32 [a, b] fun k => lane 32 D k + byte h A k 0 * byte h B k 0 + byte h A k 1 * byte h B k 1 +
            byte h A k 2 * byte h B k 2 + byte h A k 3 * byte h B k 3)

/-- R135, R137: the data-movement instructions, by the element that each destination element takes. VINS writes one element, VSEL every
lane. -/
def Obligations.VectorMovesResults : Prop :=
  ∀ (s : State) (d a b : Reg) (m : BitVec 3) (e : EW) (u h : Bool),
    let w := match e with | .w32 => 32 | .w16 => 16 | .w8 => 8
    let N := 2048 / w
    let act := maskBytes (s.m m)
    let A := (s.vsrc a).val
    let B := (s.vsrc b).val
    let gives (i : Instr) (w : Nat) (srcs : List Reg) (act : Nat → Bool) (f : Nat → Int) : Prop :=
      ∃ r : Vec, VecGives s i 2 d srcs act r ∧ ∀ k < 2048 / w, (lane w r k : Int) = f k % 2 ^ w
    (VecReady s d [a] (s.srcM m ++ []) act false →
      VecGives s (.vmov d a m) 2 d [a] act A ∧
      gives (.vunpk d a u h m e) (2 * w) [a] act (fun k => reading u w (lane w A (k + if h then 1024 / w else 0)))) ∧
    (VecReady s d [] (s.srcM m ++ s.srcW a) act false →
      gives (.vsplat d a m e) w [] act (fun _ => (s.w a).toNat) ∧ gives (.viota d a m e) w [] act (fun k => (s.w a).toNat + k)) ∧
    (VecReady s d [a, b] (s.srcM m ++ []) act false →
      gives (.vperm d a b m e) w [a, b] act (fun k => lane w A (lane w B k % N)) ∧
      gives (.vpack d a b m e) w [a, b] act
        (fun k => if k < N / 2 then lane (2 * w) A k else lane (2 * w) B (k - N / 2))) ∧
    (VecReady s d [a] (s.srcM m ++ s.srcW b) act false →
      gives (.vrot d a b m e) w [a] act (fun k => lane w A ((k + (s.w b).toNat) % N)) ∧
      gives (.vslide d a b m e) w [a] act (fun k =>
        let j := k - (s.w b).toInt
        if 0 ≤ j ∧ j < N then lane w A j.toNat else 0)) ∧
    (VecReady s d [a, b] (s.srcM m) (fun _ => true) false →
      gives (.vsel d a b m) 32 [a, b] (fun _ => true) (fun k => if (s.m m).getLsbD k then lane 32 A k else lane 32 B k)) ∧
    (let j := (s.w b).toNat % N
     let one (x : Nat) : Bool := act x && decide (x / (w / 8) = j)
     VecReady s d [] (s.srcM m ++ s.srcW a ++ s.srcW b) one false →
      ∃ r : Vec, VecGives s (.vins d a b m e) 2 d [] one r ∧ lane w r j = (s.w a).toNat % 2 ^ w)

/-- R132, R135, R136, R138: the vector instructions with a mask or a scalar result. VCMP's mask has a bit for each lane whose elements all
satisfy the condition. VRED's integer results do not depend on order; its FP results come from the pairwise tree, with the identities
−0, +Inf and −Inf for inactive lanes. -/
def Obligations.VectorToScalarResults : Prop :=
  ∀ (s : State) (d a b : Reg) (m q n : BitVec 3) (c : VCond) (e : EW),
    let w := match e with | .w32 => 32 | .w16 => 16 | .w8 => 8
    let A := (s.vsrc a).val
    let B := (s.vsrc b).val
    let holds (x y : Int) : Prop := match c with
      | .eq => x = y | .ne => x ≠ y | .lt => x < y | .le => x ≤ y | .gt => y < x | .ge => y ≤ x
    (FromReady s [a, b] [] (s.srcM m) →
      ∀ g i, (g = true ∧ i = Instr.vcmpI m a b c e) ∨ (g = false ∧ i = Instr.vcmpN m a b c e) →
        ∃ r, exec i s = .next (s.did (s.setM (s.popAll s.keep [a, b]) 2 m r)) ∧
          ∀ l < 64, r.getLsbD l = true ↔
            ∀ k < 2048 / w, k * w / 32 = l → holds (reading g w (lane w A k)) (reading g w (lane w B k))) ∧
    (FromReady s [a] (s.srcW b) (s.srcW d) →
      exec (.vext d a b e) s = .next (s.did (s.setW (s.popAll s.keep [a]) 2 d
        (BitVec.ofNat 64 (lane w A ((s.w b).toNat % (2048 / w))))))) ∧
    (FromReady s [a] (s.srcM m) (s.srcW d) →
      let active (k : Nat) : Bool := (s.m m).getLsbD (k * w / 32)
      let N := ((List.range (2048 / w)).filter active).map (lane w A)
      let Z := N.map (signed w)
      let red (o : Reg) (lat : Nat) (v : Word) : Prop :=
        exec (.vred d a o m e) s = .next (s.did (s.setW (s.popAll s.keep [a]) lat d v))
      red 0 2 (BitVec.ofInt 64 Z.sum) ∧ red 1 2 (BitVec.ofNat 64 N.sum) ∧
      red 2 2 (BitVec.ofInt 64 (Z.foldl min (2 ^ (w - 1) - 1))) ∧ red 3 2 (BitVec.ofNat 64 (N.foldl min (2 ^ w - 1))) ∧
      red 4 2 (BitVec.ofInt 64 (Z.foldl max (-2 ^ (w - 1)))) ∧ red 5 2 (BitVec.ofNat 64 (N.foldl max 0)) ∧
      red 6 2 (BitVec.ofNat 64 (N.foldl (· &&& ·) (2 ^ w - 1))) ∧ red 7 2 (BitVec.ofNat 64 (N.foldl (· ||| ·) 0)) ∧
      red 8 2 (BitVec.ofNat 64 (N.foldl (· ^^^ ·) 0)) ∧
      (e = .w32 → ∀ o : Reg, ∀ (op : Nat → Nat → Nat) (unit : Nat),
        (o = 9 ∧ op = Machine.fadd ∧ unit = 0x80000000) ∨ (o = 10 ∧ op = Machine.fmin ∧ unit = 0x7F800000) ∨
          (o = 11 ∧ op = Machine.fmax ∧ unit = 0xFF800000) →
        ∃ x : Nat → Nat → Nat, (∀ k < 64, x 0 k = if active k then lane 32 A k else unit) ∧
          (∀ j < 6, ∀ k < 2 ^ (5 - j), x (j + 1) k = op (x j (2 * k)) (x j (2 * k + 1))) ∧ red o 4 (BitVec.ofNat 64 (x 6 0)))) ∧
    (Ready s { src := s.srcM q ++ s.srcM n, dst := s.srcM m } →
      exec (.mand m q n) s = .next (s.gaveM 2 m (s.m q &&& s.m n)) ∧ exec (.mor m q n) s = .next (s.gaveM 2 m (s.m q ||| s.m n)) ∧
      exec (.mxor m q n) s = .next (s.gaveM 2 m (s.m q ^^^ s.m n))) ∧
    (Ready s { src := s.srcM q ++ s.srcM q, dst := s.srcM m } → exec (.mnot m q) s = .next (s.gaveM 2 m (~~~s.m q))) ∧
    (Ready s { src := s.srcM q, dst := s.srcW d } →
      exec (.mpop d q) s = .next (s.gaveW 2 d (BitVec.ofNat 64 ((List.range 64).filter fun k => (s.m q).getLsbD k).length)))

/-- R133, R134: the vector FP32 instructions, lane by lane: exact and rounded once to nearest even, with the special results of R134's
table. (That the model's exact functions exp2, log2 and rsq have the values of 2^A, log2 A and 1/√A is not stated here.) -/
def Obligations.VectorFloatResults : Prop :=
  ∀ (s : State) (d a b : Reg) (m : BitVec 3),
    let act := maskBytes (s.m m)
    let rne (z : Machine.Num) : Nat := roundNum false .f32 .rne 0 z
    let val (v : Vec) (k : Nat) : Machine.Num := decodeNum false .f32 (lane 32 v k)
    let A := (s.vsrc a).val
    let B := (s.vsrc b).val
    let gives (i : Instr) (lat : Nat) (srcs : List Reg) (P : Nat → Nat → Prop) : Prop :=
      ∃ r : Vec, VecGives s i lat d srcs act r ∧ ∀ k < 64, P k (lane 32 r k)
    (VecReady s d [a, b] (s.srcM m) act false →
      gives (.vfadd d a b m) 4 [a, b] (fun k z => z = rne ((val A k).add (val B k))) ∧
      gives (.vfsub d a b m) 4 [a, b] (fun k z => z = rne ((val A k).add (val B k).neg)) ∧
      gives (.vfmul d a b m) 4 [a, b] (fun k z => z = rne ((val A k).mul (val B k))) ∧
      (∀ g i, (g = true ∧ i = Instr.vfmin d a b m) ∨ (g = false ∧ i = Instr.vfmax d a b m) →
        gives i 4 [a, b] fun k z =>
          let u := lane 32 A k
          let v := lane 32 B k
          if val A k = .nan ∨ val B k = .nan then z = 0x7FC00000
          else (z = u ∨ z = v) ∧
            (((val A k).cmp (val B k) = some .lt ∨ ((val A k).cmp (val B k) = some .eq ∧ 2 ^ 31 ≤ u ∧ v < 2 ^ 31)) →
              z = if g then u else v) ∧
            (((val A k).cmp (val B k) = some .gt ∨ ((val A k).cmp (val B k) = some .eq ∧ u < 2 ^ 31 ∧ 2 ^ 31 ≤ v)) →
              z = if g then v else u))) ∧
    (VecReady s d [a, b] (s.srcM m) act true →
      gives (.vffma d a b m) 4 [a, b] (fun k z => z = rne (((val A k).mul (val B k)).add (val (s.v d) k)))) ∧
    (VecReady s d [a] (s.srcM m) act false →
      let table (i : Instr) (nan pinf ninf pz nz : Nat) (neg : Option Nat) : Prop :=
        gives i 8 [a] fun k z =>
          let u := lane 32 A k
          (val A k = .nan → z = nan) ∧ (u = 0x7F800000 → z = pinf) ∧ (u = 0xFF800000 → z = ninf) ∧ (u = 0 → z = pz) ∧
          (u = 0x80000000 → z = nz) ∧ (∀ x, neg = some x → 0x80000000 < u → u < 0xFF800000 → z = x)
      table (.vfexp2 d a m) 0x7FC00000 0x7F800000 0 0x3F800000 0x3F800000 none ∧
      table (.vflog2 d a m) 0x7FC00000 0x7F800000 0x7FC00000 0xFF800000 0xFF800000 (some 0x7FC00000) ∧
      table (.vfrcp d a m) 0x7FC00000 0 0x80000000 0x7F800000 0xFF800000 none ∧
      table (.vfrsq d a m) 0x7FC00000 0 0x7FC00000 0x7F800000 0xFF800000 (some 0x7FC00000) ∧
      gives (.vfrcp d a m) 8 [a] (fun k z => z = rne (Machine.Num.div (.fin false 1 0) (val A k))) ∧
      gives (.vfexp2 d a m) 8 [a] (fun k z => z = rne (val A k).exp2) ∧ gives (.vflog2 d a m) 8 [a] (fun k z => z = rne (val A k).log2) ∧
      gives (.vfrsq d a m) 8 [a] (fun k z => z = rne (val A k).rsq))

/-- R139 to R141: VCVT and VCVTS convert all 64 elements with latency 3, no mask, one rounding each, and 64 draws of SRSEED under `.sr`;
above a narrow result of VCVT stand zeros. VCVTS scales element k by the E8M0 code in byte k/48 of word 31 of the narrow side and,
scaling in, keeps that word.
Log entries 8 and 26 are the model's own reading here: `.sr` leaves a SRSEED that the pair's other word has written. -/
def Obligations.VectorConversionResults : Prop :=
  ∀ (s : State) (d a : Reg) (x : Fmt) (c : Rnd) (int r : Bool),
    let n := fmtBits x
    let A := (s.vsrc a).val
    let wide := if int then Fmt.i32 else .f32
    let seed (k : Nat) : Word := Nat.repeat srStep (k + 1) s.opCtx.srseed
    let draw (k : Nat) : Nat := if c = .sr then srDraw (seed k) else 0
    let converts (i : Instr) (words : List Nat) (act : Nat → Bool) (e : Nat → Nat) (width : Nat) : Prop :=
      s.queueWait [a] (some d) = none → s.srcTrap [a] (some d) = none →
      Ready s { src := words ++ (s.vsrc a).words, dst := if d.toNat < 16 then (wholeWords act).map (s.vKey d / 8 + ·) else [] } →
      ∃ v : Vec, exec i s = .next (s.did (
          let w := s.setV (s.popAll s.keep [a]) 3 d act v
          if c = .sr then w.me fun y => if y.srseed = s.opCtx.srseed then { y with srseed := seed 63 } else y else w)) ∧
        (∀ k < 64, (v.extractLsb' (width * k) width).toNat = e k % 2 ^ width) ∧ ∀ j, 64 * width ≤ j → v.getLsbD j = false
    converts (.vcvt d a x c int r) [] (fun _ => true)
      (fun k => if r then roundNum s.fsx x c (draw k) (decodeNum s.fsx wide (lane 32 A k))
        else roundNum s.fsx wide c (draw k) (decodeNum s.fsx x (A.extractLsb' (n * k) n).toNat))
      (if r then n else 32) ∧
    (let side := if r then d else a
     let code (k : Nat) : Nat := (s.v side).toNat / 2 ^ (1984 + 8 * (k / 48)) % 256
     let scaled (k : Nat) (z : Machine.Num) : Machine.Num :=
       if code k = 255 then .nan else z.scale (if r then 127 - (code k : Int) else (code k : Int) - 127)
     side.toNat < 16 →
     converts (.vcvts d a x c r) [s.vKey side / 8 + 31] (fun j => !r || decide (j < 248))
      (fun k => if r then roundNum s.fsx x c (draw k) (scaled k (decodeNum false .f32 (lane 32 A k)))
        else roundNum s.fsx .f32 c (draw k) (scaled k (decodeNum s.fsx x (A.extractLsb' (n * k) n).toNat)))
      (if r then n else 32))

/-! ## Wide accumulators (R84, R85, R142 to R144) -/

/-- R142 to R144: the wide accumulators: ACCZ zeroes V and X; ACCW and ACCWV add exact values or products, or their negations, and hold
their context for the spans; ACCRD reads rounded, ACCRW one word of V, `.x` X, and the store forms write them. In a harvest context each
traps with 0x041 and the accumulator's number, under speculation each waits, and while another context's addition runs each waits.
Log entries 8, 19 and 116 are the model's own reading here. -/
def Obligations.WideAccumulatorResults : Prop :=
  ∀ (s : State) (d a x j : Reg) (n : BitVec 3) (c : Rnd) (neg : Bool),
    let all : List (Instr × List Nat × List Nat) := [(.accz n, [], []), (.accw n a neg, s.srcW a, []),
      (.accwMul n a x neg, s.srcW a ++ s.srcW x, []), (.accrd d n c, [], s.srcW d), (.accrw d n j, [], s.srcW d), (.accrwX d n, [], s.srcW d),
      (.accrwSt d n j, s.srcW d, []), (.accrwStx d n, s.srcW d, []), (.accwv n a neg, (s.vsrc a).words, []),
      (.accwvMul n a x neg, (s.vsrc a).words ++ (s.vsrc x).words, [])]
    let W := s.wide n
    let f (v : Word) : Machine.Num := decodeNum false .f32 (v.toNat % 2 ^ 32)
    let adds (i : Instr) (src : List Nat) (srcs : List Reg) (ts : List Machine.Num) : Prop :=
      Ready s { src := src } → s.queueWait srcs none = none → s.srcTrap srcs none = none →
      ∃ t u, exec i s = .next t ∧ t.dev.last = .ran ∧ SameStorage s t ∧
        t.wide n = (ts.foldl (fun acc z => (wideAdd acc (if neg then z.neg else z)).1) W) ∧
        (∀ k, k ≠ n → t.wide k = s.wide k) ∧ ts.length ≤ u ∧ u ≤ 10 * ts.length ∧
        t.my.accUntil = s.dev.now + u ∧ t.my.accSlot = s.slot ∧ Hold.until_ (s.dev.now + u) ∈ t.me.holds
    (s.harvest = true → ∀ i ∈ all, Ready s { src := i.2.1, dst := i.2.2 } →
      exec i.1 s = .next (s.raised (s.trapHere 0x041 (BitVec.ofNat 64 n.toNat)))) ∧
    (s.harvest = false → s.speculative = true → ∀ i ∈ all, Ready s { src := i.2.1, dst := i.2.2 } → exec i.1 s = .next (s.stood .spec)) ∧
    (s.harvest = false → s.speculative = false → s.my.accSlot ≠ s.slot → s.dev.now < s.my.accUntil →
      ∀ i ∈ all, Ready s { src := i.2.1, dst := i.2.2 } → exec i.1 s = .next (s.stood .accum)) ∧
    (s.harvest = false → s.speculative = false → (s.my.accSlot = s.slot ∨ s.my.accUntil ≤ s.dev.now) →
      (Ready s {} → exec (.accz n) s = .next (s.did (s.keep.mine fun k => { k with wide := k.wide.set n.toNat { v := 0, x := 0 } }))) ∧
      adds (.accw n a neg) (s.srcW a) [] [f (s.w a)] ∧
      adds (.accwMul n a x neg) (s.srcW a ++ s.srcW x) [] [(f (s.w a)).mul (f (s.w x))] ∧
      adds (.accwv n a neg) (s.vsrc a).words [a] ((List.range 64).map fun k => decodeNum false .f32 (lane 32 (s.vsrc a).val k)) ∧
      adds (.accwvMul n a x neg) ((s.vsrc a).words ++ (s.vsrc x).words) [a, x] ((List.range 64).map fun k =>
        (decodeNum false .f32 (lane 32 (s.vsrc a).val k)).mul (decodeNum false .f32 (lane 32 (s.vsrc x).val k))) ∧
      (Ready s { dst := s.srcW d } →
        (c ≠ .sr → exec (.accrd d n c) s = .next (s.gaveW 3 d (BitVec.ofNat 64 (wideRead W c 0)))) ∧
        exec (.accrd d n .sr) s = .next (s.did ((s.setW s.keep 3 d
          (BitVec.ofNat 64 (wideRead W .sr (srDraw (srStep s.opCtx.srseed))))).me fun y =>
            if y.srseed = s.opCtx.srseed then { y with srseed := srStep s.opCtx.srseed } else y)) ∧
        (j.toNat < 10 → exec (.accrw d n j) s = .next (s.gaveW 1 d (BitVec.ofNat 64 (W.v.toNat / 2 ^ (64 * j.toNat) % 2 ^ 64)))) ∧
        exec (.accrwX d n) s = .next (s.gaveW 1 d (BitVec.ofNat 64 W.x.toNat))) ∧
      (Ready s { src := s.srcW d } →
        (j.toNat < 10 → ∃ v : BitVec 640, exec (.accrwSt d n j) s =
            .next (s.did (s.keep.mine fun k => { k with wide := k.wide.set n.toNat { W with v := v } })) ∧
          ∀ i < 10, v.extractLsb' (64 * i) 64 = if i = j.toNat then s.w d else W.v.extractLsb' (64 * i) 64) ∧
        ((s.w d).toNat < 4 → exec (.accrwStx d n) s =
          .next (s.did (s.keep.mine fun k => { k with wide := k.wide.set n.toNat { W with x := (s.w d).setWidth 2 } }))) ∧
        (4 ≤ (s.w d).toNat → exec (.accrwStx d n) s = .next (s.raised (s.illegal 3)))))

/-! ## Tracks (R164 to R173) -/

/-- R166, R168, R169, R172: the instructions that change a track's head state. The owner's TFREE, TSHARE, TSEEK, TSTEP and TREW act at
once, a shift starting in the next cycle when the target differs and no correction holds the track; TOWN takes a track that is unowned or the context's own, and waits for
another owner's; TWAIT waits while the track is busy; THEAD reads the head-state word as the cycle before left it; TALIGN starts the
correction. Another context's
instruction traps with 0x102. No storage changes, and no other track of the core.
Log entry 127 is the model's own reading here: a shift waits for a correction. -/
def Obligations.TrackHeadResults : Prop :=
  ∀ (s : State) (a n d : Reg) (i : BitVec 8),
    let k := s.trk n
    let mine := k.owner = s.slot ∧ s.slot ≠ 15
    let leaves (j : Instr) (l : Last) (k' : Track) : Prop :=
      ∃ t, exec j s = .next t ∧ t.dev.last = l ∧ SameStorage s t ∧ t.trk n = k' ∧ ∀ x, x ≠ n → t.trk x = s.trk x
    let turns (j : Instr) (to_ : Nat) : Prop :=
      (mine → leaves j .ran { k with t := to_, then_ := none, shifting := k.shifting || (k.h != to_ && !k.align) }) ∧
      (¬mine → exec j s = .next (s.raised (s.trapHere 0x102 (BitVec.ofNat 64 (k.owner + 16 * n.toNat)))))
    let starts (j : Instr) (to_ : Nat) : Prop := mine → k.h ≠ to_ → k.shifting = false → k.align = false →
      ∃ t g, exec j s = .next t ∧ g ∈ t.dev.agenda ∧ g.ev = .trackShift ∧ g.at_ = s.dev.now + 1 ∧ g.arg.a = s.here ∧ g.arg.b = n.toNat ∧ g.arg.c = to_
    let own (keep : Bool) : Instr := if keep then .townKeep n else .town n
    (k.stream = [] →
      (turns (.tseek n i) i.toNat ∧ starts (.tseek n i) i.toNat) ∧
      (turns (.tstep n i) ((k.t + i.toNat) % 256) ∧ starts (.tstep n i) ((k.t + i.toNat) % 256)) ∧
      (turns (.trew n) 0 ∧ starts (.trew n) 0) ∧
      (Ready s { src := s.srcW a } →
        (turns (.tseekReg a n) ((s.w a).toNat % 256) ∧ starts (.tseekReg a n) ((s.w a).toNat % 256)) ∧
        (turns (.tstepReg a n) ((k.t + (s.w a).toNat) % 256) ∧ starts (.tstepReg a n) ((k.t + (s.w a).toNat) % 256)))) ∧
    (s.speculative = false →
      (mine → leaves (.tfree n) .ran { k with owner := 15, keep := false, shared := false } ∧
        leaves (.tshare n) .ran { k with shared := true } ∧ leaves (.tshareOff n) .ran { k with shared := false }) ∧
      (¬mine → ∀ j ∈ [Instr.tfree n, .tshare n, .tshareOff n],
        exec j s = .next (s.raised (s.trapHere 0x102 (BitVec.ofNat 64 (k.owner + 16 * n.toNat))))) ∧
      (k.owner ≠ 15 → k.owner ≠ s.slot → ∀ b, leaves (own b) (.waits .track) { k with wanted := true }) ∧
      ((k.owner = 15 ∨ k.owner = s.slot) → k.weirUntil ≤ s.dev.now →
        (s.slot = 15 → ∀ b, exec (own b) s = .next (s.raised (s.trapHere 0x104 15))) ∧
        (s.slot ≠ 0 → exec (.townKeep n) s = .next (s.raised (s.trapHere 0x104 (BitVec.ofNat 64 s.slot)))) ∧
        (s.slot < 15 → 30 ≤ n.toNat → s.opCtx.mode.getLsbD 3 = true →
          exec (.town n) s = .next (s.raised (s.trapHere 0x103 (BitVec.ofNat 64 n.toNat)))) ∧
        (s.slot < 15 → s.harvest = false → (n.toNat < 30 ∨ s.opCtx.mode.getLsbD 3 = false) →
          leaves (.town n) .ran { k with owner := s.slot, wanted := false } ∧
          (s.slot = 0 → leaves (.townKeep n) .ran { k with owner := s.slot, keep := true, wanted := false })) ∧
        (s.harvest = true → (n.toNat < 30 ∨ s.opCtx.mode.getLsbD 3 = false) →
          (∀ g, s.my.grant = some g → g.tmask.testBit n.toNat = true → leaves (.town n) .ran { k with owner := s.slot, wanted := false }) ∧
          (s.my.grant = none → exec (.town n) s = .next (s.raised (s.trapHere 0x103 (BitVec.ofNat 64 n.toNat)))))) ∧
      (k.busy = false → mine →
        let cost := if k.mofs = 0x80 then 260 else min k.mofs (256 - k.mofs) + 4
        leaves (.talign n) .ran { k with align := true, alignEnd := s.dev.now + cost } ∧
        ∃ t g, exec (.talign n) s = .next t ∧ g ∈ t.dev.agenda ∧ g.ev = .reverify ∧ g.arg.a = s.here ∧ g.arg.b = n.toNat ∧
          g.at_ = s.dev.now + cost)) ∧
    (k.busy = true → exec (.twait n) s = .next (s.stood .track)) ∧ (k.busy = false → exec (.twait n) s = .next (s.did s.keep)) ∧
    (Ready s { dst := s.srcW d } → exec (.thead d n) s = .next (s.gaveW 1 d (BitVec.ofNat 64
      (if k.usedAt = s.dev.now + 1 then k.before
       else k.mofs * 2 ^ 24 + k.err.toNat * 2 ^ 23 + k.shared.toNat * 2 ^ 22 + k.busy.toNat * 2 ^ 21 + k.keep.toNat * 2 ^ 20 +
        k.owner * 2 ^ 16 + k.t * 256 + k.h))))

/-- R166, R170, R171: reads and writes under a settled head whose marker passes. TRD and TRDS take the 256 bytes at H, or H + 128 for
port B, with latency 6; TWR and TWRS write them; TRDS and TWRS then move the target. A busy track makes each wait, whoever asks; TRD alone is open to
another context, when the track is shared; any other use by another context traps with 0x102. With no correction enabled a failed
marker traps with 0x100, or 0x101 when the offset is unknown. (The group is none that a correction has held, no range lock covers the
position, and no other access has used the track in this cycle.) -/
def Obligations.TrackAccessResults : Prop :=
  ∀ (s : State) (d n : Reg) (i : BitVec 8) (port : Bool), Safe s → s.speculative = false →
    let k := s.trk n
    let q := (k.h + if port then 128 else 0) % 256
    let key := trackKey s.here n.toNat q 0
    let mine := k.owner = s.slot ∧ s.slot ≠ 15
    let settled := { k with err := false }
    let moved := { settled with t := (k.t + i.toNat) % 256, then_ := none, shifting := k.shifting || k.h != (k.t + i.toNat) % 256 }
    let no (j : Instr) : Prop := exec j s = .next (s.raised (s.trapHere 0x102 (BitVec.ofNat 64 (k.owner + 16 * n.toNat))))
    let reads (j : Instr) (k' : Track) : Prop :=
      (∀ w ∈ s.posWords n q, s.bad.contains w = false) → Ready s { dst := s.srcV d, mem := s.posWords n q } →
      ∃ t, exec j s = .next t ∧ t.dev.last = .ran ∧ SameStorage s t ∧ t.trk n = k' ∧
        ∃ e ∈ t.me.pipe, e.due = s.dev.now + 6 ∧ e.bytes = vecWrites (s.vKey d) (fun _ => true) (s.view.vecAt key)
    let writes (j : Instr) (k' : Track) : Prop := Ready s { src := s.srcV d } →
      ∃ t, exec j s = .next t ∧ t.dev.last = .ran ∧ t.trk n = k' ∧ StorageOutside (within key 256) s t ∧
        ∀ b < 256, t.byte (key + b) = (s.v d).extractLsb' (8 * b) 8
    (k.busy = true → s.me.outcome = none → Ready s { src := s.srcV d, dst := s.srcV d } →
      ∀ j ∈ [Instr.trd d n port, .trds d n i port, .twr d n port, .twrs d n i port], exec j s = .next (s.stood .track)) ∧
    (k.busy = false → k.usedAt ≠ s.dev.now + 1 → s.me.outcome = none → s.heldPos n q = none →
      s.trackLocked n port true = none → (∀ w ∈ s.posWords n q, s.view.tagOf w ≠ .empty) →
      (mine → k.check q = none →
        reads (.trd d n port) settled ∧ reads (.trds d n i port) moved ∧ writes (.twr d n port) settled ∧ writes (.twrs d n i port) moved) ∧
      (k.owner ≠ 15 → k.shared = true → k.check q = none → reads (.trd d n port) settled) ∧
      (¬mine → Ready s { src := s.srcV d, dst := s.srcV d } →
        (k.shared = false → no (.trd d n port)) ∧ no (.trds d n i port) ∧ no (.twr d n port) ∧ no (.twrs d n i port)) ∧
      (∀ m, mine → k.check q = some m → s.opCtx.mode.getLsbD 2 = false → Ready s { src := s.srcV d, dst := s.srcV d } →
        ∀ j ∈ [Instr.trd d n port, .trds d n i port, .twr d n port, .twrs d n i port], ∃ t, exec j s = .next t ∧ SameStorage s t ∧
          t.trk n = { k with mofs := m, err := true } ∧
          ∃ x, t.dev.last = .traps x ∧ x.cause = (if m = 0x80 then 0x101 else 0x100) ∧ x.pc = s.groupAddr ∧ x.addr = s.groupAddr))

/-! ## Arrays (R177 to R184) -/

/-- R177 to R183: the matrix instructions at the core. In a harvest context each traps with 0x144. MLEASE asks its array and empties d;
QW and MMA push a command of the lease, QWV a chunk with its scale word; QR and QST read the lease and the queues; QRV pops one result
vector, which fills d; MSET and MFREE are commands of their own. A bad command word traps with 0x141, a push without a lease or beyond
CNT with 0x140.
Log entries 17 and 141 are the model's own reading here: QWV without a lease traps whatever the feed holds, and so does MSET. -/
def Obligations.ArrayInstructionResults : Prop :=
  ∀ (s : State) (d n c : Reg) (x y : BitVec 4) (i : BitVec 8),
    let l := s.opCtx.lease
    let r := s.myArray
    let W := s.w d
    let trapped (j : Instr) (cause : Nat) (aux : Word) : Prop := exec j s = .next (s.raised (s.trapHere cause aux))
    let sent (j : Instr) (c : Change) (e : Effect) : Prop := exec j s = .next (s.did (s.emit c e))
    let room (e : Effect) : Prop := s.noRoom e.cost = none ∧ s.overflow e.cost = none
    let spends := s.keep.me fun y => { y with lease := { y.lease with left := y.lease.left - 1 } }
    let joined := BitVec.ofNat 64 (W.toNat + x.toNat * 2 ^ 48 + y.toNat * 2 ^ 52)
    let lease := BitVec.ofNat 64 (l.held.toNat * 2 ^ 63 + l.pend.toNat * 2 ^ 62 + l.left % 256 * 2 ^ 48 + l.serial % 2 ^ 32 * 65536 +
      l.ended % 8 * 256 + l.array % 8)
    (s.harvest = true → Ready s { src := s.srcV d ++ s.srcW c, dst := [] } → Ready s { src := s.srcW d } → Ready s { dst := s.srcW d } →
      Ready s { dst := s.srcV d } → ∀ j ∈ [Instr.mlease d n i, .mfree n, .mset, .mma d x y, .qw d, .qwv d c, .qr d, .qrv d, .qst d n],
        trapped j 0x144 (BitVec.ofNat 64 s.slot)) ∧
    (s.harvest = false →
      (s.speculative = false → Ready s { dst := s.srcW d } →
        ((l.held = true ∨ l.pend = true) → trapped (.mlease d n i) 0x142 (BitVec.ofNat 64 n.toNat)) ∧
        (l.held = false → l.pend = false → ∃ t f q, exec (.mlease d n i) s = .next t ∧ t.dev.last = .ran ∧ t.mem = s.mem ∧
          (d ≠ 0 → t.tagOf (s.wKey d / 8) = .empty) ∧ t.me.lease = { s.me.lease with pend := true } ∧
          t.dev.fills.find q.fill = some f ∧ f.core = s.here ∧ f.slot = s.slot ∧ f.dst = s.fillW d ∧
          (t.arr (s.myCluster * 8 + n.toNat)).requests = (s.arr (s.myCluster * 8 + n.toNat)).requests ++ [q] ∧
          q.core = s.here ∧ q.slot = s.slot ∧ q.act = s.act.num ∧ q.prio = s.act.prio ∧ q.cnt = i.toNat ∧
          ∃ g ∈ t.dev.agenda, g.ev = .leaseGrant ∧ g.arg.a = s.myCluster * 8 + n.toNat ∧ s.dev.now < g.at_) ∧
        exec (.qr d) s = .next (s.gaveW 1 d lease)) ∧
      (Ready s { src := s.srcW d } →
        (room (.command W s.fsx l.array l.serial) →
          (cmdBad W = true → trapped (.qw d) 0x141 W) ∧
          (cmdBad W = false → (l.held = false ∨ l.left = 0) → trapped (.qw d) 0x140 1) ∧
          (cmdBad W = false → l.held = true → 0 < l.left → sent (.qw d) spends (.command W s.fsx l.array l.serial))) ∧
        (room (.command joined s.fsx l.array l.serial) →
          (W.toNat / 2 ^ 48 % 256 ≠ 0 → trapped (.mma d x y) 0x141 W) ∧
          (W.toNat / 2 ^ 48 % 256 = 0 → cmdBad joined = true → trapped (.mma d x y) 0x141 joined) ∧
          (W.toNat / 2 ^ 48 % 256 = 0 → cmdBad joined = false → (l.held = false ∨ l.left = 0) → trapped (.mma d x y) 0x140 1) ∧
          (W.toNat / 2 ^ 48 % 256 = 0 → cmdBad joined = false → l.held = true → 0 < l.left →
            sent (.mma d x y) spends (.command joined s.fsx l.array l.serial)))) ∧
      (Ready s { src := s.srcV d ++ s.srcW c } →
        let e := Effect.feed (vecWords (s.v d)) (s.w c) l.array l.serial
        room e →
        (l.held = false → trapped (.qwv d c) 0x140 1) ∧ (l.held = true → s.feedRoom = true → sent (.qwv d c) s.keep e) ∧
        (l.held = true → s.feedRoom = false → exec (.qwv d c) s = .next (s.stood .queue))) ∧
      (room (.mset l.array l.serial) → (l.held = true → sent .mset s.keep (.mset l.array l.serial)) ∧ (l.held = false → trapped .mset 0x140 0) ∧
        (l.held = true → l.array = n.toNat → sent (.mfree n) s.keep (.mfree n.toNat l.serial)) ∧
        ((l.held = false ∨ l.array ≠ n.toNat) → trapped (.mfree n) 0x140 0)) ∧
      (Ready s { dst := s.srcW d } →
        let gives (v : Word) : Prop := exec (.qst d n) s = .next (s.did ((s.setW s.keep 1 d v).tick))
        (n = 3 → gives lease) ∧
        (l.held = true → (n = 0 → gives (BitVec.ofNat 64 (4 - (s.arr r).q0.length))) ∧
          (n = 1 → gives (BitVec.ofNat 64 (8 - ((s.arr r).feed.length + s.feedsAway)))) ∧
          (n = 2 → gives (BitVec.ofNat 64 ((s.arr r).q2.filter fun v => v.entered && decide (v.due < s.dev.now)).length)))) ∧
      (s.speculative = false → d.toNat < 16 → Ready s { dst := s.srcV d } →
        (s.ownsResults = false → trapped (.qrv d) 0x140 0) ∧
        (∀ v rest, s.ownsResults = true → (s.holding && s.heldPush) = false → (s.arr r).q2 = v :: rest → v.entered = true →
          v.due < s.dev.now → ∃ t, exec (.qrv d) s = .next t ∧ t.dev.last = .ran ∧ t.mem = s.mem ∧ (t.arr r).q2 = rest ∧
            (∀ w ∈ s.srcV d, t.tagOf w = .empty) ∧
            ∀ j < 32, ∃ id f, t.dev.fills.find id = some f ∧ f.core = s.here ∧ f.slot = s.slot ∧ f.dst = some (s.vKey d + 8 * j) ∧
              (match v.poison with
              | some p => f.record = some (0, p)
              | none => f.record = none ∧ f.val = (vecWords (wordsVec v.words)).getD j 0) ∧
              ∃ g ∈ t.dev.agenda, g.ev = .fill ∧ g.arg.a = id ∧ s.dev.now < g.at_)))

namespace Sys2Proof.Claims

/-- An event happens: the machine goes on to a state of which `P` holds. -/
def Happens (e : Instr) (s : State) (P : State → Prop) : Prop := ∃ t, exec e s = .next t ∧ t.dev.last = .ran ∧ P t

/-- An event is put on the agenda of `t`, for a cycle and with particulars. -/
def Coming (t : State) (cycle : Nat) (e : Instr) (a : Arg := {}) : Prop := ({ at_ := cycle, ev := e, arg := a } : Due) ∈ t.dev.agenda

/-- An event that waits is tried again in the next cycle, and keeps the cycle in which it first came. -/
def TriedAgain (s t : State) (e : Instr) : Prop :=
  Coming t (s.dev.now + 1) e { s.dev.arg with since := if s.dev.arg.since = 0 then s.dev.now else s.dev.arg.since }

/-- The fill `i`, which was awaited, has got a value, or a record with which its word will be POISON. -/
def Answered (s t : State) (i : Nat) (v : Word) (poison : Bool) : Prop :=
  ∀ g, s.dev.fills.find i = some g →
    t.dev.fills.find i = some { g with left := 0, val := v, record := if poison then some (0, v) else none }

/-- The frame that answers frame `seq` of the host: its number, a code, and bytes. -/
def Reply (s : State) (type tenant seq : Nat) (code : Word) (bs : List Byte := []) : Nat × List Word :=
  (0, hostFrame type tenant s.dev.frameSeq 0 (natBytes 8 seq ++ wordBytes code ++ bs))

end Sys2Proof.Claims

/-! ## Copies and rotations (R185 to R188) -/

/-- R185: RROT in a harvest context traps with 0x144, waits under speculation, and traps with 0x150 on a range that is no multiple of
256 bytes in near SRAM; else its core arrives at the sequencer, its held effects released, and the group is performed once the
rotation has ended.
R186 to R188: the copy instructions. XLD takes the twelve shadow registers from near SRAM and holds its context for 3 cycles; XST
stores them; XGO gives the next transfer ID with latency 3 and emits the copy with the snapshot, 112 bytes of the hold buffer; it traps
with 0x148 on a reserved bit, 0x149 on a bad value, 0x144 in a harvest context, and waits at 256 outstanding. XWAIT fills d at once with the
status of an ended copy, 3 for an unknown one, and later for one under way. XCAN completes for every ID, changes no storage, takes a held
copy out of the hold buffer, cancels a running one, and changes nothing for an ID that names none or one that has ended.
Log entries 31, 32 are the model's own reading here. -/
def Obligations.RotationAndCopyResults : Prop :=
  (∀ (s : State) (d a b : Reg), Ready s { src := s.srcW d ++ s.srcW a ++ s.srcW b } →
     let base := (s.w d).toNat
     let len := (s.w a).toNat
     let fine := base % 256 = 0 ∧ len % 256 = 0 ∧ 256 ≤ len ∧ len ≤ 65536 ∧ base + len ≤ 0x40000
     (s.harvest = true → exec (.rrot d a b) s = .next (s.raised (s.trapHere 0x144 (BitVec.ofNat 64 s.slot)))) ∧
     (s.harvest = false → s.speculative = true → exec (.rrot d a b) s = .next (s.stood .spec)) ∧
     (s.harvest = false → s.speculative = false →
       (s.me.outcome = none → ¬fine → exec (.rrot d a b) s = .next (s.raised (s.trapHere 0x150
         (BitVec.ofNat 64 (base % 2 ^ 32 * 2 ^ 32 + len / 256 % 131072))))) ∧
       (First s → s.me.outcome = none → fine → (∀ r ∈ (s.clu s.myCluster).arrivals, r.core ≠ s.here) →
         ∃ t, exec (.rrot d a b) s = .next t ∧ t.dev.last = .starts ∧ SameStorage s t ∧ Hold.rotation ∈ t.me.holds ∧
           t.me.act.open_ = true ∧ ∃ g ∈ t.dev.agenda, g.ev = .rotation ∧ g.arg.a = s.here ∧ g.arg.b = s.slot ∧ g.arg.c = s.act.num ∧
             g.arg.words = [s.w d, s.w a, BitVec.ofNat 64 ((s.w b).toNat % (s.ring s.myCluster).length)]) ∧
       (s.me.outcome = some 1 → exec (.rrot d a b) s = .next (s.did (s.keep.me fun x => { x with outcome := none }))) ∧
       (s.me.outcome = some 2 → ∃ t, exec (.rrot d a b) s = .next t ∧ SameStorage s t ∧ t.me.outcome = none ∧
         t.dev.last = .traps (s.trapHere 0x150 (BitVec.ofNat 64 (base % 2 ^ 32 * 2 ^ 32 + len / 256 % 131072)))))) ∧
  (∀ (s : State) (d a : Reg), Safe s →
     let blk := s.block (s.srcW a) (s.w a) 12 8
     let snap := (List.range 12).map fun i => s.me.xw.get 0 i
     let id := (s.w a).toNat
     (blk.trap = none → blk.wait = none → Ready s { src := s.srcW a, mem := blk.words } →
       ∃ t, exec (.xld a) s = .next t ∧ t.dev.last = .ran ∧ SameStorage s t ∧ (∀ i < 12, t.me.xw.get 0 i = blk.data.getD i 0) ∧
         Hold.until_ (s.dev.now + 3) 1 ∈ t.me.holds) ∧
     (s.speculative = false → s.localTrap (s.w a) 96 8 true = none → s.regsReady (s.srcW a) = true →
       s.bankWait (s.w a).toNat 96 = none → Ready s { src := s.srcW a, memPart := s.partOf (s.w a).toNat 96 } →
       ∃ t, exec (.xst a) s = .next t ∧ t.dev.last = .ran ∧
         StorageOutside (within (nearKey s.here (s.w a).toNat) 96) s t ∧
         ∀ j < 96, s.predHole s.here ((s.w a).toNat + j) = false →
           t.byte (nearKey s.here ((s.w a).toNat + j)) = (snap.flatMap wordBytes).getD j 0) ∧
     (Ready s { dst := s.srcW d } →
       (s.harvest = true → exec (.xgo d) s = .next (s.raised (s.trapHere 0x144 (BitVec.ofNat 64 s.slot)))) ∧
       (s.harvest = false → 256 ≤ (s.outstanding s.here).length → exec (.xgo d) s = .next (s.stood .engine)) ∧
       (s.harvest = false → (s.outstanding s.here).length < 256 → s.noRoom 112 = none →
         (∀ w b, reservedBad snap = some (w, b) → exec (.xgo d) s = .next (s.raised (s.trapHere 0x148 (BitVec.ofNat 64 (w * 256 + b))))) ∧
         (∀ w, reservedBad snap = none → valueBad snap = some w →
           exec (.xgo d) s = .next (s.raised (s.trapHere 0x149 (BitVec.ofNat 64 (w * 256))))) ∧
         (reservedBad snap = none → valueBad snap = none → (∀ t ∈ viewTracks snap, (s.track s.here (t % 32)).owner = s.slot ∧ s.slot ≠ 15) →
           s.overflow 112 = none → 1 ≤ s.my.nextXfer → s.my.nextXfer ≤ 65535 → ∃ c x, 1 ≤ x ∧ x ≤ 65535 ∧ x ∉ s.outstanding s.here ∧
             exec (.xgo d) s = .next (s.did (s.setW (s.emit c (.copy snap x)) 3 d (BitVec.ofNat 64 x))) ∧ c.ops = [] ∧
             c.dev = { s.dev with cores := c.dev.cores } ∧ (s.did c).me = s.me))) ∧
     (Ready s { src := s.srcW a, dst := s.srcW d } →
       ∃ t k f, exec (.xwait d a) s = .next t ∧ t.dev.last = .ran ∧ t.mem = s.mem ∧ t.dev.fills.find k = some f ∧ f.core = s.here ∧
         f.slot = s.slot ∧ f.dst = s.fillW d ∧
         (s.copyPending s.here id = true → f.xid = some id ∧ f.left = 1) ∧
         (s.copyPending s.here id = false → (∃ g ∈ t.dev.agenda, g.ev = .fill ∧ g.arg.a = k ∧ g.at_ = s.dev.now) ∧ f.left = 0 ∧
           (∀ e, s.my.xstatus.find? (fun e => e.1 == id) = some e → f.val = e.2.2) ∧
           (s.my.xstatus.find? (fun e => e.1 == id) = none → f.val = 3))) ∧
     (s.speculative = false → Ready s { src := s.srcW a } →
       (∃ t, exec (.xcan a) s = .next t ∧ t.dev.last = .ran ∧ SameStorage s t) ∧
       (id ∉ s.outstanding s.here → exec (.xcan a) s = .next (s.did s.keep)) ∧
       (∀ n k, (∀ h ∈ s.my.hold ++ s.my.relq, ∀ w, h.eff ≠ .copy w id) →
         (∀ f ∈ s.dev.flights, f.2.org.core = s.here → ∀ w, f.2.cargo ≠ .effect (.copy w id)) →
         s.dev.copies.find? (fun c => c.2.core == s.here && c.2.xid == id) = some (n, k) →
         (∀ c ∈ s.dev.copies, c.2.core = s.here → c.2.xid = id → c = (n, k)) →
         (k.accepted = true ∨ k.complete = true → exec (.xcan a) s = .next (s.did s.keep)) ∧
         (k.accepted = false → k.complete = false → ∃ t, exec (.xcan a) s = .next t ∧ t.dev.last = .ran ∧
           t.dev.copies.find n = some { k with cancelled := true } ∧ Coming t (s.dev.now + 1) .copyCompletion { a := n, b := 1 }))) ∧
     (s.speculative = false → Ready s { src := s.srcW a } →
       (∃ h ∈ s.my.hold, ∃ w, h.eff = .copy w id) →
       ∃ t, exec (.xcan a) s = .next t ∧ t.dev.last = .ran ∧ SameStorage s t ∧ (∀ h ∈ t.my.hold, ∀ w, h.eff ≠ .copy w id) ∧
         ∃ e ∈ t.my.xstatus, e.1 = id ∧ e.2.2 = 1))

/-! ## Invocation and harvest at the core (R197 to R200) -/

/-- R197 to R200: INVOKE opens its activation, empties d, leaves a fill pending and sends the three words of its block to a rank; a
misaligned block or a bad first word traps with 0x1C2, a rank of 4,096 or more with 0x1C3. GRPRD asks the group table and fills d. HGRANT,
of slot 0 alone, gives its ranges and tracks; HREVOKE ends a grant, and the grant that was to follow, and holds its context. In a harvest context INVOKE, GRPRD and
HREVOKE trap.
Log entries 33, 39 are the model's own reading here. -/
def Obligations.FabricInstructionResults : Prop :=
  ∀ (s : State) (d a b : Reg) (v : BitVec 2),
    (First s → s.harvest = false → s.speculative = false → ∀ j again, (again = false ∧ j = Instr.invoke d a b v) ∨ (again = true ∧ j = .invokeRetry d a b v) →
      let regs := s.srcW a ++ s.srcW b
      let blk := s.block regs (s.w b) 3 1
      let w0 := (blk.data.getD 0 0).toNat
      ((s.w b).toNat % 8 ≠ 0 → Ready s { src := regs, dst := s.srcW d } → exec j s = .next (s.raised (s.trap 0x1C2 (s.w b) 0))) ∧
      ((s.w b).toNat % 8 = 0 → blk.wait = none → blk.trap = none → Ready s { src := regs, dst := s.srcW d, mem := blk.words } →
        ((1024 ≤ w0 ∨ 3 ≤ w0 / 256 % 4) → exec j s = .next (s.raised (s.trap 0x1C2 (s.w b) 0))) ∧
        (w0 < 768 → 4096 ≤ (s.w a).toNat → exec j s = .next (s.raised (s.trapHere 0x1C3 (s.w a)))) ∧
        (w0 < 768 → (s.w a).toNat < 4096 → ∃ c id, exec j s = .next (s.did (s.leave c
            (.invoke v.toNat (s.w a).toNat blk.data again id))) ∧
          let t := s.did c
          t.mem = s.mem ∧ t.me.act.open_ = true ∧ (d ≠ 0 → t.tagOf (s.wKey d / 8) = .empty) ∧
          ∃ f, t.dev.fills.find id = some f ∧ f.core = s.here ∧ f.slot = s.slot ∧ f.dst = s.fillW d ∧ f.left = 1))) ∧
    (Ready s { src := s.srcW a, dst := s.srcW d } → s.harvest = false →
      (2 ^ 14 ≤ (s.w a).toNat → exec (.grprd d a) s = .next (s.raised (s.trapHere 0x1C3 (s.w a)))) ∧
      ((s.w a).toNat < 2 ^ 14 → ∃ t k f, exec (.grprd d a) s = .next t ∧ t.dev.last = .ran ∧ t.mem = s.mem ∧ t.dev.fills.find k = some f ∧
        f.core = s.here ∧ f.slot = s.slot ∧ f.dst = s.fillW d ∧ f.probe = some (s.here, 256 + (s.w a).toNat) ∧
        ∃ g ∈ t.dev.agenda, g.ev = .fill ∧ g.arg.a = k ∧ s.dev.now < g.at_)) ∧
    (let blk := s.block (s.srcW a) (s.w a) 4 8
     let w (i : Nat) : Nat := (blk.data.getD i 0).toNat
     (s.slot ≠ 0 → s.speculative = false → Ready s { src := s.srcW a } → exec (.hgrant a) s = .next (s.raised s.wrongContext)) ∧
     (s.slot = 0 → s.speculative = false → blk.trap = none → blk.wait = none → Ready s { src := s.srcW a, mem := blk.words } →
      (∀ o, s.grantFault blk.data = some o → exec (.hgrant a) s = .next (s.raised (s.trap 0x18F (s.w a) (BitVec.ofNat 64 o)))) ∧
      (s.grantFault blk.data = none → s.dev.power.actions < 2 → s.my.grant = none →
        ∃ t, exec (.hgrant a) s = .next t ∧ t.dev.last = .ran ∧ SameStorage s t ∧ t.my.grant = some {
          base0 := w 0 % 2 ^ 18, len0 := w 0 / 2 ^ 32 % 2 ^ 18, base1 := w 1 % 2 ^ 18, len1 := w 1 / 2 ^ 32 % 2 ^ 18
          tmask := w 2 % 2 ^ 32, issue := w 3 % 2 }))) ∧
    (s.harvest = false →
      (s.my.grant = none → exec .hrevoke s = .next (s.did s.keep)) ∧
      (s.my.grant ≠ none → ∃ t, exec .hrevoke s = .next t ∧ t.dev.last = .ran ∧ SameStorage s t ∧ t.my.revoking = true ∧
        (s.my.revoking = true → t.my.nextGrant = none) ∧
        Hold.until_ ((if s.my.revoking then min s.my.revokeAt s.dev.now else s.dev.now) + 12) 1 ∈ t.me.holds)) ∧
    (s.harvest = true → Ready s { src := s.srcW a ++ s.srcW b, dst := s.srcW d } → Ready s { src := s.srcW a, dst := s.srcW d } →
      ∀ j ∈ [Instr.invoke d a b v, .invokeRetry d a b v, .grprd d a, .hrevoke], exec j s = .next (s.raised s.notInHarvest))

/-! ## The system group (R201 to R213) -/

/-- R32, R201, R202: outside privileged mode every system instruction, and MTC and MFC of a privileged register, traps with 0x006 and
its instruction word; TRAPCAUSE to TRAPAUX are open to slot 15 alone, WPBASE to privileged mode alone. -/
def Obligations.PrivilegedInstructionsTrap : Prop :=
  ∀ (s : State) (d a : Reg) (k : BitVec 12) (c : BitVec 2) (e : BitVec 6), s.privileged = false →
    let refused (j : Instr) : Prop := exec j s = .next (s.raised (s.trapHere 0x006 (BitVec.ofNat 64 s.dev.cur.word)))
    (∀ j ∈ [Instr.setwp a, .ctxkStop k, .ctxkGo k, .ctxkKill k, .csave a k, .crest a k, .halt a, .haltBounce a, .haltOff a, .scan a,
        .cmap a, .stinvPage a k, .stinvPid a k, .stinvAll k, .keyld a k, .keyldClr k, .perfqSum a c e, .perfqMin a c e,
        .perfqMax a c e, .trarm a, .trarmOff, .trarmStop], refused j) ∧
    ((s.slot ≠ 15 ∨ s.my.handling = none) → refused .eret) ∧
    (k.toNat = 0x21 → refused (.mtc d k) ∧ refused (.mfc d k)) ∧
    (0x10 ≤ k.toNat → k.toNat ≤ 0x13 → s.slot ≠ 15 → refused (.mtc d k) ∧ refused (.mfc d k))

/-- R62 to R66, R202, R203: MFC reads each control register, by its number; MTC writes each that software may write, read-only ones
ignoring the write, and traps with 0x043 on a reserved bit; an MTC of a loop register leaves the loop-back step of its own group to the
registers as they stood; SETWP moves the workspace, or traps with 0x191. MTC and SETWP wait while speculative.
Log entries 41 and 111 are the model's own reading here. -/
def Obligations.ControlRegisterResults : Prop :=
  ∀ (s : State) (d : Reg) (k : BitVec 12),
    let n := k.toNat
    let x := s.me
    let v := s.w d
    let allowed := s.privileged = true ∨ (n ≠ 0x21 ∧ (0x10 ≤ n → n ≤ 0x13 → s.slot = 15))
    let reads (i : Nat) (r : Word) : Prop := n = i → exec (.mfc d k) s = .next (s.gaveW 1 d r)
    let sets (i : Nat) (f : Ctx → Ctx) : Prop := n = i → exec (.mtc d k) s = .next (s.did (s.keep.me f))
    let setsCore (i : Nat) (f : Core → Core) : Prop := n = i → exec (.mtc d k) s = .next (s.did (s.keep.mine f))
    (allowed → Ready s { dst := s.srcW d } →
      reads 0 x.mode ∧ reads 1 x.stallcnt ∧ reads 2 x.srseed ∧ reads 3 x.status ∧ reads 4 x.lcnt ∧ reads 5 x.lbeg ∧ reads 6 x.lend ∧
      reads 8 x.xdoneid ∧ reads 9 x.xdonest ∧
      reads 0xB (BitVec.ofNat 64 (x.pid % 65536 * 65536 + x.tenant % 128 * 16 + s.slot)) ∧ reads 0xC (BitVec.ofNat 64 s.dev.now) ∧
      reads 0x10 s.my.trapcause ∧ reads 0x11 s.my.trappc ∧ reads 0x12 s.my.trapaddr ∧ reads 0x13 s.my.trapaux ∧
      (s.harvest = false → reads 0x20 (BitVec.ofNat 64 x.wp)) ∧
      (s.harvest = true → reads 0x20 (BitVec.ofNat 64 (2 ^ 63 + (s.slot - 11) * 0x1200))) ∧ reads 0x21 (BitVec.ofNat 64 s.my.wpbase) ∧
      ∀ i < 12, reads (0x40 + i) (x.xw.get 0 i)) ∧
    (allowed → s.speculative = true → Ready s { src := s.srcW d } → exec (.mtc d k) s = .next (s.stood .spec)) ∧
    (allowed → s.speculative = false → Ready s { src := s.srcW d } →
      ((n = 0 ∧ 16 ≤ v.toNat) ∨ (n = 3 ∧ 2 ≤ v.toNat) ∨ (n = 0x21 ∧ (v.toNat % 512 ≠ 0 ∨ 0x32800 < v.toNat)) →
        exec (.mtc d k) s = .next (s.raised (s.trapHere 0x043 (BitVec.ofNat 64 n)))) ∧
      (v.toNat < 16 → (s.slot ≠ 15 ∨ s.my.handling = none) → sets 0 fun x => { x with mode := (x.mode &&& 8) ||| (v &&& 7) }) ∧
      sets 1 (fun x => { x with stallcnt := v }) ∧ sets 2 (fun x => { x with srseed := if v = 0 then 1 else v }) ∧
      (v.toNat < 2 → sets 3 fun x => if v = 0 then { x with status := 0 } else x) ∧
      ((s.slot ≠ 15 ∨ s.my.handling = none) → sets 4 (fun x => { s.loopStepped x with lcnt := v }) ∧
        sets 5 (fun x => { s.loopStepped x with lbeg := v }) ∧ sets 6 fun x => { s.loopStepped x with lend := v }) ∧
      (n ∈ [8, 9, 0xB, 0xC, 0x10, 0x20] → exec (.mtc d k) s = .next (s.did s.keep)) ∧
      setsCore 0x11 (fun q => { q with trappc := v }) ∧ setsCore 0x12 (fun q => { q with trapaddr := v }) ∧
      setsCore 0x13 (fun q => { q with trapaux := v }) ∧
      (v.toNat % 512 = 0 → v.toNat ≤ 0x32800 → setsCore 0x21 fun q => { q with wpbase := v.toNat }) ∧
      ∀ i < 12, sets (0x40 + i) fun x => { x with xw := x.xw.set i v }) ∧
    (s.privileged = true → s.speculative = false → Ready s { src := s.srcW d } →
      (s.me.pipe ≠ [] → exec (.setwp d) s = .next (s.stood .other)) ∧
      (s.me.pipe = [] → (v.toNat % 512 ≠ 0 ∨ 0x3EE00 < v.toNat) → exec (.setwp d) s = .next (s.raised (s.trap 0x191 v 0))) ∧
      (s.me.pipe = [] → v.toNat % 512 = 0 → v.toNat ≤ 0x3EE00 →
        exec (.setwp d) s = .next (s.did (s.keep.me fun x => { x with wp := v.toNat }))))

/-- R204, R205, R206: CTXK stops another live context and waits for it, lets it go on, or ends it with nothing released; naming a slot
that is not live, or the own one, traps with 0x192. CSAVE sends the 5,120 bytes of a stopped context's record, beginning with its
workspace, and holds its context until they are performed; CREST reads a record and then leaves the slot live and stopped with what
it holds, the workspace and its tags among it; bits 63:8 of the predicate word read zero and ignore the write (R51). ERET ends the handler and lets the trapped context go on at TRAPPC; without a trap being handled it traps with 0x190.
Log entries 44 to 46 are the model's own reading here. -/
def Obligations.ContextInstructionResults : Prop :=
  (∀ (s : State) (a : Reg) (k : BitVec 12), s.privileged = true → s.speculative = false →
    let sl := k.toNat
    let x := s.ctx s.here sl
    let bad (j : Instr) : Prop := exec j s = .next (s.raised (s.trapHere 0x192 (BitVec.ofNat 64 sl)))
    ((x.live = false ∨ sl = s.slot) → bad (.ctxkStop k) ∧ bad (.ctxkGo k) ∧ bad (.ctxkKill k)) ∧
    (x.live = true → sl ≠ s.slot →
      (∃ t, exec (.ctxkStop k) s = .next t ∧ t.dev.last = .ran ∧ SameStorage s t ∧ t.ctx s.here sl = { x with stopped := true } ∧
        t.me = { s.me with holds := s.me.holds ++ [.stopped sl] }) ∧
      exec (.ctxkGo k) s = .next (s.did (s.keep.ctx s.here sl fun x => { x with stopped := false })) ∧
      ∃ t, exec (.ctxkKill k) s = .next t ∧ t.dev.last = .ran ∧ (t.ctx s.here sl).live = false ∧
        ∀ h ∈ t.my.hold, h.org.act ≠ x.act.num) ∧
    (Ready s { src := s.srcW a } →
      ((x.live = false ∨ x.stopped = false ∨ (x.shadow.isSome = true ∧ s.anyFill s.here sl = false)) → bad (.csave a k)) ∧
      (x.live = true → x.stopped = true → s.anyFill s.here sl = true → exec (.csave a k) s = .next (s.stood .fill)) ∧
      (x.live = true → x.stopped = true → x.shadow = none → s.anyFill s.here sl = false →
        (∀ h ∈ s.my.hold ++ s.my.relq, h.org.act ≠ x.act.num) → s.checkAccess .g (s.w a) 5120 256 true = none →
        (let r := s.recordAt s.here sl
         r.length = 5120 ∧ (∀ j < 4608, r.getD j 0 = if 0x141 ≤ j ∧ j < 0x148 then 0 else s.byte (s.wsKey s.here sl 0 + j)) ∧
         exec (.csave a k) s = .next (s.did (((List.range 20).foldl (fun c i =>
           s.leave c (.store .g ((s.w a).toNat + 256 * i) ((r.drop (256 * i)).take 256))) s.keep).hold [.performed .dev])) ∧
         ∃ t, exec (.csave a k) s = .next t ∧ t.dev.last = .ran ∧ SameStorage s t ∧ Hold.performed .dev ∈ t.me.holds)) ∧
      (x.live = true → bad (.crest a k)) ∧
      (x.live = false → s.me.outcome = none → s.checkAccess .g (s.w a) 5120 256 false = none →
        ∃ t id, exec (.crest a k) s = .next t ∧ t.dev.last = .starts ∧ SameStorage s t ∧ Hold.ack id ∈ t.me.holds ∧
          ∀ i < 640, ∃ j f, t.dev.flights.find j = some f ∧ f.cargo = .block id i 8 ∧ f.place = .virt ((s.w a).toNat + 8 * i)) ∧
      (∀ o id b (w : Nat → Word), x.live = false → s.me.outcome = some o →
        s.dev.breads.find? (fun b => b.2.org.core == s.here && b.2.org.slot == s.slot && decide (b.2.chan = 64)) = some (id, b) →
        (∀ i < 640, b.got.find? (fun g => g.1 == i) = some (i, w i, false)) → recordBad ((List.range 640).map w) sl = false →
        ∃ t y, exec (.crest a k) s = .next t ∧ t.dev.last = .ran ∧ t.ctx s.here sl = y ∧ y.live = true ∧ y.stopped = true ∧ y.pc = w 594 ∧
          y.mode = w 595 ∧ y.stallcnt = w 596 ∧ y.srseed = w 597 ∧ y.status = w 598 ∧ y.lcnt = w 599 ∧ y.lbeg = w 600 ∧ y.lend = w 601 ∧
          y.pid = (w 602).toNat / 65536 % 65536 ∧ y.tenant = (w 602).toNat / 16 % 128 ∧ y.act.ts = (w 603).toNat % 2 ^ 32 ∧
          (∀ i < 12, y.xw.get 0 i = w (604 + i)) ∧
          (Safe s → let base := if 11 ≤ sl ∧ sl ≤ 14 then reserveKey s.here sl 0 else nearKey s.here (slotWp s.my.wpbase sl)
            StorageOutside (within base 4608) s t ∧
            (∀ j < 4608, t.byte (base + j) = if 0x141 ≤ j ∧ j < 0x148 then s.byte (base + j) else (w (j / 8)).extractLsb' (8 * (j % 8)) 8) ∧
            ∀ i < 576, Tag.num (t.tagOf (base / 8 + i)) = (w (576 + i / 32)).toNat / 4 ^ (i % 32) % 4)))) ∧
  (∀ (s : State),
    (∀ e, s.slot = 15 → s.my.handling = some e → s.anyFill s.here 15 = false → e.slot ≠ 15 →
      ∃ t, exec .eret s = .next t ∧ t.dev.last = .ran ∧ SameStorage s t ∧ t.my.handling = none ∧ t.my.firmware = false ∧ t.me.live = false ∧
        (e.imp = false → (s.ctx s.here e.slot).trapped = true →
          (t.ctx s.here e.slot).trapped = false ∧ (t.ctx s.here e.slot).pc = s.my.trappc)) ∧
    (s.privileged = true → s.speculative = false → (s.slot ≠ 15 ∨ s.my.handling = none) →
      exec .eret s = .next (s.raised (s.trapHere 0x190 0))))

/-- R207 to R213: the instructions that reach other units. HALT sends its request to the core of a live logical number; SCAN fills d
200 µs later, or soon with 4 where it is not allowed; CMAP changes the map, at once when no launch stands on the cluster; STINV
invalidates the translations it names; KEYLD loads a key slot or empties it; PERFQ asks its scope and fills d; TRARM arms its die with a
good block, stops the traces that record or turns them off.
Log entries 2, 40, 42, 43, 51 are the model's own reading here. -/
def Obligations.DeviceInstructionResults : Prop :=
  ∀ (s : State) (a d : Reg) (k : BitVec 12) (c : BitVec 2) (e : BitVec 6), s.privileged = true → s.speculative = false →
    let v := (s.w a).toNat
    let waits (t : State) : Prop := ∃ u, Hold.until_ u 1 ∈ t.me.holds ∧ s.dev.now < u
    (Ready s { src := s.srcW a } →
      (∀ j how, (how = 0 ∧ j = Instr.halt a) ∨ (how = 1 ∧ j = .haltBounce a) ∨ (how = 2 ∧ j = .haltOff a) →
        (s.retired v = true → exec j s = .next (s.did s.keep)) ∧
        (s.retired v = false → exec j s = .next (s.did (s.keep.soon .haltRequest { a := s.phys v, b := how })))) ∧
      (v.testBit 15 = true ∨ 2 ^ 32 ≤ v ∨ 18432 ≤ v % 2 ^ 15 → exec (.cmap a) s = .next (s.raised (s.trapHere 0x193 (s.w a)))) ∧
      (v.testBit 15 = false → v < 2 ^ 32 → v % 2 ^ 15 < 18432 → s.dev.coreMapNext = [] →
        (19584 ≤ v / 2 ^ 17 ∨ physCluster (v / 2 ^ 17) ≠ clusterOf (v % 2 ^ 15) ∨ s.logical (v / 2 ^ 17) ≠ none →
          exec (.cmap a) s = .next (s.raised (s.trapHere 0x193 (s.w a)))) ∧
        (v / 2 ^ 17 < 19584 → physCluster (v / 2 ^ 17) = clusterOf (v % 2 ^ 15) → s.logical (v / 2 ^ 17) = none →
          s.dev.onCluster (clusterOf (v % 2 ^ 15)) = false →
          ∃ t, exec (.cmap a) s = .next t ∧ t.dev.last = .ran ∧ t.phys (v % 2 ^ 15) = v / 2 ^ 17 ∧
            t.retired (v % 2 ^ 15) = v.testBit 16 ∧ (∀ l, l ≠ v % 2 ^ 15 → t.phys l = s.phys l) ∧
            (v.testBit 16 = false ∨ (s.core (s.phys (v % 2 ^ 15))).parked = [] → SameStorage s t) ∧
            (v.testBit 16 = true → t.dev.power.replace = true))) ∧
      (∃ t, exec (.stinvPage a k) s = .next t ∧ t.dev.last = .ran ∧ SameStorage s t ∧ waits t ∧
        t.dev.cached = s.dev.cached.map fun x => (x.1, x.2.filter fun y => !(decide (y.tenant = k.toNat ∧ y.pid = v % 65536 ∧
          y.page / 2 ^ y.size = v / 65536 % 2 ^ 41 * 65536 / 2 ^ y.size)))) ∧
      (∃ t, exec (.stinvPid a k) s = .next t ∧ t.dev.last = .ran ∧ SameStorage s t ∧ waits t ∧
        t.dev.cached = s.dev.cached.map fun x => (x.1, x.2.filter fun y => !(decide (y.tenant = k.toNat ∧ y.pid = v % 65536))))) ∧
    (∃ t, exec (.stinvAll k) s = .next t ∧ t.dev.last = .ran ∧ SameStorage s t ∧ waits t ∧
      t.dev.cached = s.dev.cached.map fun x => (x.1, x.2.filter fun y => !(decide (y.tenant = k.toNat)))) ∧
    (∃ t, exec (.keyldClr k) s = .next t ∧ t.dev.last = .ran ∧ SameStorage s t ∧ waits t ∧ t.dev.keys.find k.toNat = none ∧
      ∀ n, n ≠ k.toNat → t.dev.keys.find n = s.dev.keys.find n) ∧
    (let blk := s.block (s.srcW a) (s.w a) 8 8
     blk.trap = none → blk.wait = none → Ready s { src := s.srcW a, mem := blk.words } →
      (∃ t, exec (.keyld a k) s = .next t ∧ t.dev.last = .ran ∧ SameStorage s t ∧ waits t ∧ t.dev.keys.find k.toNat = some blk.data ∧
        ∀ n, n ≠ k.toNat → t.dev.keys.find n = s.dev.keys.find n) ∧
      (let clu := (blk.data.getD 0 0).toNat % 128
       clu < 96 → ∃ t r, exec (.trarm a) s = .next t ∧ t.dev.last = .ran ∧ SameStorage s t ∧ t.dev.traces.find (dieOf clu) = some r ∧
        (traceBad blk.data = true → r.state = 4) ∧
        (traceBad blk.data = false → r.state = 1 ∧ r.block = blk.data ∧ r.armedAt = s.dev.now))) ∧
    exec .trarmOff s = .next (s.did (s.keep.dv fun d => { d with traces := [] })) ∧
    (∃ t, exec .trarmStop s = .next t ∧ t.dev.last = .ran ∧ SameStorage s t ∧
      t.dev.traces = s.dev.traces.map fun r => (r.1,
        if (r.2.state = 1 ∨ r.2.state = 2) ∧ r.2.armedAt < s.dev.now then { r.2 with seen := (9, 0) :: r.2.seen } else r.2)) ∧
    (Ready s { src := s.srcW a, dst := s.srcW a } →
      let filled (j : Instr) (P : State → Nat → Fill → Prop) : Prop := ∃ t id f, exec j s = .next t ∧ t.dev.last = .ran ∧
        t.mem = s.mem ∧ t.dev.fills.find id = some f ∧ f.core = s.here ∧ f.slot = s.slot ∧ f.dst = s.fillW a ∧ P t id f
      (19584 ≤ v → exec (.scan a) s = .next (s.raised (s.trapHere 0x193 (s.w a)))) ∧
      (v < 19584 → s.scanAllowed v = false → filled (.scan a) fun t id f => f.val = 4 ∧ ∃ g ∈ t.dev.agenda, g.ev = .fill ∧ g.arg.a = id) ∧
      (v < 19584 → s.scanAllowed v = true → filled (.scan a) fun t id _ => (t.core v).scanning = true ∧
        ∃ g ∈ t.dev.agenda, g.ev = .scanComplete ∧ g.arg.a = v ∧ g.arg.b = id ∧ g.at_ = s.dev.now + 210000) ∧
      ∀ j op, (op = 0 ∧ j = Instr.perfqSum a c e) ∨ (op = 1 ∧ j = .perfqMin a c e) ∨ (op = 2 ∧ j = .perfqMax a c e) →
        ((c = 0 ∧ 18432 ≤ v) ∨ (c = 1 ∧ 96 ≤ v) ∨ (c = 2 ∧ 4 ≤ v) → exec j s = .next (s.raised (s.illegal 4))) ∧
        ((c = 0 ∧ v < 18432) ∨ (c = 1 ∧ v < 96) ∨ (c = 2 ∧ v < 4) ∨ c = 3 → filled j fun t id _ =>
          ∃ g ∈ t.dev.agenda, g.ev = .perfqResult ∧ g.arg.a = id ∧ g.arg.b = op ∧ g.arg.c = c.toNat ∧
            g.arg.words = [s.w a, BitVec.ofNat 64 e.toNat] ∧ s.dev.now < g.at_))

/-! ## Events: storage, homes and translation -/


/-- R58: a fill lands: its value FULL, or its record POISON, in its word and nowhere else.
R60: a deposit lands on an EMPTY word, which becomes FULL, and otherwise is tried again in the next cycle.
R151, R281, R408: an effect that hits a registered range is dropped, with a report 0x0C0 of 0x0B0 to its core.
R57, R149, R148: a store writes its bytes at its home, a load's read gives them to its fill; a read of an EMPTY word waits.
R159: an atomic is performed at its home: the old value to its fill, the new one to its word.
R302, R304: a tracked read that needs a line of a full tracker waits, and is performed as another read when there is room.
R234: one effect of the release queue leaves in a cycle. R277: a scope-miss message is accepted once there is room.
R40: a vector that was pushed is ready at its place.
R350 to R352: an access whose leaf its station holds goes on to its home, or fails with the cause and the unit; a walk reads one table
entry at a time, and its leaf is held by the station when an access that waits may use it.
Log entries 2, 6, 63, 64, 65 are the model's own reading here. -/
def Obligations.AccessesArriveAndLand : Prop :=
  (∀ (s : State) (f : Fill), Safe s → s.dev.fills.find s.dev.arg.a = some f → f.left = 0 → f.probe = none → s.savedWith f = none →
     Happens .fill s fun t => t.dev = { s.dev with fills := s.dev.fills.drop s.dev.arg.a, last := .ran } ∧
       match f.dst with
       | none => SameStorage s t
       | some k => StorageOutside (within k 8) s t ∧ match f.record with
         | none => t.wordAt k = extend f.size f.sx f.val.toNat ∧ t.tagOf (k / 8) = .full
         | some r => t.wordAt k = r.2 ∧ t.tagOf (k / 8) = .poison) ∧
  (∀ (s : State) (id : Nat) (f : Flight) (p o : Nat), Safe s → s.dev.arg.a = id → s.dev.flights.find id = some f → f.place = .near p o →
     f.from_ = none → s.strays f = none →
     let k := nearKey p o
     let free (n : Nat) : Prop := f.home = true ∨ lockHit (s.locksAt k) k n true = none
     let hit (n : Nat) : Prop := f.home = false ∧ (lockHit (s.locksAt k) k n true).isSome ∧ f.told = false
     let plain (n : Nat) : Prop := s.bankTaken id f f.place n = false ∧ ∀ i < n, s.predHole p (o + i) = false
     let dropped (t : State) : Prop := SameStorage s t ∧ t.dev.flights.find id = none ∧
       ∃ n, ∃ g : Arg, Coming t n .impreciseEffectFault g ∧ g.a = f.org.core ∧ g.b = 0x0B0
     (∀ md ea v, f.cargo = .effect (.deposit md ea v) → s.stillBehind id f = false →
       (hit 8 → Happens .deposit s dropped) ∧
       (free 8 → s.tagOf (k / 8) ≠ .empty →
         Happens .deposit s fun t => SameStorage s t ∧ TriedAgain s t .deposit) ∧
       (free 8 → s.tagOf (k / 8) = .empty → s.queuedBehind id f = false → plain 8 → tagged k = true →
         Happens .deposit s fun t => t.wordAt k = v ∧ t.tagOf (k / 8) = .full ∧ StorageOutside (within k 8) s t ∧
           t.dev.flights.find id = none)) ∧
     (∀ md ea bs, f.cargo = .effect (.store md ea bs) → s.gatedPlace f.place = false → s.heldBack id f = false →
       (hit bs.length → Happens .arrivingAccess s dropped) ∧
       (free bs.length → plain bs.length → s.partFault k bs.length = none →
         Happens .arrivingAccess s fun t => t.bytesAt k bs.length = bs ∧ StorageOutside (within k bs.length) s t ∧
           t.dev.flights.find id = none)) ∧
     (∀ fl at_ n el fwd g, f.cargo = .read fl at_ n el fwd → (∀ i < n, fwd.getD i none = none) → 0 < n → f.grp.isSome →
       (f.tracked = true → s.trackerFull k n = false) → ∀ ev ∈ [Instr.arrivingAccess, .trackedRead],
       s.gatedPlace f.place = false → s.heldBack id f = false → f.home = true ∨ lockHit (s.locksAt k) k n false = none →
       s.dev.fills.find fl = some g →
       ((∃ w ∈ wordsOf k n, s.tagOf w = .empty) →
         Happens ev s fun t => SameStorage s t ∧ TriedAgain s t .arrivingAccess) ∧
       ((∀ w ∈ wordsOf k n, s.tagOf w ≠ .empty) → plain n → s.readRecord k n s.dev.fresh = none →
         Happens ev s fun t => SameStorage s t ∧ t.dev.flights.find id = none ∧
           t.dev.fills.find fl = some { g with left := g.left - 1, val := g.val ||| BitVec.ofNat 64 (leNat (s.bytesAt k n) * 2 ^ (8 * at_)) })) ∧
     (∀ sc op ea x y fill, f.cargo = .effect (.atomic sc op ea x y fill) → s.heldBack id f = false → free op.width →
       s.tagOf (k / 8) ≠ .empty → s.atomicBefore id f = false → plain op.width →
       let old := leNat (s.bytesAt k op.width)
       (s.readRecord k op.width s.dev.fresh = none →
         Happens .atomicExecution s fun t => t.bytesAt k op.width = natBytes op.width (op.eval (BitVec.ofNat 64 old) x y).toNat ∧
           StorageOutside (within k op.width) s t ∧ t.dev.flights.find id = none ∧
           ∀ i, fill = some i → Answered s t i (BitVec.ofNat 64 old) false) ∧
       (∀ r i, s.readRecord k op.width s.dev.fresh = some r → fill = some i →
         Happens .atomicExecution s fun t => t.dev.flights.find id = none ∧ Answered s t i r true))) ∧
  (∀ (s : State) (f : Flight), s.dev.flights.find s.dev.arg.a = some f →
     (f.tracked = true → s.trackerFull f.place.key f.cargo.size = true →
       Happens .trackedRead s fun t => SameStorage s t ∧ TriedAgain s t .trackedRead) ∧
     (f.tracked = false ∨ s.trackerFull f.place.key f.cargo.size = false →
       exec .trackedRead s = exec .arrivingAccess s)) ∧
  (∀ (s : State) (h : Held) (rest : List Held), (s.core s.dev.arg.a).relq = h :: rest → (∀ sc, h.eff ≠ .fence sc) →
     Happens .release s fun t => SameStorage s t ∧ (t.core s.dev.arg.a).relq = rest ∧
       ∀ e ∈ h.eff.parts, ∃ x ∈ t.dev.flights, x.2.org = h.org ∧ x.2.cargo = .effect e ∧ x.2.place = s.bound h.org.core e) ∧
  (∀ (s : State) (l : Launch), s.launchOf s.dev.arg.a = some l → l.dom = s.dev.arg.c →
     ((s.core s.dev.arg.a).roomDevice 24 = true → Happens .scopeMiss s fun t => SameStorage s t ∧
       ∃ m : Msg, (t.core s.dev.arg.a).chans.get [] 3 = (s.core s.dev.arg.a).chans.get [] 3 ++ [m] ∧ m.device = true ∧ m.at_ = s.dev.now ∧
         m.words = s.dev.arg.words.map (fun w => (w, false)) ∧ m.org.ts = s.dev.arg.b) ∧
     ((s.core s.dev.arg.a).roomDevice 24 = false →
       Happens .scopeMiss s fun t => SameStorage s t ∧ TriedAgain s t .scopeMiss)) ∧
  (∀ s : State,
     let p := s.dev.arg.a
     let set (x : Tow) : Tow := if x.id = s.dev.arg.b then { x with ready := true } else x
     let l := (s.logical p).getD 0
     s.apart p (if ((s.core p).fromWest.any fun x => x.id == s.dev.arg.b) = true then s.west l else s.east l) = false →
       Happens .towpathDelivery s fun t => SameStorage s t ∧ (t.core p).fromWest = (s.core p).fromWest.map set ∧
         (t.core p).fromEast = (s.core p).fromEast.map set) ∧
  (∀ (s : State) (id va : Nat) (f : Flight) (e : Trans), s.dev.arg.a = id → s.dev.flights.find id = some f → f.place = .virt va →
     f.from_ = none → s.cachedLeaf (stationOf f.org.core va) f.org.tenant f.org.pid va = some e →
     (∀ fl a n el fwd, f.cargo = .read fl a n el fwd → fwd.all Option.isSome = false) →
     let goes := s.leafPlace f.org.tenant va (levelOf e.size) e.leaf f.cargo.needs.1 f.cargo.needs.2
     (∀ pl key, goes = .ok (pl, key) → leafTier e.leaf = 0 →
       Happens .translation s fun t => SameStorage s t ∧
         t.dev.flights.find id = some { f with
           place := pl, key := key, va := some va, miss := false, stood := if f.stood = 0 then s.dev.fresh + 1 else f.stood } ∧
         ∃ n, s.dev.now + 8 ≤ n ∧ Coming t n f.cargo.homeEvent { a := id }) ∧
     (∀ cause fl at_ n el fwd g, goes = .error cause → f.cargo = .read fl at_ n el fwd → s.dev.fills.find fl = some g → g.record = none →
       Happens .translation s fun t => SameStorage s t ∧ t.dev.flights.find id = none ∧
         t.dev.fills.find fl = some { g with left := g.left - 1, record := some (el, BitVec.ofNat 64 (cause + va / 65536 % 2 ^ 41 * 65536)) })) ∧
  (∀ (s : State) (n : Nat) (w : Walk), s.dev.arg.a = n → s.dev.walks.find n = some w → w.running = true → w.again = false →
     let got := s.walkRead w.tenant w.pid (w.unit * 65536) w.level w.table
     (∀ l pa, got = .table l pa → Happens .walk s fun t => SameStorage s t ∧
       t.dev.walks.find n = some { w with level := l, table := pa, root := if w.level = 5 then pa else w.root } ∧ ∃ c, s.dev.now < c ∧ Coming t c .walk { a := n }) ∧
     (∀ c x, got = .fails c x → Happens .walk s fun t => SameStorage s t ∧ t.dev.walks.find n = none) ∧
     (∀ l e id f va pl, got = .leaf l e → w.waiters = [id] → s.dev.flights.find id = some f → f.place = .virt va →
       f.from_ = none → s.leafPlace w.tenant va l e f.cargo.needs.1 f.cargo.needs.2 = .ok pl → (s.dev.cached.get [] w.station).length < 32768 →
       Happens .walk s fun t => SameStorage s t ∧ t.dev.walks.find n = none ∧
         t.dev.cached.get [] w.station = s.dev.cached.get [] w.station ++
           [{ tenant := w.tenant, pid := w.pid, size := leafSize l, page := w.unit * 65536, leaf := e }]))

/-! ## Events: messages and bindings -/

/-- R222, R223: a sent message is accepted at its target when its input buffer has the message and 2 KiB free, and is otherwise tried
again after 64 cycles and then after doubling intervals up to 4,096. R102, R227: a spawn offer is accepted likewise, else its fill is 0;
an accepted offer bounces after 64 cycles. R319, R411: a task entry of another tenant or with a wrong CRC is discarded and logged.
R156: a block read's unit is accepted as a message. R322: a cancel notice removes the entries of its tag, a release notice clears it.
R217, R225, R226: a binding takes the chosen channel's message to the lowest free slot, whose context starts at the entry with the
message's timestamp, its loop registers and STALLCNT zero, and the words placed in w1 and onward.
Log entries 2, 6, 69, 71 are the model's own reading here. -/
def Obligations.MessagesArriveAndBind : Prop :=
  (∀ (s : State) (id : Nat) (f : Flight) (e : Effect) (q : Nat), s.dev.arg.a = id → s.dev.arg.b ≠ 1 → s.dev.flights.find id = some f →
     f.cargo = .effect e → f.place = .chan q →
     (s.dev.launches.any fun l => l.2.dom == f.org.dom && l.2.has (physCluster q)) = true → s.routed f.org.tenant f.org.core q = true →
     s.tripleHeld id f e = false → s.awake f.org q = true → (s.clu (physCluster q)).gated = false →
     let retried (i : Instr) : Prop := Happens i s fun t => SameStorage s t ∧ t.dev.flights.find id = some { f with waited := f.waited + 1 } ∧
       Coming t (s.dev.now + min 4096 (64 * 2 ^ min f.waited 6)) .sendRetry { a := id }
     (∀ tg ch ws v, e = .send tg ch ws v → ∀ i ∈ [Instr.messageAccept, .sendRetry],
       let cost := if v then 264 else 16
       ((s.core q).takes cost = true → Happens i s fun t => SameStorage s t ∧ t.dev.flights.find id = none ∧
         ∃ m : Msg, (t.core q).chans.get [] ch = (s.core q).chans.get [] ch ++ [m] ∧ m.org = f.org ∧ m.at_ = s.dev.now ∧
           m.device = false ∧ m.words = ws.map fun w => (w, false)) ∧
       ((s.core q).takes cost = false → retried i)) ∧
     (∀ tg entry args fill, e = .spawn tg entry args fill → ∀ i ∈ [Instr.messageAccept, .sendRetry],
       ((s.core q).takes 48 = true → Happens i s fun t => SameStorage s t ∧ t.dev.flights.find id = none ∧
         (∃ m : Msg, (t.core q).chans.get [] 1 = (s.core q).chans.get [] 1 ++ [m] ∧ m.org = f.org ∧ m.entry = entry ∧
           m.words = args.map (fun w => (w, false)) ∧ m.offer = some fill) ∧
         ∃ n, Coming t (s.dev.now + 64) .spawnBounce { a := q, b := n }) ∧
       ((s.core q).takes 48 = false → Happens i s fun t => SameStorage s t ∧ t.dev.flights.find id = none ∧ Answered s t fill 0 false)) ∧
     (∀ tg ws, e = .task tg ws → s.noticeAhead id f.org.core q = false → ∀ i ∈ [Instr.taskEntry, .sendRetry],
       (s.entryPasses q ws = false → Happens i s fun t => SameStorage s t ∧ t.dev.flights.find id = none ∧
         (t.core q).tasks = (s.core q).tasks ∧ ∃ r, t.dev.log.getLast? = some r ∧ (r.getD 1 0).toNat % 512 = 0x1E9) ∧
       (s.entryPasses q ws = true → (s.core q).takes 40 = true → Happens i s fun t => SameStorage s t ∧ t.dev.flights.find id = none ∧
         ∃ m : Msg, (t.core q).tasks = (s.core q).tasks ++ [m] ∧ m.words = [(ws.getD 2 0, false), (ws.getD 3 0, false)] ∧
           m.entry = bits (ws.getD 0 0) 0 18 ∧ m.org.ts = bits (ws.getD 1 0) 0 32) ∧
       (s.entryPasses q ws = true → (s.core q).takes 40 = false → retried i))) ∧
  (∀ (s : State) (b : Bread), s.dev.arg.b = 1 → s.dev.breads.find s.dev.arg.a = some b → s.domOf b.core = some b.org.dom →
     (s.core b.core).roomDevice (b.unit * 8 + 8) = true → (s.clu (physCluster b.core)).gated = false →
     Happens .messageAccept s fun t => SameStorage s t ∧
       ∃ m : Msg, (t.core b.core).chans.get [] b.chan = (s.core b.core).chans.get [] b.chan ++ [m] ∧ m.device = true ∧ m.words.length = b.unit) ∧
  (∀ (s : State) (m : Msg) (fill : Nat),
     let q := s.dev.arg.a
     ((s.core q).chans.get [] 1).find? (fun x => x.seq == s.dev.arg.b) = some m → m.offer = some fill →
     Happens .spawnBounce s fun t => SameStorage s t ∧ Answered s t fill 0 false ∧
       (t.core q).chans.get [] 1 = ((s.core q).chans.get [] 1).filter fun x => x.seq != m.seq) ∧
  (∀ (s : State) (p q tag order : Nat) (r : Bool), s.dev.tagNotices.find s.dev.arg.a = some (p, q, tag, r, order) →
     s.tagBehind p q tag order = false →
     ((∀ x ∈ (s.core q).ctxs, x.2.live = false ∨ x.2.act.parent ≠ tag) →
       Happens .cancelNotice s fun t => SameStorage s t ∧ (t.core q).tasks = (s.core q).tasks.filter fun m => m.org.tag != tag) ∧
     (∀ sl x, (s.core q).ctxs = [(sl, x)] → x.live = true → x.act.parent = tag →
       Happens .cancelNotice s fun t => (t.core q).tasks = ((s.core q).tasks.filter fun m => m.org.tag != tag) ∧ (t.ctx q sl).live = false) ∧
     Happens .releaseNotice s fun t => SameStorage s t ∧
       (t.core q).tasks = ((s.core q).tasks.map fun m => if m.org.tag = tag then { m with org := { m.org with tag := 0 } } else m) ∧
       ∀ sl x, (s.core q).ctxs.find sl = some x → (t.ctx q sl).act.parent = if x.act.parent = tag then 0 else x.act.parent) ∧
  (∀ (s : State) (m : Msg) (l : Launch) (sl ch : Nat) (i : Instr), Safe s →
     let p := s.dev.arg.a
     s.binds p = true → s.launchOf p = some l → s.headOf p ch = some m →
     (i = .helperBinding ∧ s.chosen p false = some ch ∧ ((List.range 10).map (· + 1)).find? (slotFree s.dev p) = some sl) ∨
     (i = .controlBinding ∧ s.chosen p true = some ch ∧ slotFree s.dev p 0 = true ∧ sl = 0) →
     let placed := if ch = 64 then m.delivered else if ch = 0 then (s.wakeWords l p).map fun w => (w, false) else
       (placedFrom ch (s.entryOf p ch).narg ((s.core p).chans.get [] ch)).2.2
     Happens i s fun t =>
       let x := t.ctx p sl
       x.live = true ∧ x.pc = BitVec.ofNat 64 (s.entryOf p ch).entry ∧ x.wp = slotWp (s.core p).wpbase sl ∧ x.lcnt = 0 ∧ x.lbeg = 0 ∧ x.lend = 0 ∧
       x.stallcnt = 0 ∧ x.act.ts = m.org.ts ∧ x.act.chan = ch % 64 ∧ x.act.open_ = false ∧ x.act.prio = (s.entryOf p ch).prio ∧ x.act.trig = some { m with offer := none } ∧
       (ch = 0 → x.mode = BitVec.ofNat 64 l.mode) ∧ (0 < sl → x.mode = (s.ctx p 0).mode) ∧
       (ch = 64 → (t.core p).tasks = (s.core p).tasks.erase m) ∧
       ∀ n w, placed[n]? = some (w, false) → t.wordAt (nearKey p (slotWp (s.core p).wpbase sl) + 8 * (n + 1)) = w)

/-! ## Events: speculation, traps, tracks, arrays, copies -/

/-- R300: a checkpoint takes the workspace, its tags and the control registers of its cycle. R305, R306: an abort puts them back and drops
what was held after the checkpoint. R309, R311, R312: the horizon's round, and the commit of a slice's head, one held local write a cycle.
R398 to R400, R408, R409: slot 15 takes a trap or a report, or the launch faults when no handler is installed.
R165, R171, R172, R253: a track's shift, the re-verify of a correction, and a step of Weir on an unowned track.
R402: a scrub makes an uncorrectable near-SRAM word POISON and corrects one that can be. R421: what is due waits for the next period.
Log entries 6, 40, 60, 77, 90, 127 are the model's own reading here. -/
def Obligations.SpeculationTrapAndTrackEvents : Prop :=
  (∀ (s : State) (sh : Shadow),
     let g := s.dev.arg
     let x := s.ctx g.a g.b
     let k := s.wsKey g.a g.b 0
     x.shadow = some sh → BitVec.ofNat 64 x.act.num = g.words.getD 0 0 → x.pipe = [] →
     (s.takenBanks g.a ≠ 0 → Happens .checkpoint s fun t => SameStorage s t ∧ TriedAgain s t .checkpoint) ∧
     (s.takenBanks g.a = 0 →
       (1 < g.c → Happens .checkpoint s fun t => SameStorage s t ∧ Coming t (s.dev.now + 1) .checkpoint { g with c := g.c - 1 }) ∧
       (g.c ≤ 1 → Happens .checkpoint s fun t => SameStorage s t ∧ ∃ n : Shadow, (t.ctx g.a g.b).shadow = some n ∧
         n.image = s.bytesAt k 4608 ∧ n.tags = (List.range 576).map (fun i => s.tagOf (k / 8 + i)) ∧ n.pc = x.pc ∧ n.mode = x.mode ∧
         n.srseed = x.srseed ∧ n.status = x.status ∧ n.stallcnt = x.stallcnt ∧ n.lcnt = x.lcnt ∧ n.lbeg = x.lbeg ∧ n.lend = x.lend ∧
         n.xw = x.xw ∧ n.ts = sh.ts ∧ (t.ctx g.a g.b).holds = x.holds.filter fun h => !h.isCopying))) ∧
  (∀ (s : State) (n : Notice) (sh : Shadow), Safe s → s.dev.notices.find s.dev.arg.a = some n →
     let x := s.ctx n.core n.slot
     let k := s.wsKey n.core n.slot 0
     (x.live = false ∨ x.act.num ≠ n.act →
       Happens .abort s fun t => t = { s with dev := { s.dev with notices := s.dev.notices.drop s.dev.arg.a, last := .ran } }) ∧
     (x.live = true → x.act.num = n.act → x.shadow = some sh → sh.image.length = 4608 → sh.tags.length = 576 →
       Happens .abort s fun t => StorageOutside (within k 4608) s t ∧ t.bytesAt k 4608 = sh.image ∧
         (∀ i < 576, t.tagOf (k / 8 + i) = sh.tags.getD i .full) ∧ t.dev.notices = s.dev.notices.drop s.dev.arg.a ∧
         (t.core n.core).hold = (s.core n.core).hold.filter (fun h => !(h.org.act == x.act.num && h.after)) ∧
         let y := t.ctx n.core n.slot
         y.pc = sh.pc ∧ y.mode = sh.mode ∧ y.status = sh.status ∧ y.stallcnt = sh.stallcnt ∧ y.lcnt = sh.lcnt ∧ y.lbeg = sh.lbeg ∧
         y.lend = sh.lend ∧ y.xw = sh.xw ∧ y.srseed = sh.srseed ∧ y.pipe = [] ∧ y.live = true)) ∧
  (∀ (s : State),
     let dom := s.dev.arg.a
     let old := s.dev.horizons.get 0 dom
     Happens .commitHorizon s fun t => SameStorage s t ∧ t.dev.horizons.get 0 dom = max old (s.horizonOf dom) ∧
       ∀ p k n l, s.dev.cores.find p = some k → k.launch = some n → s.launch? n = some l →
         (t.core p).horizon = if l.dom = dom then max k.horizon old else k.horizon) ∧
  (∀ (s : State) (e : CommitEntry), Safe s → (s.clu s.dev.arg.a).next = some e → physCluster e.core = s.dev.arg.a →
     (s.clu s.dev.arg.a).gated = false →
     let p := e.core
     let x := s.ctx p e.slot
     (e.busy = false → (s.core p).horizon < e.ts → Happens .commit s fun t => t = { s with dev := { s.dev with last := .ran } }) ∧
     (e.busy = true ∨ ((s.core p).frozen = false ∧ e.ts ≤ (s.core p).horizon ∧ x.act.parent = 0 ∧ (∀ h ∈ x.holds, h.isCopying = false) ∧
         x.pipe = [] ∧ ∀ n ∈ s.dev.notices, n.2.core ≠ p ∨ n.2.act ≠ e.act) →
       (∀ h rest ea bs, (s.core p).hold = h :: rest → h.org.act = e.act → h.after = true → h.eff = .localStore ea bs →
         s.commitWaits p e.act h.eff = false → s.partialCause (nearKey p ea) bs.length = none → (∀ i < bs.length, s.predHole p (ea + i) = false) →
         Happens .commit s fun t => t.bytesAt (nearKey p ea) bs.length = bs ∧ StorageOutside (within (nearKey p ea) bs.length) s t ∧
           (t.core p).hold = rest ∧ Coming t (s.dev.now + 1) .commit { a := s.dev.arg.a }) ∧
       (∀ h rest, (s.core p).hold = h :: rest → h.org.act = e.act → h.after = true → (s.heldWrite p h.eff).isSome →
         s.commitWaits p e.act h.eff = true → Happens .commit s fun t => SameStorage s t ∧ (t.core p).hold = (s.core p).hold ∧
           Coming t (s.dev.now + 1) .commit { a := s.dev.arg.a }) ∧
       ((∀ h ∈ (s.core p).hold, h.org.act ≠ e.act ∨ h.after = false ∨ s.heldWrite p h.eff = none) →
         Happens .commit s fun t => SameStorage s t ∧ (t.ctx p e.slot).shadow = none ∧ (x.act.ended = true → (t.ctx p e.slot).live = false) ∧
           (t.clu s.dev.arg.a).commits = (s.clu s.dev.arg.a).commits.filter fun y => !y.same e))) ∧
  (∀ (s : State) (n : Nat) (x : Trap) (rest : List (Nat × Trap)),
     let p := s.dev.arg.a
     let k := s.core p
     s.dev.arg.b ≠ 1 → k.handling = none → slotFree s.dev p 15 = true → k.frozen = false → n + 4 ≤ s.dev.now → s.forFirmware p x = false →
     ((k.traps = (n, x) :: rest ∧ k.reports = [] ∧ x.imp = false ∧ (k.ctx x.slot).pipe = []) ∨
       (k.traps = [] ∧ k.reports = (n, x) :: rest ∧ x.imp = true)) →
     (s.noHandler p = false → Happens .trapDelivery s fun t => SameStorage s t ∧
       let y := t.core p
       y.trappc = x.pc ∧ y.trapaddr = x.addr ∧ y.trapaux = x.aux ∧ bits y.trapcause 0 9 = x.cause % 512 ∧
       bits y.trapcause 12 4 = x.slot % 16 ∧ y.trapcause.getLsbD 9 = x.imp ∧ (x.imp = true → bits y.trapcause 23 9 = x.sub % 512) ∧
       y.traps = (if x.imp then k.traps else rest) ∧ y.reports = (if x.imp then rest else k.reports) ∧ y.handling.isSome ∧
       (y.ctx 15).live = true ∧ (y.ctx 15).pc = BitVec.ofNat 64 (k.wpbase - 0x100) ∧ (y.ctx 15).mode = (k.ctx 0).mode &&& ~~~1#64) ∧
     (∀ l, s.noHandler p = true → k.launch = some l → Happens .trapDelivery s fun t => SameStorage s t ∧ (t.ctx p x.slot).trapped = true ∧
       ∃ c, ∃ g : Arg, Coming t c .launchFault g ∧ g.a = l ∧ g.b = p ∧ g.c = x.slot)) ∧
  (∀ s : State,
     let g := s.dev.arg
     let w (i : Nat) : Word := g.words.getD i 0
     ((s.core g.a).reports.length < 16 → Happens .impreciseEffectFault s fun t => SameStorage s t ∧
       ∃ r : Trap, (t.core g.a).reports = (s.core g.a).reports ++ [(s.dev.now, r)] ∧ r.cause = 0x0C0 ∧ r.imp = true ∧ r.sub = g.b ∧
         r.addr = w 0 ∧ r.pc = w 1 ∧ r.aux = w 2) ∧
     (16 ≤ (s.core g.a).reports.length → Happens .impreciseEffectFault s fun t => SameStorage s t ∧
       (t.core g.a).reports = (s.core g.a).reports ∧ (t.core g.a).lost = true)) ∧
  (∀ s : State,
     let p := s.dev.arg.a
     let n := s.dev.arg.b
     let k := s.track p n
     (k.shifting = true → k.h < 256 → s.dev.arg.c < 256 → k.h ≠ s.dev.arg.c →
       let h := if (s.dev.arg.c + 256 - k.h) % 256 ≤ 128 then (k.h + 1) % 256 else (k.h + 255) % 256
       Happens .trackShift s fun t => SameStorage s t ∧ (t.track p n).h = h ∧ (t.track p n).t = (if h = k.t then (k.then_.map (· % 256)).getD k.t else k.t) ∧
         (h = k.t → k.then_ = none → (t.track p n).shifting = false) ∧
         (h ≠ k.t → Coming t (s.dev.now + 1) .trackShift { a := p, b := n, c := k.t })) ∧
     (let r : Track := { k with off := k.corrected, align := false, shifting := k.shifting || k.h != k.t }
      let told (t : State) (o : Nat) : Prop :=
        s.dev.arg.c ≠ 16 → (∃ h ∈ (s.ctx p s.dev.arg.c).holds, h.isRealigned = true) → (t.ctx p s.dev.arg.c).outcome = some o
      k.align = true → k.alignEnd = s.dev.now →
      (r.check r.h = none → (Happens .reverify s fun t => SameStorage s t ∧ t.track p n = { r with err := false }) ∧
        Happens .autoRealign s fun t => SameStorage s t ∧ t.track p n = { r with err := false, failed := false } ∧ told t 1) ∧
      (∀ m, r.check r.h = some m → (Happens .reverify s fun t => SameStorage s t ∧ t.track p n = { r with err := true, mofs := m }) ∧
        Happens .autoRealign s fun t => SameStorage s t ∧
          t.track p n = { r with err := true, mofs := m, failed := decide (s.dev.arg.c = 16) } ∧ told t 2)) ∧
     (k.owner ≠ 15 ∨ k.busy = true ∨ k.wanted = true ∨ 0 < s.dev.power.actions →
       (s.dev.arg.words.headD 0 ≠ 1 → Happens .weirStep s fun t => t = { s with dev := { s.dev with last := .ran } }) ∧
       (s.dev.arg.words.headD 0 = 1 → Happens .weirStep s fun t => SameStorage s t ∧ t.track p n = k ∧
         Coming t (s.dev.now + 105000) .weirStep s.dev.arg)) ∧
     (k.owner = 15 → k.busy = false → k.wanted = false → k.weirUntil ≤ s.dev.now → s.dev.power.actions = 0 → s.dev.arg.c < 2 →
       (s.dev.arg.words.headD 0 = 1 ∨
         ∀ m ≤ 272, s.dev.power.usedCaps.get 0 (2 + s.dev.arg.c) + share m ≤ s.dev.power.limit (2 + s.dev.arg.c)) →
       Happens .weirStep s fun t => SameStorage s t ∧ ∃ u, s.dev.now < u ∧ u ≤ s.dev.now + 272 ∧ t.track p n = { k with weirUntil := u })) ∧
  (∀ s : State, Safe s →
     let w := s.dev.arg.b
     let due := s.dev.arg.words.headD 0 = 1
     (s.dev.power.actions = 0 → s.dev.arg.a ≠ 0 → due ∨ s.dev.power.usedCaps.get 0 4 + share 1 ≤ s.dev.power.limit 4 →
       (s.sramBad w = true → Happens .patrolScrub s fun t => t.tagOf w = .poison ∧ t.wordAt (8 * w) = sramRecord w ∧ w ∉ t.bad ∧
         StorageOutside (within (8 * w) 8) s t) ∧
       (s.sramBad w = false → Happens .patrolScrub s fun t => SameStorage s t ∧ (s.sramSoft w = true → w ∉ t.soft))) ∧
     (0 < s.dev.power.actions → due → Happens .patrolScrub s fun t => SameStorage s t ∧ Coming t (s.dev.now + 105000) .patrolScrub s.dev.arg)) ∧
  (∀ s : State,
     (s.dev.power.actions = 0 → s.dev.power.usedCaps.get 0 6 + share 1 ≤ s.dev.power.limit 6 →
       Happens .serdesRetraining s fun t => SameStorage s t ∧ t.dev = { s.dev with power := t.dev.power, last := .ran }) ∧
     (0 < s.dev.power.actions → Happens .serdesRetraining s fun t => SameStorage s t ∧ t.dev.power = s.dev.power ∧
       Coming t (s.dev.now + 105000) .serdesRetraining s.dev.arg))

/-- R177, R290: a free array is granted to the best request; a lease ends 8,192 cycles after its grant. R180, R181, R183: commands,
chunks, MSET and MFREE at the array. R288, R289, R292: a command starts and consumes a chunk-row, whose accumulators are the sums of R82
and R83; a result vector enters q2. R185, R265: a ring rotation gathers its participants, registers its lock, moves its rows and ends.
R339, R340, R343: a copy is queued, starts, requests a run, writes one, and ends with its completion message.
R402, R403: an uncorrectable word of a rotated row arrives as POISON. Log entries 6, 28, 29, 31, 52, 53, 142 are the model's own reading here. -/
def Obligations.ArrayRotationAndCopyEvents : Prop :=
  (∀ (s : State) (q : Request),
     let r := s.dev.arg.a
     let a := s.arr r
     r < 768 → a.leased = false → a.gated = false → a.q2 = [] → a.running = none → a.q0 = [] →
     bestRequest a.lastRing a.requests = some q → q.resume = false →
     let n := (a.serial + 1) % 2 ^ 32
     Happens .leaseGrant s fun t => SameStorage s t ∧ (t.arr r).leased = true ∧ (t.arr r).holder = some (q.core, q.slot, q.act) ∧
       (t.arr r).serial = n ∧ (t.arr r).cnt = q.cnt ∧ (t.arr r).feed = [] ∧ (t.arr r).acc = [] ∧ (t.ctx q.core q.slot).lease.held = true ∧
       (t.ctx q.core q.slot).lease.serial = n ∧ Answered s t q.fill (BitVec.ofNat 64 (n * 65536 + q.cnt * 256 + r % 8)) false ∧
       Coming t (s.dev.now + 8192) .leaseTimeout { a := r, b := n, c := s.dev.now }) ∧
  (∀ s : State,
     let r := s.dev.arg.a
     let a := s.arr r
     (a.leased = true → a.serial = s.dev.arg.b → a.since = s.dev.arg.c → a.ending = none →
       (a.running = none → a.q0 = [] → Happens .leaseTimeout s fun t => SameStorage s t ∧ (t.arr r).leased = false ∧
         (t.arr r).endedAt = s.dev.now ∧ (t.arr r).feed = [] ∧ (t.arr r).q2 = a.q2) ∧
       (a.running.isSome ∨ a.q0 ≠ [] → Happens .leaseTimeout s fun t => SameStorage s t ∧ t.arr r = { a with ending := some 1, closing := false })) ∧
     (a.leased = false → a.serial = s.dev.arg.b → Happens .resultDiscard s fun t => SameStorage s t ∧ (t.arr r).q2 = [] ∧
       (t.arr r).holder = none ∧ Coming t (s.dev.now + 1) .leaseGrant { a := r })) ∧
  (∀ (s : State) (id n serial : Nat) (f : Flight), s.dev.arg.a = id → s.dev.flights.find id = some f →
     let r := arrayOf f.org n
     let a := s.arr r
     s.behind id f.org.core (Effect.toArray n) = false → s.storesBefore id f.org.core r = false →
     (∀ x fsx, f.cargo = .effect (.command x fsx n serial) →
       (a.under f.org serial = true → a.q0.length < 4 → Happens .arrayPush s fun t => SameStorage s t ∧
         t.arr r = { a with q0 := a.q0 ++ [{ word := x, fsx := fsx, dom := f.org.dom, ts := f.org.ts }] } ∧ t.dev.flights.find id = none ∧
         Coming t s.dev.now .commandStart { a := r }) ∧
       (a.under f.org serial = true → 4 ≤ a.q0.length → Happens .arrayPush s fun t => SameStorage s t ∧ TriedAgain s t .arrayPush) ∧
       (a.under f.org serial = false → Happens .arrayPush s fun t => SameStorage s t ∧ t.arr r = a ∧ t.dev.flights.find id = none)) ∧
     (∀ ws sc, f.cargo = .effect (.feed ws sc n serial) →
       (a.takesChunk f.org serial = true → a.feed.length < 8 → a.ending = none ∨ a.running.isSome ∨ a.q0 ≠ [] → Happens .arrayPush s fun t => SameStorage s t ∧
         t.arr r = { a with feed := a.feed ++ [(ws, sc)] } ∧ t.dev.flights.find id = none) ∧
       (a.takesChunk f.org serial = true → 8 ≤ a.feed.length → Happens .arrayPush s fun t => SameStorage s t ∧ TriedAgain s t .arrayPush) ∧
       (a.takesChunk f.org serial = false → Happens .arrayPush s fun t => SameStorage s t ∧ t.arr r = a ∧ t.dev.flights.find id = none)) ∧
     (f.cargo = .effect (.mset n serial) → a.under f.org serial = true → a.running = none → Happens .msetAtArray s fun t => SameStorage s t ∧
       (t.arr r).q0 = [] ∧ (t.arr r).feed = [] ∧ (t.arr r).acc = [] ∧ t.dev.flights.find id = none) ∧
     (f.cargo = .effect (.mfree n serial) → a.under f.org serial = true → a.running = none → a.q0 = [] →
       Happens .mfreeAtArray s fun t => SameStorage s t ∧ (t.arr r).leased = false ∧ (t.arr r).q2 = [] ∧ t.dev.flights.find id = none)) ∧
  (∀ (s : State) (x : Cmd) (rest : List Cmd),
     let r := s.dev.arg.a
     let a := s.arr r
     a.running = none → a.q0 = x :: rest → (∀ n, a.lastRow = some n → n < s.dev.now) → (s.clu (r / 8)).gated = false →
     readConflict (s.clu (r / 8)).locks (granules r x.word) = false → s.waitsInCluster (arrayOwner r) (r / 8) = false →
     Happens .commandStart s fun t => SameStorage s t ∧ t.arr r = { a with q0 := rest, running := some { x with start := s.dev.now } } ∧
       Coming t (s.dev.now + 8) .chunkRow { a := r } ∧ ∃ l ∈ (t.clu (r / 8)).locks, l.write = false ∧ l.ranges = granules r x.word) ∧
  (∀ (s : State) (cmd : Cmd),
     let r := s.dev.arg.a
     let a := s.arr r
     let x := cmd.word
     a.running = some cmd → ((s.clu (r / 8)).locks.any fun l => l.owner == arrayOwner r) = true →
     (a.feed = [] → Happens .chunkRow s fun t => SameStorage s t ∧ t.arr r = a ∧ TriedAgain s t .chunkRow) ∧
     (∀ ws scale rest, a.feed = (ws, scale) :: rest → (a.q2.filter ResultVec.entered).length < 512 → (s.clu (r / 8)).gated = false →
       cmd.rows + 1 < cmdM x * (cmdKc x + 1) →
       let ns := weightSets (cmdFb x)
       let i := cmd.rows % cmdM x
       let ch := cmd.rows / cmdM x
       Happens .chunkRow s fun t => SameStorage s t ∧ (t.arr r).feed = rest ∧ (t.arr r).running = some { cmd with rows := cmd.rows + 1 } ∧
         Coming t (s.dev.now + 1) .chunkRow { a := r } ∧
         (t.arr r).q2.length = a.q2.length + (if x.getLsbD 43 ∧ ch = cmdKc x then 2 * ns else 0) ∧
         ∀ q < 128 * ns, (t.arr r).acc.get 0 (accKey ns i q) = BitVec.ofNat 32 (columnStep cmd.fsx (cmdFa x) (cmdFb x)
           (leNat (ws.flatMap wordBytes)) scale (leNat (s.bytesAt (bstoreKey r (q % 128 * 65536 + (cmdBofs x + ch) * 256)) 256)) (q / 128)
           (if ch = 0 ∧ x.getLsbD 40 then 0 else (a.acc.get 0 (accKey ns i q)).toNat)))) ∧
  (∀ (s : State) (pre rest : List ResultVec) (v : ResultVec),
     let r := s.dev.arg.a
     (s.arr r).q2 = pre ++ v :: rest → (∀ x ∈ pre, x.entered = true) → v.entered = false →
     ((s.arr r).q2.filter ResultVec.entered).length < 512 →
     Happens .resultVector s fun t => SameStorage s t ∧
       t.arr r = { s.arr r with q2 := pre ++ { v with entered := true, due := s.dev.now } :: rest }) ∧
  (∀ s : State,
     let g := s.dev.arg
     let clu := physCluster g.a
     let n (i : Nat) : Nat := (g.words.getD i 0).toNat
     let r : Arrival := { core := g.a, slot := g.b, act := g.c, base := n 0, len := n 1, hops := n 2 }
     let all := (s.clu clu).arrivals ++ [r]
     (∃ h ∈ (s.ctx g.a g.b).holds, h.isRotation = true) → (s.ctx g.a g.b).act.num = g.c → (∀ h ∈ (s.core g.a).relq, h.org.act ≠ g.c) →
     (∀ x ∈ (s.clu clu).arrivals, x.core ≠ g.a) →
     ((∃ p ∈ s.ranks clu, ∀ x ∈ all, x.core ≠ p) → Happens .rotation s fun t => SameStorage s t ∧ (t.clu clu).arrivals = all) ∧
     ((∀ p ∈ s.ranks clu, ∃ x ∈ all, x.core = p) → (∀ x ∈ all, x.base = r.base ∧ x.len = r.len ∧ x.hops = r.hops) →
       Happens .rotation s fun t => SameStorage s t ∧ (t.clu clu).arrivals = all ∧ t.dev.lockWait = s.dev.lockWait ++ [ringOwner clu] ∧
         Coming t s.dev.now .rangeLockRegister { a := ringOwner clu })) ∧
  (∀ (s : State) (clu e : Nat) (r : Arrival) (rest : List Arrival), s.dev.arg.a = ringOwner clu → s.dev.lockWait = [ringOwner clu] →
     (s.clu clu).arrivals = r :: rest → freeEntry (s.clu clu).locks = some e →
     let ranges := (s.ranks clu).map fun p => (nearKey p r.base, r.len)
     (lockConflict (s.clu clu).locks (ringOwner clu) true ranges = false → Happens .rangeLockRegister s fun t => SameStorage s t ∧
       t.dev.lockWait = [] ∧ (t.clu clu).locks = (s.clu clu).locks ++ [{ owner := ringOwner clu, write := true, ranges := ranges, entry := e }] ∧
       Coming t (s.dev.now + r.len / 256 + r.hops + 8) .rotationEnd { a := clu } ∧
       (r.hops ≠ 0 → ∀ i < r.len / 256, ∃ k, s.dev.now < k ∧ k < s.dev.now + r.len / 256 + r.hops + 8 ∧
         Coming t k .rotationEnd { a := clu, b := i + 1 })) ∧
     (lockConflict (s.clu clu).locks (ringOwner clu) true ranges = true → Happens .rangeLockRegister s fun t => SameStorage s t ∧
       t.dev.lockWait = s.dev.lockWait ∧ TriedAgain s t .rangeLockRegister)) ∧
  (∀ (s : State) (r : Arrival) (rest : List Arrival) (n : Nat), Safe s →
     let clu := s.dev.arg.a
     let ps := s.ranks clu
     (s.clu clu).rotating = some n → (s.clu clu).arrivals = r :: rest →
     (s.dev.arg.b = 0 → Happens .rotationEnd s fun t => SameStorage s t ∧ (t.clu clu).arrivals = [] ∧ (t.clu clu).rotating = none ∧
       (t.clu clu).locks = (s.clu clu).locks.filter (fun l => l.owner != ringOwner clu)) ∧
     (∀ i, s.dev.arg.b = i + 1 →
       let at_ := r.base + 256 * i
       ps.Nodup → r.base % 256 = 0 → at_ + 256 ≤ 0x40000 → (∀ p ∈ ps, ∀ j < 256, s.predHole p (at_ + j) = false) →
       Happens .rotationEnd s fun t => (t.clu clu).arrivals = (s.clu clu).arrivals ∧
         StorageOutside (fun k => ∃ p ∈ ps, within (nearKey p at_) 256 k) s t ∧
         ∀ j < ps.length,
           let from_ := nearKey (ps.getD j 0) at_
           let to_ := nearKey (ps.getD ((j + r.hops) % ps.length) 0) at_
           ∀ w < 32,
             (s.sramBad (from_ / 8 + w) = false → t.wordAt (to_ + 8 * w) = s.wordAt (from_ + 8 * w) ∧ t.tagOf (to_ / 8 + w) = s.tagOf (from_ / 8 + w)) ∧
             (s.sramBad (from_ / 8 + w) = true → t.wordAt (to_ + 8 * w) = sramRecord (from_ / 8 + w) ∧ t.tagOf (to_ / 8 + w) = .poison))) ∧
  (∀ (s : State) (id : Nat), s.dev.arg.a = id →
     (∀ f ws xid, s.dev.flights.find id = some f → f.cargo = .effect (.copy ws xid) →
       s.copyBehind id (s.engineOf f.org.core) = false → s.engineOf f.org.core < 384 →
       Happens .copyStart s fun t => SameStorage s t ∧ Coming t (s.dev.now + 1) .copyStart { a := id } ∧
         ∃ k : Copy, t.dev.copies.find id = some k ∧ k.org = f.org ∧ k.words = ws ∧ k.xid = xid ∧ k.core = f.org.core ∧ k.engine = s.engineOf f.org.core ∧ k.started = false) ∧
     (∀ k, s.dev.flights.find id = none → s.dev.copies.find id = some k → k.started = false → k.over = false →
       s.amongFirst id k = true →
       (recLock k.words = true → Happens .copyStart s fun t => SameStorage s t ∧ t.dev.copies = s.dev.copies ∧ copyOwner id ∈ t.dev.lockWait ∧
         (copyOwner id ∉ s.dev.lockWait → Coming t (s.dev.now + 1) .rangeLockRegister { a := copyOwner id })) ∧
       (recLock k.words = false → Happens .copyStart s fun t => SameStorage s t ∧ t.dev.copies.find id = some { k with started := true }))) ∧
  (∀ (s : State) (id : Nat) (k : Copy), s.dev.copies = [(id, k)] → k.engine = s.dev.arg.a → k.live = true →
     let w := k.words
     let part (md : AddrMode) (v : Nat) (pl : Place) : Place := if md = .ci then s.place k.core .ci v else pl
     (∀ pl, (s.clu (k.engine / 4)).gated = false → k.paused = false → k.mismatch = false → k.next < recTotal w → s.tagsHeld k.engine < 1024 → recFilled w k.next = false →
       s.spot k.core (recSmode w) (recSrc w k.next) (recSize w) = .ok (.place pl) →
       let m := elemRun (recSrc w) (fun i => !recFilled w i) k.next (recSize w) (recTotal w) 256
       Happens .copyRequest s fun t => SameStorage s t ∧
         t.dev.copies.find id = some { k with next := k.next + m, reqs := k.reqs.filter (s.reqOpen id k) ++ [(k.next, m)] } ∧
         ∀ r ∈ runParts (recSmode w) (recSrc w k.next) (recSize w) k.next m, ∃ x ∈ t.dev.flights,
           x.2.cargo = .copyRead id r.1 r.2 (r.2 * recSize w) ∧ x.2.place = part (recSmode w) (recSrc w r.1) pl ∧ x.2.org = k.org) ∧
     (∀ n pl data, k.pickReady s.dev.now = some n → s.spot k.core (recDmode w) (recDst w n) (recSize w) = .ok (.place pl) →
       let m := k.writeRun s.dev.now n
       (List.range m).mapM (fun i => k.element s.dev.now (n + i)) = some data →
       Happens .copyWrite s fun t => SameStorage s t ∧ t.dev.copies.find id = some (k.takeReady n m) ∧
         ∀ r ∈ runParts (recDmode w) (recDst w n) (recSize w) n m, ∃ x ∈ t.dev.flights,
           x.2.cargo = .copyWrite id r.1 ((data.drop (r.1 - n)).take r.2) ∧ x.2.place = part (recDmode w) (recDst w r.1) pl ∧ x.2.org = k.org)) ∧
  (∀ (s : State) (id : Nat) (k : Copy), s.dev.arg.a = id → s.dev.copies.find id = some k → k.accepted = false → k.cancelled = false →
     recTotal k.words ≤ k.done + k.restart → s.dev.arg.b ≠ 1 →
     ((s.core k.core).roomDevice 16 = true → Happens .copyCompletion s fun t => SameStorage s t ∧
       (∃ m : Msg, (t.core k.core).chans.get [] 2 = (s.core k.core).chans.get [] 2 ++ [m] ∧ m.device = true ∧ m.entry = recHaddr k.words ∧
         m.words = [(BitVec.ofNat 64 (recPri k.words), false)] ∧ m.done = some (BitVec.ofNat 64 k.xid, k.status)) ∧
       (∀ l ∈ (t.clu (physCluster k.core)).locks ++ t.dev.sliceLocks, l.owner ≠ copyOwner id) ∧
       ∃ c : Copy, t.dev.copies.find id = some c ∧ c.accepted = true) ∧
     ((s.core k.core).roomDevice 16 = false →
       Happens .copyCompletion s fun t => SameStorage s t ∧ Coming t (s.dev.now + 1) .copyCompletion { a := id }))

/-! ## Events: launches, pre-emption, harvest, graphs and the fabric -/

/-- R360, R362: a record is checked, and queued or refused; R365, R216, R217: the best record of a tenant starts, and each core accepts its
wake; R218: a launch ends when every core was idle and the message counts agree; R407: a launch fault stops it.
R366 to R370: a launch is pre-empted, saved and restored. R377: a grant is revoked by steps. R372, R375: an entry of a harvest queue is
bound. R326, R327, R330: a graph instance, and a node that is done.
R384 to R387: packets at the receiving Wharf, their drain, replies, NACKs, timeouts and retries. R392 to R394: heartbeats, suspect and failed
members, and remap.
Log entries 6, 22 (the place of HIDX in the BADIDX record), 40 (microseconds in cycles), 70 to 88 and 145 are the model's own reading
here. -/
def Obligations.LaunchGraphAndFabricEvents : Prop :=
  (∀ s : State,
     let g := s.dev.arg
     let n (i : Nat) : Nat := (g.words.getD i 0).toNat
     let id := s.dev.nextLaunch + 1
     let l : Launch := { words := g.words.take 8, producer := g.a, who := g.b, node := g.c, seq := id
                         dom := if g.a = 2 then 4 * g.b + 1 else 4 * id, ts := n 9, early := decide (n 10 = 1) }
     (s.recordStatus (n 8) l = none → (s.tenantLaunches l.tenant fun x => x.phase == .queued).length < 256 →
       Happens .launchRecord s fun t => SameStorage s t ∧ t.dev.launches.find id = some l ∧ t.dev.nextLaunch = id ∧
         Coming t (s.dev.now + 1) .launchStart { a := l.tenant }) ∧
     (s.recordStatus (n 8) l = none → 256 ≤ (s.tenantLaunches l.tenant fun x => x.phase == .queued).length →
       Happens .launchRecord s fun t => SameStorage s t ∧ t.dev.launches = s.dev.launches ∧ TriedAgain s t .launchRecord) ∧
     (∀ st, s.recordStatus (n 8) l = some st → g.a = 0 → Happens .launchRecord s fun t => SameStorage s t ∧
       t.dev.launches = s.dev.launches ∧ t.dev.sent = s.dev.sent ++ [Reply s 2 (n 8) g.b (BitVec.ofNat 64 st)] ∧
       ∃ r, t.dev.log.getLast? = some r ∧ (r.getD 1 0).toNat % 512 = 0x1E8)) ∧
  (∀ (s : State) (n : Nat) (l : Launch),
     let u := s.dev.arg.a
     bestRecord (s.tenantLaunches u fun x => x.phase == .queued) = some (n, l) → l.w 6 = 0 →
     (s.tenantLaunches u fun m => m.runs && l.meets m) = [] → (s.tenantLaunches u fun m => m.phase != .queued).length < 64 →
     (∀ v ∈ l.clusters, ∀ o, (s.clu v).tenant = some o → o = u) →
     (∀ e ∈ s.dev.launches, e.2.tenant = u → e.2.prio < l.prio → e.2.phase ≠ .restoring ∧ s.restorable e.1 e.2 = false) →
     Happens .launchStart s fun t => t.dev.launches.find n = some { l with phase := .running, img := none } ∧
       ∀ c ∈ t.coresOf l, ∃ k, s.dev.now < k ∧ Coming t k .wake { a := n, b := c }) ∧
  (∀ (s : State) (l : Launch),
     let n := s.dev.arg.a
     let p := s.phys s.dev.arg.b
     s.launch? n = some l → l.phase = .running → s.dev.arg.b ∉ l.woken →
     ((s.core p).launch = none → (s.core p).scanning = false → slotFree s.dev p 0 = true → Happens .wake s fun t =>
       (t.core p).launch = some n ∧ (t.core p).frozen = false ∧ (t.core p).events = [] ∧ (t.core p).wpbase = l.wpbase ∧ (t.core p).quota = l.quota ∧ (t.core p).ch0.entry = l.entry ∧
       (t.core p).released = 0 ∧ (t.core p).accepted = 0 ∧ (∃ m : Msg, (t.core p).chans = [(0, [m])] ∧ m.device = true ∧ m.org.ts = l.ts) ∧
       t.dev.launches.find n = some { l with woken := s.dev.arg.b :: l.woken }) ∧
     ((s.core p).launch.isSome → Happens .wake s fun t => SameStorage s t ∧ TriedAgain s t .wake)) ∧
  (∀ (s : State) (l : Launch),
     let n := s.dev.arg.a
     let ps := (s.coresOf l).map s.phys
     let sums := ps.foldl (fun (a : Nat × Nat) p => (a.1 + (s.core p).released, a.2 + (s.core p).accepted)) (0, 0)
     let atEnd := l.woken.length = ps.length ∧ (∀ p ∈ ps, (s.core p).idle = true) ∧ sums.1 = sums.2 ∧ l.sums = some sums
     s.launch? n = some l → l.phase = .running →
     (atEnd → l.producer = 0 → Happens .launchEnd s fun t => (s.dev.coreMapNext = [] → SameStorage s t) ∧ t.dev.launches.find n = none ∧
       Reply s 2 l.tenant l.who 0 ∈ t.dev.sent ∧ ∀ p ∈ ps, (s.core p).launch = some n → (t.core p).launch = none) ∧
     (¬atEnd → Happens .launchEnd s fun t => SameStorage s t ∧ t.dev.launches.find n = some { l with sums := some sums })) ∧
  (∀ (s : State) (l : Launch),
     let g := s.dev.arg
     let w (i : Nat) : Word := g.words.getD i 0
     s.launch? g.a = some l →
     (g.c < 64 → l.phase = .running → Happens .launchFault s fun t => SameStorage s t ∧
       (∃ r, t.dev.log.getLast? = some r ∧ (r.getD 1 0).toNat % 512 = 0x1E2) ∧
       (∃ x : Trap, x.cause = (w 1).toNat ∧ x.pc = w 0 ∧ t.dev.launches.find g.a = some { l with phase := .faulting, woken := [], fault := some x }) ∧
       ∀ c ∈ s.coresOf l, ∃ k, Coming t k .launchFault { a := g.a, b := s.phys c, c := 64 }) ∧
     (g.c = 65 → l.phase = .faulting → l.producer = 0 → Happens .launchFault s fun t => t.dev.launches.find g.a = none ∧
       Reply s 2 l.tenant l.who 4 ∈ t.dev.sent) ∧
     (g.c < 64 → l.phase = .saved ∨ l.phase = .restoring → Happens .launchFault s fun t => SameStorage s t ∧ TriedAgain s t .launchFault)) ∧
  (∀ (s : State) (l : Launch),
     let g := s.dev.arg
     s.launch? g.a = some l →
     (g.b = 0 → l.phase = .running → Happens .preEmption s fun t => SameStorage s t ∧
       t.dev.launches.find g.a = some { l with phase := .stopping, stops := [] } ∧
       ∀ c ∈ s.coresOf l, ∃ k, Coming t k .preEmption { a := g.a, b := 1, c := s.phys c }) ∧
     (g.b = 5 → l.phase = .saving → Happens .preEmption s fun t => t.dev.launches.find g.a = some { l with phase := .saved } ∧
       ∀ c ∈ s.coresOf l, (s.core (s.phys c)).launch = some g.a → (t.core (s.phys c)).launch = none) ∧
     (g.b = 0 → l.phase = .saved → s.restorable g.a l = true →
       (∀ k ∈ (s.dev.saves.get {} g.a).cores, (s.core k.1).launch = none ∧ (s.core k.1).grant = none ∧ (s.core k.1).revoking = false ∧
         ∀ x ∈ (s.core k.1).ctxs, x.2.live = false) →
       Happens .restore s fun t => SameStorage s t ∧ t.dev.launches.find g.a = some { l with phase := .restoring } ∧
         ∃ k, Coming t k .restore { g with b := 1 }) ∧
     (∀ p old, g.b = 1 → l.phase = .restoring → (s.dev.saves.get {} g.a).cores = [(p, old)] → (s.dev.saves.get {} g.a).arrays = [] →
       (s.dev.saves.get {} g.a).copies = [] → Happens .restore s fun t =>
         t.dev.launches.find g.a = some { l with phase := .running, stops := [] } ∧ (t.core p).launch = old.launch ∧
         (t.core p).chans = old.chans ∧ (t.core p).wpbase = old.wpbase ∧ (t.core p).frozen = false) ∧
     (g.b = 0 → l.phase = .running → s.saveFits l (s.savedOf l.tenant) = true → Happens .preemptCommand s fun t => SameStorage s t ∧
       t.dev.launches.find g.a = some { l with held := true } ∧ Coming t (s.dev.now + 1) .preEmption { a := g.a }) ∧
     (g.b ≠ 0 → Happens .preemptCommand s fun t => SameStorage s t ∧ t.dev.launches.find g.a = some { l with held := false } ∧
       Coming t (s.dev.now + 1) .restore { a := g.a })) ∧
  (∀ (s : State),
     let p := s.dev.arg.a
     let k := s.core p
     (k.revoking = false ∨ k.revokeAt ≠ s.dev.arg.c → Happens .revocation s fun t => t = { s with dev := { s.dev with last := .ran } }) ∧
     (k.revoking = true → k.revokeAt = s.dev.arg.c → s.dev.arg.b = 9 → Happens .revocation s fun t => SameStorage s t ∧
       Coming t (s.dev.now + 1) .revocation { a := p, b := 10, c := k.revokeAt }) ∧
     (k.revoking = true → k.revokeAt = s.dev.arg.c → s.dev.arg.b = 10 → Happens .revocation s fun t => SameStorage s t ∧
       Coming t (s.dev.now + 1) .revocation { a := p, b := 11, c := k.revokeAt }) ∧
     (k.revoking = true → k.revokeAt = s.dev.arg.c → s.dev.arg.b = 11 → k.nextGrant = none → (s.logical p).isSome → Happens .revocation s fun t => SameStorage s t ∧ (t.core p).grant = none ∧
       (t.core p).revoking = false ∧ (t.core p).parked = k.parked ++ (k.harvesting.map fun sl => { slot := sl, ctx := k.ctx sl }) ∧
       ∀ sl ∈ harvestSlots, (t.ctx p sl).live = false)) ∧
  (∀ (s : State) (ws : List Word) (head tail size sl : Nat),
     let g := s.dev.arg
     let p := g.a
     s.ringOf p g.c = some (head, tail, size) → g.b = 1 → s.queueRead p g.c (entryOff size (g.words.getD 0 0).toNat) 8 = some ws →
     (entryGood ws = true → s.lends p = true → s.harvestFree p = some sl → Happens .harvestBinding s fun t =>
       let x := t.ctx p sl
       x.live = true ∧ x.tenant = g.c ∧ x.act.prio = 7 ∧ x.act.ts = 0 ∧ x.act.open_ = false ∧ x.pc = BitVec.ofNat 64 (bits (ws.getD 0 0) 0 18) ∧
       x.entryWords = ws) ∧
     (entryGood ws = false → Happens .harvestBinding s fun t => ∃ r, t.dev.log.getLast? = some r ∧ (r.getD 1 0).toNat % 512 = 0x1EB)) ∧
  (∀ (s : State) (i : Nat) (x : Instance),
     let h := s.graphHead x
     s.dev.arg.a = i →
     (∀ f va fill, s.dev.arg.b ≠ 1 → s.dev.flights.find i = some f → f.cargo = .effect (.glaunch va fill) →
       Happens .graphInstance s fun t => SameStorage s t ∧ Coming t (s.dev.now + 1) .graphInstance { a := i, b := 1 } ∧
         t.dev.graphs.find i = some { table := va.toNat, core := f.org.core, slot := f.org.slot, tenant := f.org.tenant, pid := f.org.pid, fill := fill }) ∧
     (s.dev.arg.b = 1 → s.dev.graphs.find i = some x → x.begun = false → s.mayBegin i x = true →
       (headGood x h = false → Happens .graphInstance s fun t => SameStorage s t ∧ t.dev.graphs.find i = none ∧
         (∃ r : Word, r.toNat % 512 = 0x18E ∧ Answered s t x.fill r true) ∧ ∃ r, t.dev.log.getLast? = some r ∧ (r.getD 1 0).toNat % 512 = 0x1EA) ∧
       (∀ w, headGood x h = true → s.graphWords x (headCtr h) 1 = some [w] →
         Happens .graphInstance s fun t => Answered s t x.fill (BitVec.ofNat 64 (nextGen (bits w 0 16))) false)) ∧
     (∀ n w, s.dev.arg.words.length = 1 → s.dev.arg.b = n → s.dev.arg.c = 0 → s.dev.graphs.find i = some x → n ∈ x.dispatched → n ∉ x.done →
       n ∉ x.refused → s.node x n = some w → s.nodeGood x h w = true → s.successors x h w = some [] →
       Happens .nodeDone s fun t =>
         (x.begun = true → x.totals = [] → (∀ m ∈ x.dispatched, m ∈ n :: x.done ∨ m ∈ x.refused) → t.dev.graphs.find i = none) ∧
         (x.begun = false ∨ x.totals ≠ [] ∨ (∃ m ∈ x.dispatched, m ∉ n :: x.done ∧ m ∉ x.refused) → t.dev.graphs.find i = some { x with done := n :: x.done, early := x.early.filter (· != n) }))) ∧
  (∀ (s : State) (l : Nat) (e : Word),
     let g := s.dev.arg
     let w := g.words.getD 0 0
     let u := pktTenant w
     let q := (s.dev.tenants.get {} u).levels.get [] (pktLevel w)
     s.dev.ranks.get 0 (pktDst w) = e → pktLevel w = l → s.dev.power.recovery = false →
     (packetGood g.words = false → Happens .invocationPacket s fun t => SameStorage s t ∧ t.dev.tenants = s.dev.tenants ∧
       ∃ r, t.dev.log.getLast? = some r ∧ (r.getD 1 0).toNat % 512 = 0x1EC) ∧
     (packetGood g.words = true → (w.getLsbD 63 = decide (g.a = 2)) → e.getLsbD 31 = true → rankChip e = s.dev.chip → bits e 24 7 = u →
       ((((s.dev.tenants.get {} u).table.get [] (pktIdx w)).getD 0 0).getLsbD 63 = true) → q.length < 64 →
       Happens .invocationPacket s fun t => SameStorage s t ∧ Coming t (s.dev.now + 1) .packetDrain { a := u } ∧
         (t.dev.tenants.get {} u).levels.get [] l = q ++ [g.words ++ [BitVec.ofNat 64 g.a, BitVec.ofNat 64 g.b]])) ∧
  (∀ (s : State) (l : Nat) (p : List Word),
     let u := s.dev.arg.a
     let x := s.dev.tenants.get {} u
     nextPacket x.levels = some (l, p) → (∀ e ∈ s.dev.agenda, e.ev ≠ .launchRecord) →
     (s.tenantLaunches u fun y => y.phase == .queued).length < 256 → Happens .packetDrain s fun t => SameStorage s t ∧
       (t.dev.tenants.get {} u).levels.get [] l = (x.levels.get [] l).drop 1 ∧ (t.dev.tenants.get {} u).lid = x.lid + 1 ∧
       ∃ a : Arg, Coming t (s.dev.now + 1) .launchRecord a ∧
         a.words.take 8 = (drainRecord x.lid u p (x.table.get [] (pktIdx (p.getD 0 0)))).take 8) ∧
  (∀ (s : State) (p : Packet),
     let g := s.dev.arg
     s.dev.packets.find g.a = some p →
     (p.waiting = false → (g.b ≠ 2 ∨ p.retries ≤ p.tried) → Happens .invocationReply s fun t => SameStorage s t ∧ t.dev.packets.find g.a = none ∧
       Answered s t p.fill (if g.b = 5 then BitVec.ofNat 64 (0x1C1 + p.rank * 65536 + pktIdx (p.words.getD 0 0) * 2 ^ 56) else BitVec.ofNat 64 g.b)
         (decide (g.b = 5))) ∧
     (p.waiting = false → g.b = 2 → p.tried < p.retries → Happens .invocationReply s fun t => SameStorage s t ∧
       t.dev.packets.find g.a = some { p with tried := p.tried + 1, waiting := true, resends := 0 } ∧
       Coming t (s.dev.now + 1024 * 2 ^ p.tried) .retryWait { a := g.a, b := 1, c := p.send }) ∧
     (∀ ev ∈ [Instr.nack, .replyTimeout], (ev = .replyTimeout → p.send = g.b) → p.waiting = false →
       (p.resends < 3 → Happens ev s fun t => SameStorage s t ∧
         t.dev.packets.find g.a = some { p with resends := p.resends + 1, send := p.send + 1 } ∧
         Coming t (s.dev.now + 210000) .replyTimeout { a := g.a, b := p.send + 1 }) ∧
       (3 ≤ p.resends → Happens ev s fun t => SameStorage s t ∧ t.dev.packets.find g.a = none ∧ Answered s t p.fill 4 false)) ∧
     (p.send ≠ g.b → Happens .replyTimeout s fun t => t = { s with dev := { s.dev with last := .ran } }) ∧
     (g.b = 1 → p.waiting = true → p.send = g.c → s.rankLost p.rank = true → Happens .retryWait s fun t => SameStorage s t ∧
       t.dev.packets.find g.a = none ∧ Answered s t p.fill 4 false) ∧
     (g.b = 1 → p.waiting = true → p.send = g.c → s.rankLost p.rank = false → Happens .retryWait s fun t => SameStorage s t ∧
       t.dev.packets.find g.a = some { p with send := p.send + 1, waiting := false } ∧
       Coming t (s.dev.now + 210000) .replyTimeout { a := g.a, b := p.send + 1 })) ∧
  (∀ (s : State),
     let g := s.dev.arg
     (Happens .heartbeat s fun t => SameStorage s t ∧ Coming t (s.dev.now + 10500) .heartbeat ∧
       ∀ d ∈ s.peers, (s.dev.line d, [BitVec.ofNat 64 s.dev.chip]) ∈ t.dev.sent) ∧
     (Happens .heartbeatArrival s fun t => SameStorage s t ∧ ∀ i e, s.dev.groups.find i = some e → bits e 0 12 = g.a →
       t.dev.beats.get 0 i = s.dev.now ∧ Coming t (s.dev.now + 31500) .suspect { a := i, b := s.dev.now } ∧
       Coming t (s.dev.now + 105000) .failed { a := i, b := s.dev.now } ∧
       (memberState e = 2 → ∃ x, t.dev.groups.find i = some x ∧ memberState x = 1)) ∧
     (∀ e, s.dev.groups.find g.a = some e → s.dev.beats.get 0 g.a = g.b → (memberState e = 1 ∨ memberState e = 2 ∨ memberState e = 4) →
       (Happens .suspect s fun t => SameStorage s t ∧ ∃ x, t.dev.groups.find g.a = some x ∧ memberState x = 2) ∧
       Happens .failed s fun t => SameStorage s t ∧ (∃ x, t.dev.groups.find g.a = some x ∧ memberState x = 3) ∧
         (Config.choice s.dev.fresh % 2 = 0 → Coming t (s.dev.now + 1) .remap { a := bits e 0 12, b := g.a / 1024 })) ∧
     (∀ i, s.spare g.b = some i → Happens .remap s fun t => SameStorage s t ∧
       Coming t (s.dev.now + 1) .remapApply { a := g.a, b := bits (s.dev.groups.get 0 i) 0 12, c := i }) ∧
     (g.a < 4096 → g.b < 4096 → Happens .remapApply s fun t => SameStorage s t ∧
       (∀ r e, s.dev.ranks.find r = some e → ∃ x, t.dev.ranks.find r = some x ∧ rankChip x = if rankChip e = g.a then g.b else rankChip e) ∧
       ∀ i e, s.dev.groups.find i = some e → bits e 0 12 = g.a → memberState e ≠ 0 → i ≠ g.c →
         ∃ x, t.dev.groups.find i = some x ∧ memberState x = 3))

/-! ## Events: the host's side, management, power, trace -/

/-- R388 to R391: frames are handed on, dropped and counted, or logged; host invocations, RDMA writes and reads, management messages.
R363, R380, R383, R392, R417: the tables that management writes. R411, R420, R426, R432, R433: status reads, dumps, staging and boot.
R425, R421, R429 to R432: the power pins, Sluice, Weir's periods, the power-fail path and a launch's restore.
R412 to R418, R416, R208, R210: the trace, Thyme, halts, the end of a scan, and PERFQ's round. R99, R230: a YIELD ends, a context ages.
R29, R30: a group that does not decode, or has no group's address, raises its fault.
Log entries 4 (what the boot ROM accepts), 6, 40 (microseconds in cycles), 73 (the payload of a frame that answers), 89 to 105, 129, 144
are the model's own reading here. -/
def Obligations.HostPowerAndTraceEvents : Prop :=
  (∀ (s : State),
     let g := s.dev.arg
     let ws := g.words
     let u := frameTenant ws
     (s.dev.power.down = false → s.dev.power.fail = none → g.c ≠ s.dev.udpPort → Happens .frame s fun t =>
       t = { s with dev := { s.dev with drops := s.dev.drops + 1, last := .ran } }) ∧
     (s.dev.power.down = false → s.dev.power.fail = none → g.c = s.dev.udpPort →
       (u ≠ 0 → (g.a, g.b) ∉ (s.dev.tenants.get {} u).ports → Happens .frame s fun t => SameStorage s t ∧
         ∃ r, t.dev.log.getLast? = some r ∧ (r.getD 1 0).toNat % 512 = 0x1ED) ∧
       (u = 0 ∨ (g.a, g.b) ∈ (s.dev.tenants.get {} u).ports → frameType ws = 1 → Happens .frame s fun t => SameStorage s t ∧
         Coming t (s.dev.now + 1) .hostInvocation { a := g.a, b := frameSeq ws, c := u, words := ws })) ∧
     (s.dev.power.recovery = false → Happens .hostInvocation s fun t => SameStorage s t ∧
       ∃ k, Coming t k .invocationPacket { a := 2, b := g.b, words := bytesWords ((frameBytes ws).take 32) }) ∧
     (s.dev.power.recovery = false →
       let bs := frameBytes ws
       let pid := leNat (bs.take 2)
       let va := (ws.getD 1 0).toNat
       (∀ c, g.a < 65536 → (bs.drop 2).length ≤ 8192 → s.rdmaParts g.c pid va (bs.drop 2).length false true = .error c →
         Happens .rdmaWrite s fun t => SameStorage s t ∧ t.dev.sent = s.dev.sent ++ [Reply s 8 g.c g.b (BitVec.ofNat 64 c)]) ∧
       (∀ pa key, Safe s → g.a < 65536 → s.rdmaParts g.c pid va (bs.drop 2).length false true = .ok [(.phys pa, key, (bs.drop 2).length)] →
         s.partFault pa (bs.drop 2).length = none → pa % 64 + (bs.drop 2).length ≤ 64 → Happens .rdmaWrite s fun t =>
         t.dev.sent = s.dev.sent ++ [Reply s 8 g.c g.b 0] ∧ t.physBytes pa (bs.drop 2).length key = bs.drop 2) ∧
       (let n := min 8192 (leNat ((bs.drop 2).take 2))
        (∀ c, s.rdmaParts g.c pid va n true false = .error c → Happens .rdmaRead s fun t => SameStorage s t ∧
          t.dev.sent = s.dev.sent ++ [Reply s 7 g.c g.b (BitVec.ofNat 64 c)]) ∧
        (∀ pa key, n ≤ 8176 → s.rdmaParts g.c pid va n true false = .ok [(.phys pa, key, n)] → s.readRecord pa n s.dev.fresh = none →
          Happens .rdmaRead s fun t => SameStorage s t ∧
            t.dev.sent = s.dev.sent ++ [Reply s 7 g.c g.b 0 (s.physBytes pa n key)]))) ∧
     (s.dev.mgmt.find g.a = none → Happens .managementMessage s fun t => SameStorage s t ∧ t.dev.drops = s.dev.drops + 1 ∧
       ∃ r, t.dev.log.getLast? = some r ∧ (r.getD 1 0).toNat % 512 = 0x1EE) ∧
     (∀ key next, s.dev.mgmt.find g.a = some (key, next) → next ≤ g.b → macGood key ws = true → s.dev.power.recovery = false →
       let x (i : Nat) : Nat := ((messageWords ws).getD i 0).toNat
       (∀ e, commandEvent (x 0) = some e → Happens .managementMessage s fun t => SameStorage s t ∧
         t.dev.mgmt.find g.a = some (key, g.b + 1) ∧ ∃ k, Coming t k e { a := x 1, b := x 2, c := g.b, words := (messageWords ws).drop 3 }) ∧
       (x 0 = 14 → Happens .managementMessage s fun t => SameStorage s t ∧ t.dev.rdmaPort = x 1 % 2) ∧
       (x 0 = 13 → Happens .managementMessage s fun t => SameStorage s t ∧ t.dev.udpPort = x 1 % 65536) ∧
       (x 0 = 15 → x 1 < 4096 → Happens .managementMessage s fun t => SameStorage s t ∧ t.dev.routes.find (x 1) = some (x 2 % 24)))) ∧
  (∀ (s : State),
     let g := s.dev.arg
     let w := g.words.getD 0 0
     (g.b = 0 → 1 ≤ g.a → g.a < 128 → g.words.length = 4 →
       (s.entryFits g.a g.words = true → Happens .tenantTableWrite s fun t => SameStorage s t ∧ (t.dev.tenants.get {} g.a).entry = g.words) ∧
       (s.entryFits g.a g.words = false → Happens .tenantTableWrite s fun t => t = { s with dev := { s.dev with last := .ran } })) ∧
     (g.b = 2 → g.a < 128 → Happens .tenantTableWrite s fun t => SameStorage s t ∧
       (t.dev.tenants.get {} g.a).ports = g.words.map fun w => (bits w 16 16, bits w 0 16)) ∧
     (g.a < 128 → g.b < 256 → Happens .invocationTableWrite s fun t => SameStorage s t ∧
       (t.dev.tenants.get {} g.a).table.get [] g.b = if invocationGood g.words then g.words.take 8 else []) ∧
     (g.a < 4096 → Happens .rankMapWrite s fun t => SameStorage s t ∧ t.dev.ranks.find g.a = some (w &&& 0xFFF00FFF)) ∧
     (g.a < 16 → g.b < 1024 → memberState w ≤ 4 → Happens .groupTableWrite s fun t => SameStorage s t ∧
       t.dev.groups.find (g.a * 1024 + g.b) = some (w &&& 0xF00000FFF) ∧ t.dev.beats.get 0 (g.a * 1024 + g.b) = s.dev.now) ∧
     (s.retired g.a = false → g.b < 4 → Happens .breakpointWrite s fun t => SameStorage s t ∧
       (t.core (s.phys g.a)).breaks.get 0 g.b = (w &&& 0xFFFF00000007FFFC)) ∧
     (g.a < 2 → Happens .firmwareStaging s fun t => SameStorage s t ∧ t.dev.flash.find g.a = some g.words) ∧
     (g.a = 0 → Happens .statusRead s fun t => SameStorage s t ∧ t.dev.sent = s.dev.sent ++ [Reply s 4 0 g.c 0 (wordBytes s.dev.health)]) ∧
     (g.a = 1 → s.dev.log.flatten.length ≤ 1022 → Happens .statusRead s fun t => SameStorage s t ∧
       t.dev.sent = s.dev.sent ++ [Reply s 4 0 g.c 0 (s.dev.log.flatten.flatMap wordBytes)]) ∧
     (∀ b, s.retired g.a = false → (s.core (s.phys g.a)).halt = .halted b → Happens .dump s fun t => SameStorage s t ∧
       (∃ f fs, t.dev.sent = s.dev.sent ++ (0, f) :: fs) ∧ t.dev = { s.dev with sent := t.dev.sent, frameSeq := t.dev.frameSeq, last := .ran }) ∧
     (s.dev.power.recovery = false →
       let report := s.dev.attest g.words
       (g.b = 0 → Happens .attestation s fun t => SameStorage s t ∧ t.dev.report = report ∧ t.dev.ephemeral = s.dev.fresh ∧
         (report.length ≤ 1024 → t.dev.sent = s.dev.sent ++ [(0, hostFrame 4 0 s.dev.frameSeq 0 (report.flatMap wordBytes))])) ∧
       (g.b ≠ 0 → Happens .attestation s fun t => SameStorage s t ∧ t.dev.mgmt.find g.a =
         some (byteWords (hkdf (Config.sharedSecret s.dev.ephemeral g.words) (s.dev.report.flatMap wordBytes)), 0))) ∧
     (s.dev.record = none → Happens .boot s fun t => SameStorage s t ∧ t.dev.booted = true ∧
       Coming t (s.dev.now + 10500) .pstepSample ∧ Coming t (s.dev.now + 10500) .powerEstimate ∧
       match s.dev.accepted with
       | none => t.dev.power.recovery = true
       | some m => t.dev.measured = measurements m ∧ t.dev.identity = identityOf s.dev.fused (measurements m) ∧ t.dev.power = s.dev.power ∧
           Coming t (s.dev.now + 10500) .heartbeat ∧ Coming t (s.dev.now + 105000) .weirPeriod)) ∧
  (∀ (s : State),
     let g := s.dev.arg
     let w := s.dev.power
     (Happens .powerStepCommand s fun t => SameStorage s t ∧ t.dev.power = { w with cmd := g.a % 8 }) ∧
     (1 ≤ g.a → g.a ≤ 100 → Happens .rampRate s fun t => SameStorage s t ∧ t.dev.power = { w with ramp := g.a }) ∧
     (g.a < 8 → g.b ≤ 10 * defaultCap g.a → ((List.range 8).map (Power.cap { w with caps := w.caps.set g.a g.b })).foldl (· + ·) 0 ≤ 10000 →
       Happens .weirCap s fun t => SameStorage s t ∧ t.dev.power.cap g.a = g.b) ∧
     (Happens .pstepSample s fun t => SameStorage s t ∧ t.dev.power = { w with pinSample := w.pins % 8, pin := if w.pinSample = w.pins % 8 then w.pins % 8 else w.pin } ∧
       Coming t (s.dev.now + 10500) .pstepSample) ∧
     (Happens .powerEstimate s fun t => SameStorage s t ∧ Coming t (s.dev.now + 10500) .powerEstimate ∧ t.dev.power.recent.length ≤ 10 ∧
       t.dev.power.target = (if levelGoal w.inForce < w.target then levelGoal w.inForce else min (levelGoal w.inForce) (w.target + w.ramp * 33)) ∧
       t.dev.power.actions ≤ w.actions + 1 ∧ w.actions ≤ t.dev.power.actions + 1) ∧
     (Happens .weirPeriod s fun t => SameStorage s t ∧ Coming t (s.dev.now + 105000) .weirPeriod ∧
       (0 < w.actions → t.dev.power.usedCaps = [] ∧ t.dev.power.clocks = w.clocks) ∧
       (w.actions = 0 → ∀ n ∈ [0, 1, 2, 4, 7], t.dev.power.clocks.get 0 n =
         if w.clocks.get 0 n + 1 < (s.dev.weirRound n).2 then w.clocks.get 0 n + 1 else 0)) ∧
     (w.fail = none → w.down = false → Happens .pfail s fun t => SameStorage s t ∧ t.dev.power.fail = some s.dev.now ∧ t.dev.flights = [] ∧
       Coming t (s.dev.now + 21000000) .powerDown ∧ (s.dev.booted = true → w.recovery = false → ∃ k, Coming t k .deviceRecord) ∧
       ∀ p k, s.dev.cores.find p = some k → (t.core p).failed = true ∧ ∀ x, (k.ctxs.filter fun x => x.2.live).head? = some x →
         ∃ y ∈ (t.core p).traps, y.2.cause = 0x1E1 ∧ y.2.aux = 0 ∧ y.2.addr = x.2.pc ∧ y.2.slot = x.1) ∧
     (w.fail.isSome → Safe s →
       (let l := match s.launchOf g.a with | some l => (l.lid, l.tenant) | none => (0, 0)
        let image := drainHeader s.dev.now ((s.logical g.a).getD 0) l.1 l.2 (s.drainImage g.a) ++ s.drainImage g.a
        (s.track g.a 30).failing = [] → (s.track g.a 31).failing = [] → Happens .drain s fun t => t.bytesAt (trackKey g.a 30 0 0) image.length = image ∧ (t.track g.a 30).h = 255 ∧ (t.track g.a 31).h = 134) ∧
       (w.returned = false → (Happens .deviceRecord s fun t => SameStorage s t ∧ t.dev.record = some s.dev.toRecord) ∧
         Happens .powerDown s fun t => t.dev.power.down = true ∧ (∀ k, trackBase ≤ k → k < bstoreBase → t.byte k = s.byte k) ∧
           (∀ k < trackBase, t.byte k = 0) ∧ t.dev.launches = [] ∧ t.dev.flash = s.dev.flash)) ∧
     (w.down = true → Happens .powerReturn s fun t => t.dev.booted = false ∧ t.dev.power.down = false ∧ t.dev.record = s.dev.record) ∧
     (∀ r l, s.dev.record = some r → r.launches.find g.a = some l → r.sound = true → s.launch? g.a = none → Happens .launchRestore s fun t =>
       ∃ m : Launch, t.dev.launches.find g.a = some m ∧ m.phase = .running ∧ m.words = l.words)) ∧
  (∀ (s : State) (x : Trace),
     let g := s.dev.arg
     let b0 := x.block.getD 0 0
     s.dev.traces.find g.a = some x →
     (x.state = 1 ∨ x.state = 2 → x.stop = none → s.dev.now ≤ x.armedAt → Happens .traceTrigger s fun t => SameStorage s t ∧
       t.dev.traces.find g.a = some { x with seen := [], bound := [] }) ∧
     (x.state = 1 → x.armedAt < s.dev.now → b0.getLsbD 8 = false → x.stop = none → x.bound = [] → x.rows = [] → Happens .traceTrigger s fun t => SameStorage s t ∧
       ∃ y : Trace, t.dev.traces.find g.a = some y ∧ y.state = 2 ∧ y.began = s.dev.now ∧ y.rows = [(s.dev.now, s.traceRow (bits b0 0 7))]) ∧
     (x.state = 2 → x.armedAt = g.b → Happens .traceDump s fun t => t.dev.traces.find g.a = some { x with state := 3, rows := [] })) ∧
  (∀ (s : State),
     let g := s.dev.arg
     let p := g.a
     let k := s.core p
     (g.b ≠ k.thymeState → k.thymeFrom + 1 < s.dev.now → s.dev.now - 1 - k.thymeFrom < 16384 → k.thyme.length < 2048 → Happens .thyme s fun t =>
       SameStorage s t ∧ (t.core p).thyme = k.thyme ++ [BitVec.ofNat 64 (k.thymeState * 16384 + (s.dev.now - 1 - k.thymeFrom))] ∧
       (t.core p).thymeState = g.b ∧ (t.core p).thymeFrom = s.dev.now - 1) ∧
     (g.b = 2 → Happens .haltRequest s fun t => SameStorage s t ∧ (t.core p).halt = .none) ∧
     (∀ b, g.b ≠ 2 → k.halt = .halted b → Happens .haltRequest s fun t => SameStorage s t ∧ (t.core p).halt = .halted (g.b == 1)) ∧
     (g.b ≠ 2 → (∀ b, k.halt ≠ .halted b) → Happens .haltRequest s fun t => SameStorage s t ∧ (t.core p).halt = .requested (g.b == 1) ∧ Coming t (s.dev.now + 1) .halted { a := p }) ∧
     (∀ b, k.halt = .requested b → (∀ x ∈ k.ctxs, x.2.live = false ∨ 14 < x.1) → Happens .halted s fun t => SameStorage s t ∧ (t.core p).halt = .halted b) ∧
     ((s.ctx p g.b).age ≠ 0 → Happens .ageRaise s fun t => SameStorage s t ∧ t.ctx p g.b = { s.ctx p g.b with raised := (s.ctx p g.b).raised + 1 }) ∧
     ((s.ctx p g.b).yieldUntil = g.c → Happens .yieldExpiry s fun t => SameStorage s t ∧ t.ctx p g.b = { s.ctx p g.b with yieldUntil := 0 }) ∧
     (∀ f, k.scanning = true → s.dev.fills.find g.b = some f → Happens .scanComplete s fun t => SameStorage s t ∧ (t.core p).scanning = false ∧
       (∃ v, t.dev.fills.find g.b = some { f with left := 0, val := v }) ∧ Coming t s.dev.now .fill { a := g.b }) ∧
     (∀ f, s.dev.fills.find g.a = some f → Happens .perfqResult s fun t => SameStorage s t ∧ Coming t s.dev.now .fill { a := g.a } ∧
       t.dev.fills.find g.a = some { f with left := 0, val := reduceRound g.b ((s.scopeCores g.c (g.words.getD 0 0).toNat).map fun l =>
         s.counter (s.phys l) (g.words.getD 1 0).toNat) })) ∧
  (∀ (s : State),
     let a := s.dev.cur.addr.toNat
     let w := s.fetchWord s.here a 0
     (a % 4 ≠ 0 ∨ 0x40000 ≤ a → exec .fetchFault s = .next (s.raised (s.trapHere 0x005 0))) ∧
     (∀ r, a % 4 = 0 → a < 0x40000 → s.fetchPoison s.here a = none → 2 ^ 31 ≤ w → decodeWord w = .error r →
       exec .illegalEncoding s = .next (s.raised (s.trap 0x001 s.groupAddr (BitVec.ofNat 64 (w * 2 ^ 32 + r.num))))))

/-! ## Frames of the instructions that only write a register -/

/-- R21, R52, R55: an instruction that computes into a scalar register, whatever it comes to, changes no byte outside that register's
word, no other register, no other context, no special register and no unit; one that computes into a predicate, none outside the
predicate word. The two exceptions are those of R402: a source word with an uncorrectable error becomes POISON, and is counted. -/
def Obligations.RegisterOnlyFrame : Prop :=
  (∀ (s t : State) (d a b : Reg) (p h : BitVec 3) (n : BitVec 10) (j : BitVec 15) (z : Size),
     ∀ i ∈ [Instr.add d a b, .sub d a b, .and d a b, .or d a b, .xor d a b, .andn d a b, .shl d a b, .shr d a b, .sra d a b,
       .rot d a b, .min d a b, .max d a b, .minu d a b, .maxu d a b, .addsat d a b, .subsat d a b, .mov d a, .abs d a, .clz d a,
       .ctz d a, .popc d a, .sext d a z, .zext d a z, .mul d a b, .mulh d a b, .mulhu d a b, .sel d a b p, .bfx d a b, .bfxSx d a b,
       .bfi d a b, .adds d a b h, .widx d a n, .addImm d a n, .andImm d a n, .orImm d a n, .xorImm d a n, .shlImm d a n,
       .shrImm d a n, .sraImm d a n, .rotImm d a n, .minImm d a n, .maxImm d a n, .mulImm d a n, .movi d j, .movh d j, .fadd d a b,
       .fsub d a b, .fmul d a b, .ffma d a b, .fmin d a b, .fmax d a b, .fabs d a, .fneg d a, .fclass d a],
     exec i s = .next t →
       StorageOutside (fun k => within (s.wKey d) 8 k ∨ k / 8 ∈ s.bad) s t ∧ (d = 0 → s.bad = [] → SameStorage s t) ∧
       OnlyMine (fun k x => { x with counters := k.counters }) (fun _ d => d) s t ∧ t.me = { s.me with pipe := t.me.pipe }) ∧
  (∀ (s t : State) (d p q : BitVec 3) (a b : Reg) (c : Cond) (f : FCond),
     ∀ i ∈ [Instr.cmp d a b c, .fcmp d a b f, .pand d p q, .por d p q, .pxor d p q, .pnot d p, .pmov d p],
     exec i s = .next t →
       StorageOutside (fun k => k = s.pKey ∨ k / 8 ∈ s.bad) s t ∧
       (d = 0 → s.bad = [] → SameStorage s t) ∧
       OnlyMine (fun k x => { x with counters := k.counters }) (fun _ d => d) s t ∧ t.me = { s.me with pipe := t.me.pipe })

/-! ## From bytes to a step -/

/-- R18, R19, R20, R21, R96, R228: a word in near SRAM with its lone bit set that decodes is fetched as a lone group, and two such words
of a pair as a pair. When one context of a core may issue and its group is a lone instruction that runs, the step of that core is the
instruction's meaning at that state, followed by the completion of the group; before it the step takes the turn off its list, ends the
context's waits, corrects a word that it fetches with an error that can be corrected, and counts the group. A pair's two meanings run on the operands as they stood before both; a first word that ends or opens
its activation or its lease takes effect after the second.
Log entries 6, 8 are the model's own reading here. -/
def Obligations.StepRunsDecodedInstruction : Prop :=
  (∀ (s : State) (w : Nat) (d : Decoded),
     let a := s.dev.cur.addr.toNat
     let k := nearKey s.here a / 8
     a % 4 = 0 → a < 0x40000 → s.freshStores s.here a = [] → leNat (s.nearBytes s.here a 4) = w →
     s.sramBad k = false → s.tagOf k ≠ .poison → decodeWord w = .ok d →
       (2 ^ 31 ≤ w → s.fetch = .lone w d) ∧
       (w < 2 ^ 30 → ∀ (w1 : Nat) (d1 : Decoded), a % 8 = 0 → s.freshStores s.here (a + 4) = [] →
         leNat (s.nearBytes s.here (a + 4) 4) = w1 → 2 ^ 30 ≤ w1 → w1 < 2 ^ 30 + 2 ^ 27 → decodeWord w1 = .ok d1 → clash w w1 = none →
         s.fetch = .pair w w1 d d1)) ∧
  (∀ (s t : State) (p sl w : Nat) (rest : List Turn) (d : Decoded),
     let q : State := { s with dev := { s.dev with turn := rest } }
     let b := q.apply (q.keep.count p 6)
     let c0 := (b.apply (b.keep.ctx p sl fun x => { x with holds := [] })).focus p sl
     let c := c0.apply c0.fetchFixed
     let r := (c.counted p sl (.lone w d)).focus p sl
     let at_ (x : State) : State := { x with dev := { x.dev with cur := { x.dev.cur with word := w, second := false } } }
     s.dev.turn = .issue p :: rest → (s.core p).order = [sl] → s.mayIssue p sl = true → (s.core p).mismatch = none →
     (∀ x ∈ [q.focus p sl, c, r], x.fetch = .lone w d ∧ x.fetchChoice = false ∧ x.breakpoint = none ∧ x.placedFsx = none) →
     (∀ x ∈ [q.focus p sl, c], ∃ y, exec d.instr (at_ x) = .next y ∧ y.dev.last = .ran) →
     exec d.instr (at_ r) = .next t → t.dev.last = .ran →
       step s = .next (State.completed { t with snap := none } p sl c.act.num (w / 2 ^ 27 % 8))) ∧
  (∀ (s x y : State) (w0 w1 : Nat) (d0 d1 : Decoded),
     let at_ (z : State) (w : Nat) (second : Bool) : State := { z with dev := { z.dev with cur := { z.dev.cur with word := w, second := second } } }
     let v : State := { s with snap := some { mem := s.mem, tags := s.tags, ctx := s.me, hold := s.my.hold, fresh := s.dev.fresh }
                               dev := { s.dev with cur := { s.dev.cur with size := 8 } } }
     (closesAct d0 = false → exec d0.instr (at_ v w0 false) = .next x → x.dev.last = .ran →
       exec d1.instr (at_ x w1 true) = .next y → y.dev.last = .ran → s.perform (.pair w0 w1 d0 d1) = { y with snap := none }) ∧
     (∀ z, closesAct d0 = true → exec d0.instr (at_ v w0 false) = .next z → z.dev.last = .ran →
       exec d1.instr (at_ v w1 true) = .next x → x.dev.last = .ran → exec d0.instr (at_ x w0 false) = .next y → y.dev.last = .ran →
       s.perform (.pair w0 w1 d0 d1) = { y with snap := none }))

/-! ## Encodings (R18, R19, R33 to R48) -/

/-- R19, R33, R34, R35: the words that the manual's worked examples give decode to the instructions it gives them for: ADD, LD, FMUL, NOP,
RECV, LOOP, CMP.geu, VRED, VCVT, VLD, LDF.take, AMO.add, TOWN.keep, TSHARE, INVOKE.retry, MMA, QWV, BARS, BARW, TASK, GDONE, MTC, MFC of
XGO and TRARM. R30, R35: an unassigned minor opcode of ADD's group and of FENCE's, an unassigned major opcode and a
VADD of the reserved width decode to none. -/
def Obligations.KnownWordsDecode : Prop :=
  decodeTableWord 32 0xC01190A0 = some (.add 3 4 5) ∧
  decodeTableWord 32 0x1A0308C2 = some (.ld 6 2 .l .w 2) ∧
  decodeTableWord 32 0x4283A122 = some (.fmul 7 8 9) ∧
  decodeTableWord 32 0x80100000 = some .nop ∧
  decodeTableWord 32 0x816400A0 = some (.recv 8 20) ∧
  decodeTableWord 32 0x80A48004 = some (.loop 9 4) ∧
  decodeTableWord 32 0x80A60001 = some (.loop 12 1) ∧
  decodeTableWord 32 0xC200A8A5 = some (.cmp 1 10 5 .geu) ∧
  decodeTableWord 32 0xC6A28920 = some (.vred 5 2 9 0 .w32) ∧
  decodeTableWord 32 0xC7418471 = some (.vcvt 3 1 .e4m3 .sr false true) ∧
  decodeTableWord 32 0x823190C2 = some (.vld 3 4 .l 2) ∧
  decodeTableWord 32 0x82932C00 = some (.ldfTake 6 11 0) ∧
  decodeTableWord 32 0x83038922 = some (.amoAdd 7 2 9 .dev) ∧
  decodeTableWord 32 0x83801401 = some (.townKeep 5) ∧
  decodeTableWord 32 0x84401400 = some (.tshare 5) ∧
  decodeTableWord 32 0x8493A125 = some (.invokeRetry 7 8 9 1) ∧
  decodeTableWord 32 0x85738088 = some (.mma 7 1 1) ∧
  decodeTableWord 32 0x85108420 = some (.qwv 1 8) ∧
  decodeTableWord 32 0x8680000C = some (.bars 3) ∧
  decodeTableWord 32 0x8690000C = some (.barw 3) ∧
  decodeTableWord 32 0x86C01D00 = some (.task 7 8) ∧
  decodeTableWord 32 0x86F01800 = some (.gdone 6) ∧
  decodeTableWord 32 0x87060218 = some (.mtc 12 0x43) ∧
  decodeTableWord 32 0x87130050 = some (.xgo 6) ∧
  decodeTableWord 32 0x87D30000 = some (.trarm 6) ∧
  decodeTableWord 32 0xC01190B0 = none ∧ decodeTableWord 32 0x83300006 = none ∧ decodeTableWord 32 0x87F00000 = none ∧
  decodeTableWord 32 0xC3010C8B = none

/-- R19, R33 to R48: the word that the encoder gives for a well-formed instruction, every operand at any value its field admits, is a
32-bit word that decodes to that instruction, with the lone bit, the class bit and the stall count it was given. -/
def Obligations.DecodeEncodeRoundTrip : Prop :=
  ∀ (h : Header) (i : Instr) (w : Nat), i.wellFormed = true → h.stall < 8 → encode h i = some w →
    w < 2 ^ 32 ∧ (decodeWord w).toOption.map Decoded.instr = some i ∧ decodeTableWord 32 w = some i ∧
    ∃ k op x, i.parts = some (k, op, x) ∧ headerOf w = { lone := h.lone, ar := k, stall := h.stall }

/-- R30, R33, R35: an instruction has one word under a header: a word that decodes is the one that the encoder gives for its
instruction, which is well formed. So no unused field, no reserved code and no immediate out of range decodes. -/
def Obligations.EveryWordHasOneMeaning : Prop :=
  ∀ (w : Nat) (d : Decoded), w < 2 ^ 32 → decodeWord w = .ok d →
    d.instr.wellFormed = true ∧ encode (headerOf w) d.instr = some w

/-! ## The whole machine -/

/-- R12, R56, R363, R433: the machine after reset: its storage is in canonical form; every byte of near SRAM reads zero, with tag FULL;
logical core (x, y) is physical column x div 16 × 17 + x mod 16 of row y, and none is retired; no tenant entry is valid; and its first
step is the boot.
R53, R63, R64, R65, R66, R104, R164, R398: the registers for which the manual gives a reset value: MODE, STATUS, STALLCNT, the loop
registers and CTXID's fields are 0 in every context; WPBASE is 0x32800; TRAPCAUSE, handler entries, breakpoint registers and counters
are 0; a track is unowned, with T equal to H and its other fields 0.
Log entries 3, 4 are the model's own reading here. -/
def Obligations.ResetState : Prop :=
  Safe State.reset ∧
  (∀ p a, p < 19584 → a < 0x40000 → State.reset.byte (nearKey p a) = 0 ∧ State.reset.tagOf (nearKey p a / 8) = .full) ∧
  (∀ x y, x < 192 → y < 96 → State.reset.phys (y * 192 + x) = y * 204 + (x / 16 * 17 + x % 16) ∧
    State.reset.retired (y * 192 + x) = false) ∧
  (∀ n, State.reset.dev.tenants.find n = none) ∧
  (∀ p sl, let x := State.reset.ctx p sl
     x.mode = 0 ∧ x.status = 0 ∧ x.stallcnt = 0 ∧ x.lcnt = 0 ∧ x.lbeg = 0 ∧ x.lend = 0 ∧ x.pid = 0 ∧ x.tenant = 0) ∧
  (∀ p n, let k := State.reset.core p
     k.wpbase = 0x32800 ∧ k.trapcause = 0 ∧ k.handler n = {} ∧ k.breaks.get 0 n = 0 ∧ k.counters.get 0 n = 0 ∧
     let t := State.reset.track p n
     t.owner = 15 ∧ t.t = t.h ∧ t.keep = false ∧ t.shared = false ∧ t.err = false ∧ t.busy = false ∧ t.mofs = 0) ∧
  step State.reset = exec .boot State.reset

/-- R56, R57 and the model's canonical form of storage: whatever a step does, from every state in canonical form, a next state is again
in it: no byte is listed twice or out of order, and none that reads as an unlisted one. So reading a byte or a tag has one answer.
Log entry 109 is the model's own reading here. -/
def Obligations.StorageInvariantStep : Prop :=
  ∀ s t : State, Safe s → step s = .next t → Safe t
end

