-- ==== Sys2Proof/Laws/State.lean ====
section
/-!
SUPPORT. What each update of the state and of a change does to each field, so that no proof unfolds a record update.
-/

namespace Sys2Proof.Machine

/-! ## Changes -/

@[simp] theorem State.keep_dev (s : State) : s.keep.dev = s.dev := rfl
@[simp] theorem State.keep_ops (s : State) : s.keep.ops = [] := rfl
@[simp] theorem Change.op_dev (c : Change) (o : StoreOp) : (c.op o).dev = c.dev := rfl
@[simp] theorem Change.op_ops (c : Change) (o : StoreOp) : (c.op o).ops = c.ops ++ [o] := rfl
@[simp] theorem Change.dv_dev (c : Change) (f : Dev → Dev) : (c.dv f).dev = f c.dev := rfl
@[simp] theorem Change.dv_ops (c : Change) (f : Dev → Dev) : (c.dv f).ops = c.ops := rfl
@[simp] theorem Change.core_dev (c : Change) (p : Nat) (f : Core → Core) :
    (c.core p f).dev = { c.dev with cores := c.dev.cores.upd {} p f } := rfl
@[simp] theorem Change.core_ops (c : Change) (p : Nat) (f : Core → Core) : (c.core p f).ops = c.ops := rfl
@[simp] theorem Change.ctx_ops (c : Change) (p sl : Nat) (f : Ctx → Ctx) : (c.ctx p sl f).ops = c.ops := rfl
@[simp] theorem Change.me_ops (c : Change) (f : Ctx → Ctx) : (c.me f).ops = c.ops := rfl
@[simp] theorem Change.mine_ops (c : Change) (f : Core → Core) : (c.mine f).ops = c.ops := rfl
@[simp] theorem Change.arr_dev (c : Change) (r : Nat) (f : MArray → MArray) :
    (c.arr r f).dev = { c.dev with arrays := c.dev.arrays.upd {} r f } := rfl
@[simp] theorem Change.arr_ops (c : Change) (r : Nat) (f : MArray → MArray) : (c.arr r f).ops = c.ops := rfl
@[simp] theorem Change.clu_dev (c : Change) (n : Nat) (f : Cluster → Cluster) :
    (c.clu n f).dev = { c.dev with clusters := c.dev.clusters.upd {} n f } := rfl
@[simp] theorem Change.clu_ops (c : Change) (n : Nat) (f : Cluster → Cluster) : (c.clu n f).ops = c.ops := rfl
@[simp] theorem Change.count_ops (c : Change) (p ev n : Nat) : (c.count p ev n).ops = c.ops := rfl
@[simp] theorem Change.tick_dev (c : Change) : c.tick.dev = { c.dev with fresh := c.dev.fresh + 1 } := rfl
@[simp] theorem Change.tick_ops (c : Change) : c.tick.ops = c.ops := rfl
@[simp] theorem Change.sched_dev (c : Change) (n : Nat) (ev : Instr) (g : Arg) :
    (c.sched n ev g).dev = { c.dev with agenda := later { at_ := n, ev := ev, arg := g } c.dev.agenda } := rfl
@[simp] theorem Change.sched_ops (c : Change) (n : Nat) (ev : Instr) (g : Arg) : (c.sched n ev g).ops = c.ops := rfl
@[simp] theorem Change.soon_ops (c : Change) (ev : Instr) (g : Arg) : (c.soon ev g).ops = c.ops := rfl
@[simp] theorem Change.setTag_dev (c : Change) (w : Nat) (t : Tag) : (c.setTag w t).dev = c.dev := rfl
@[simp] theorem Change.setTag_ops (c : Change) (w : Nat) (t : Tag) : (c.setTag w t).ops = c.ops ++ [.tag w t] := rfl
@[simp] theorem Change.putWord_dev (c : Change) (k : Nat) (v : Word) (t : Tag) : (c.putWord k v t).dev = c.dev := rfl
@[simp] theorem Change.putWord_ops (c : Change) (k : Nat) (v : Word) (t : Tag) :
    (c.putWord k v t).ops = c.ops ++ [.bytes k (wordBytes v)] ++ [.tag (k / 8) t] := rfl
@[simp] theorem Change.write_dev (c : Change) (k : Nat) (bs : List Byte) : (c.write k bs).dev = c.dev := by
  unfold Change.write
  split <;> rfl

/-! ## The state after a change -/

@[simp] theorem State.apply_mem (s : State) (c : Change) : (s.apply c).mem = applyMem c.ops s.mem := rfl
@[simp] theorem State.apply_tags (s : State) (c : Change) : (s.apply c).tags = applyTags c.ops s.tags := rfl
@[simp] theorem State.apply_bad (s : State) (c : Change) : (s.apply c).bad = applyBad c.ops s.bad := rfl
@[simp] theorem State.apply_soft (s : State) (c : Change) : (s.apply c).soft = applySoft c.ops s.soft := rfl
@[simp] theorem State.apply_snap (s : State) (c : Change) : (s.apply c).snap = s.snap := rfl
@[simp] theorem State.apply_dev (s : State) (c : Change) : (s.apply c).dev = c.dev := rfl
@[simp] theorem State.apply_keep (s : State) : s.apply s.keep = s := rfl
@[simp] theorem State.note_mem (s : State) (c : Change) (l : Last) : (s.note c l).mem = applyMem c.ops s.mem := rfl
@[simp] theorem State.note_tags (s : State) (c : Change) (l : Last) : (s.note c l).tags = applyTags c.ops s.tags := rfl
@[simp] theorem State.note_bad (s : State) (c : Change) (l : Last) : (s.note c l).bad = applyBad c.ops s.bad := rfl
@[simp] theorem State.note_soft (s : State) (c : Change) (l : Last) : (s.note c l).soft = applySoft c.ops s.soft := rfl
@[simp] theorem State.note_snap (s : State) (c : Change) (l : Last) : (s.note c l).snap = s.snap := rfl
@[simp] theorem State.note_dev (s : State) (c : Change) (l : Last) : (s.note c l).dev = { c.dev with last := l } := rfl
theorem State.note_last (s : State) (c : Change) (l : Last) : (s.note c l).dev.last = l := rfl
@[simp] theorem State.withLast_dev (s : State) (l : Last) : (s.withLast l).dev = { s.dev with last := l } := rfl
@[simp] theorem State.withLast_mem (s : State) (l : Last) : (s.withLast l).mem = s.mem := rfl
@[simp] theorem State.withLast_tags (s : State) (l : Last) : (s.withLast l).tags = s.tags := rfl
@[simp] theorem State.withSize_mem (s : State) (n : Nat) : (s.withSize n).mem = s.mem := rfl
@[simp] theorem State.withSize_tags (s : State) (n : Nat) : (s.withSize n).tags = s.tags := rfl
@[simp] theorem State.focus_mem (s : State) (p sl : Nat) : (s.focus p sl).mem = s.mem := rfl
@[simp] theorem State.focus_tags (s : State) (p sl : Nat) : (s.focus p sl).tags = s.tags := rfl
@[simp] theorem State.focus_snap (s : State) (p sl : Nat) : (s.focus p sl).snap = none := rfl
@[simp] theorem State.focus_cores (s : State) (p sl : Nat) : (s.focus p sl).dev.cores = s.dev.cores := rfl

end Sys2Proof.Machine
end

