-- ==== Sys2Proof/Laws/Memory.lean ====
section
/-!
SUPPORT. Storage: reading after writing, the canonical form, and bytes as numbers.
-/

namespace Sys2Proof.Machine

/-! ## Maps of plain values -/

theorem kget_kput_ne {α : Type} [DecidableEq α] (d : α) (m : List (Nat × α)) (k : Nat) (v : α) {j : Nat} (h : j ≠ k) :
    kget d (kput d m k v) j = kget d m j := by
  induction m with
  | nil =>
    unfold kput
    split
    · rfl
    · simp [kget, Ne.symm h]
  | cons e m ih =>
    obtain ⟨a, w⟩ := e
    unfold kput
    split
    · split
      · rfl
      · simp [kget, Ne.symm h]
    · split
      · rename_i h2
        split
        · simp [kget, show a ≠ j by omega, Ne.symm h]
        · simp [kget, show a ≠ j by omega, Ne.symm h]
      · simp only [kget, ih]

theorem kget_above {α : Type} (d : α) (m : List (Nat × α)) (k : Nat) (h : ∀ p ∈ m, k < p.1) : kget d m k = d := by
  induction m with
  | nil => rfl
  | cons e m ih =>
    obtain ⟨a, w⟩ := e
    have : a ≠ k := by have := h (a, w) (by simp); simp at this; omega
    simp only [kget, if_neg this]
    exact ih fun p hp => h p (by simp [hp])

theorem kget_kput_self {α : Type} [DecidableEq α] (d : α) (m : List (Nat × α)) (k : Nat) (v : α) (h : kwf d m) :
    kget d (kput d m k v) k = v := by
  induction m with
  | nil =>
    unfold kput
    split
    · rename_i e; rw [e]; rfl
    · simp [kget]
  | cons e m ih =>
    obtain ⟨a, w⟩ := e
    obtain ⟨hp, hd⟩ := h
    rw [List.pairwise_cons] at hp
    have above : ∀ p ∈ m, a < p.1 := hp.1
    unfold kput
    split
    · split
      · rename_i h1 e; rw [e]
        apply kget_above
        intro p hp'
        rcases List.mem_cons.1 hp' with rfl | h'
        · exact h1
        · exact Nat.lt_trans h1 (above p h')
      · simp [kget]
    · split
      · rename_i h2
        split
        · rename_i e; rw [e]
          apply kget_above
          intro p hp'
          rw [h2]; exact above p hp'
        · simp [kget]
      · rename_i h2
        simp only [kget, if_neg (Ne.symm h2)]
        exact ih ⟨hp.2, fun p hp' => hd p (by simp [hp'])⟩

theorem mem_kput {α : Type} [DecidableEq α] (d : α) (m : List (Nat × α)) (k : Nat) (v : α) (p : Nat × α)
    (h : p ∈ kput d m k v) : p ∈ m ∨ (p = (k, v) ∧ v ≠ d) := by
  induction m with
  | nil =>
    unfold kput at h
    split at h
    · simp at h
    · rename_i e; right; exact ⟨by simpa using h, e⟩
  | cons e m ih =>
    obtain ⟨a, w⟩ := e
    unfold kput at h
    split at h
    · split at h
      · exact .inl h
      · rename_i e
        rcases List.mem_cons.1 h with h | h
        · exact .inr ⟨h, e⟩
        · exact .inl h
    · split at h
      · split at h
        · exact .inl (by simp [h])
        · rename_i e
          rcases List.mem_cons.1 h with h | h
          · exact .inr ⟨h, e⟩
          · exact .inl (by simp [h])
      · rcases List.mem_cons.1 h with h | h
        · exact .inl (by simp [h])
        · rcases ih h with h | h
          · exact .inl (by simp [h])
          · exact .inr h

theorem kwf_kput {α : Type} [DecidableEq α] (d : α) (m : List (Nat × α)) (k : Nat) (v : α) (h : kwf d m) :
    kwf d (kput d m k v) := by
  refine ⟨?_, fun p hp => ?_⟩
  · induction m with
    | nil =>
      unfold kput
      split <;> simp
    | cons e m ih =>
      obtain ⟨a, w⟩ := e
      obtain ⟨hp, hd⟩ := h
      have hp' := hp
      rw [List.pairwise_cons] at hp
      unfold kput
      split
      · rename_i h1
        split
        · exact hp'
        · rw [List.pairwise_cons]
          refine ⟨fun p hm => ?_, hp'⟩
          rcases List.mem_cons.1 hm with rfl | hm
          · exact h1
          · exact Nat.lt_trans h1 (hp.1 p hm)
      · split
        · rename_i h2
          split
          · exact hp.2
          · rw [List.pairwise_cons]
            exact ⟨fun p hm => by have := hp.1 p hm; simp at this ⊢; omega, hp.2⟩
        · rename_i h1 h2
          rw [List.pairwise_cons]
          refine ⟨fun p hm => ?_, ih ⟨hp.2, fun p hm => hd p (by simp [hm])⟩⟩
          rcases mem_kput d m k v p hm with hm | ⟨rfl, -⟩
          · exact hp.1 p hm
          · show a < k; omega
  · rcases mem_kput d m k v p hp with hm | ⟨rfl, hv⟩
    · exact h.2 p hm
    · exact hv

theorem kwf_filter {α : Type} (d : α) (m : List (Nat × α)) (f : Nat × α → Bool) (h : kwf d m) : kwf d (m.filter f) :=
  ⟨h.1.filter f, fun p hp => h.2 p (List.mem_filter.1 hp).1⟩

/-! ## Storage -/

theorem kwf_putBytes (bs : List Byte) : ∀ (m : List Host.Cell) (k : Nat), kwf (0 : Byte) m → kwf (0 : Byte) (putBytes m k bs) := by
  induction bs with
  | nil => exact fun m k h => h
  | cons b bs ih => exact fun m k h => ih _ _ (kwf_kput 0 m k b h)

/-- A byte after a run of bytes has been written: the byte written there, else the byte as it was. -/
theorem kget_putBytes (bs : List Byte) : ∀ (m : List Host.Cell) (k a : Nat), kwf (0 : Byte) m →
    kget 0 (putBytes m k bs) a = if k ≤ a ∧ a < k + bs.length then bs.getD (a - k) 0 else kget 0 m a := by
  induction bs with
  | nil => intro m k a _; simp [putBytes] <;> omega
  | cons b bs ih =>
    intro m k a h
    rw [putBytes, ih _ _ _ (kwf_kput 0 m k b h)]
    by_cases e : a = k
    · subst e
      rw [if_neg (by omega), kget_kput_self 0 m a b h, if_pos (by simp)]
      simp
    · rw [kget_kput_ne 0 m k b e]
      by_cases g : k ≤ a ∧ a < k + (b :: bs).length
      · have h1 : k + 1 ≤ a ∧ a < k + 1 + bs.length := by simp at g; omega
        have h2 : a - k = (a - (k + 1)) + 1 := by omega
        rw [if_pos g, if_pos h1, h2, List.getD_cons_succ]
      · have h1 : ¬(k + 1 ≤ a ∧ a < k + 1 + bs.length) := by simp at g; omega
        rw [if_neg g, if_neg h1]

theorem StoreOp.onMem_wf (o : StoreOp) (m : List Host.Cell) (h : kwf (0 : Byte) m) : kwf (0 : Byte) (o.onMem m) := by
  cases o with
  | bytes k bs => exact kwf_putBytes bs m k h
  | tag w t => exact h
  | wipe k n => exact kwf_filter _ _ _ h
  | bad w b => exact h
  | fixed w => exact h

theorem StoreOp.onTags_wf (o : StoreOp) (m : List (Nat × Tag)) (h : kwf Tag.full m) : kwf Tag.full (o.onTags m) := by
  cases o with
  | bytes k bs => exact h
  | tag w t => exact kwf_kput _ m w t h
  | wipe k n => exact kwf_filter _ _ _ h
  | bad w b => exact h
  | fixed w => exact h

theorem applyMem_wf (ops : List StoreOp) : ∀ m : List Host.Cell, kwf (0 : Byte) m → kwf (0 : Byte) (applyMem ops m) := by
  induction ops with
  | nil => exact fun m h => h
  | cons o ops ih => exact fun m h => ih _ (o.onMem_wf m h)

theorem applyTags_wf (ops : List StoreOp) : ∀ m : List (Nat × Tag), kwf Tag.full m → kwf Tag.full (applyTags ops m) := by
  induction ops with
  | nil => exact fun m h => h
  | cons o ops ih => exact fun m h => ih _ (o.onTags_wf m h)

/-- Every memory operation is a change, and a change keeps the canonical form. -/
theorem State.apply_wf (s : State) (c : Change) (h : Memory.wf s) : Memory.wf (s.apply c) :=
  ⟨applyMem_wf c.ops s.mem h.1, applyTags_wf c.ops s.tags h.2⟩

theorem State.note_wf (s : State) (c : Change) (l : Last) (h : Memory.wf s) : Memory.wf (s.note c l) := s.apply_wf c h

theorem reset_wf : Memory.wf State.reset := by decide

/-! ## Bytes as numbers -/

theorem natBytes_length (n : Nat) : ∀ x, (natBytes n x).length = n := by
  induction n with
  | zero => exact fun _ => rfl
  | succ n ih => exact fun x => by simp [natBytes, ih]

theorem leNat_natBytes (n : Nat) : ∀ x, leNat (natBytes n x) = x % 256 ^ n := by
  induction n with
  | zero => intro x; simp [natBytes, leNat, Nat.mod_one]
  | succ n ih =>
    intro x
    have e : (BitVec.ofNat 8 x).toNat = x % 256 := BitVec.toNat_ofNat ..
    simp only [natBytes, leNat, ih, e]
    rw [Nat.pow_succ, Nat.mul_comm (256 ^ n), Nat.mod_mul]

theorem ofNat_leNat (n : Nat) (v : BitVec (8 * n)) : BitVec.ofNat (8 * n) (leNat (natBytes n v.toNat)) = v := by
  apply BitVec.eq_of_toNat_eq
  have e : (256 : Nat) ^ n = 2 ^ (8 * n) := (Nat.pow_mul 2 8 n).symm
  rw [leNat_natBytes, BitVec.toNat_ofNat, e, Nat.mod_eq_of_lt v.isLt, Nat.mod_eq_of_lt v.isLt]

@[simp] theorem bytesWord_wordBytes (v : Word) : bytesWord (wordBytes v) = v := ofNat_leNat 8 v
@[simp] theorem bytesVec_vecBytes (v : Vec) : bytesVec (vecBytes v) = v := ofNat_leNat 256 v

/-! ## Reading what a change wrote -/

theorem applyMem_append (a b : List StoreOp) (m : List Host.Cell) : applyMem (a ++ b) m = applyMem b (applyMem a m) :=
  List.foldl_append ..
theorem applyTags_append (a b : List StoreOp) (m : List (Nat × Tag)) : applyTags (a ++ b) m = applyTags b (applyTags a m) :=
  List.foldl_append ..

/-- The bytes of a change's operations, byte by byte: only a write or a reset of a range that covers a byte changes it. -/
def StoreOp.covers (o : StoreOp) (a : Nat) : Prop :=
  match o with
  | .bytes k bs => k ≤ a ∧ a < k + bs.length
  | .wipe k n => k ≤ a ∧ a < k + n
  | _ => False

theorem kget_filter {α : Type} (d : α) (m : List (Nat × α)) (f : Nat × α → Bool) (a : Nat)
    (h : ∀ v, f (a, v) = true) : kget d (m.filter f) a = kget d m a := by
  induction m with
  | nil => rfl
  | cons e m ih =>
    obtain ⟨b, w⟩ := e
    by_cases hb : b = a
    · subst hb; simp [List.filter_cons, h, kget]
    · by_cases hf : f (b, w) = true
      · simp [List.filter_cons, hf, kget, hb, ih]
      · simp [List.filter_cons, hf, kget, hb, ih]

theorem StoreOp.onMem_other (o : StoreOp) (m : List Host.Cell) (a : Nat) (hw : kwf (0 : Byte) m) (h : ¬o.covers a) :
    kget 0 (o.onMem m) a = kget 0 m a := by
  cases o with
  | bytes k bs => rw [StoreOp.onMem, kget_putBytes bs m k a hw]; exact if_neg h
  | tag w t => rfl
  | wipe k n =>
    apply kget_filter
    intro v
    simp [StoreOp.covers] at h
    simp only [Bool.not_eq_true', Bool.and_eq_false_iff, decide_eq_false_iff_not]
    omega
  | bad w b => rfl
  | fixed w => rfl

/-- A byte that no operation of a change covers is unchanged. -/
theorem applyMem_other (ops : List StoreOp) (a : Nat) : ∀ m : List Host.Cell, kwf (0 : Byte) m →
    (∀ o ∈ ops, ¬o.covers a) → kget 0 (applyMem ops m) a = kget 0 m a := by
  induction ops with
  | nil => exact fun m _ _ => rfl
  | cons o ops ih =>
    intro m hw h
    have : applyMem (o :: ops) m = applyMem ops (o.onMem m) := rfl
    rw [this, ih _ (o.onMem_wf m hw) fun x hx => h x (by simp [hx]), o.onMem_other m a hw (h o (by simp))]

/-! ## Records at keys -/

theorem Map.find_set {α : Type} (m : Map α) (k j : Nat) (v : α) :
    (m.set k v).find j = if j = k then some v else m.find j := by
  by_cases h : j = k
  · subst h
    induction m with
    | nil => simp [Map.set, Map.find]
    | cons e m ih =>
      obtain ⟨a, w⟩ := e
      unfold Map.set
      split
      · simp [Map.find]
      · split
        · simp [Map.find]
        · rename_i h2
          simpa [Map.find, Ne.symm h2] using ih
  · rw [if_neg h]
    have h' : k ≠ j := Ne.symm h
    induction m with
    | nil => simp [Map.set, Map.find, h']
    | cons e m ih =>
      obtain ⟨a, w⟩ := e
      unfold Map.set
      split
      · simp [Map.find, h']
      · split
        · rename_i h2; subst h2
          simp [Map.find, h']
        · simp [Map.find, ih]

@[simp] theorem Map.get_set_self {α : Type} (m : Map α) (d v : α) (k : Nat) : (m.set k v).get d k = v := by
  simp [Map.get, Map.find_set]
theorem Map.get_set_ne {α : Type} (m : Map α) (d v : α) {k j : Nat} (h : j ≠ k) : (m.set k v).get d j = m.get d j := by
  simp [Map.get, Map.find_set, h]
@[simp] theorem Map.get_upd_self {α : Type} (m : Map α) (d : α) (k : Nat) (f : α → α) :
    (m.upd d k f).get d k = f (m.get d k) := Map.get_set_self ..
theorem Map.get_upd_ne {α : Type} (m : Map α) (d : α) {k j : Nat} (f : α → α) (h : j ≠ k) :
    (m.upd d k f).get d j = m.get d j := Map.get_set_ne m d _ h

end Sys2Proof.Machine
end

