-- ==== Sys2Proof/Laws/Present.lean ====
section
/-!
SUPPORT. Presenting a group: what `judge`, `present`, `issue` and `occur` can do, and what they do when the operands are ready.
-/

namespace Sys2Proof.Machine

/-- When every word that it uses is ready and nothing else is waited for, a group does what its body says. -/
theorem State.judge_ready (s : State) (fp : Foot) (body : Verdict) (h : Ready s fp) : s.judge fp none body = body := by
  obtain ⟨h1, h2, h3, h4⟩ := h
  have e1 : (fp.src ++ fp.mem).any (fun w => s.view.tagOf w == .empty) = false := by
    rw [List.any_eq_false]; intro w hw; simpa using h1 w hw
  have e2 : (fp.dst ++ fp.part).any s.fillPending = false := by
    rw [List.any_eq_false]; intro w hw; simpa using h2 w hw
  have e3 : (fp.src ++ fp.dst ++ fp.part).find? (fun w => decide (0 < s.notReady w)) = none := by
    rw [List.find?_eq_none]; intro w hw; simp [h3 w hw]
  have e4 : (fp.src ++ fp.part ++ fp.mem ++ fp.memPart).findSome? s.wordTrap = none := by
    rw [List.findSome?_eq_none_iff]
    intro w hw
    obtain ⟨h, h', h'', -⟩ := h4 w hw
    simp only [State.wordTrap, h'', Bool.false_eq_true, if_false, Option.map_eq_none_iff]
    unfold State.poisonTrap
    split <;> simp_all
  have e5 : (fp.src ++ fp.part ++ fp.mem ++ fp.memPart).filter s.sramSoft = [] := by
    rw [List.filter_eq_nil_iff]; intro w hw; simp [(h4 w hw).2.2.2]
  simp only [State.judge, e1, e2, e3, e4, e5, Bool.false_eq_true, if_false]
  cases body <;> rfl

/-- An instruction on ready operands makes its change. -/
theorem State.issue_ready (s : State) (fp : Foot) (c : Change) (h : Ready s fp) :
    s.issue fp none (.ok c) = .next (s.did c) := by
  simp only [State.issue, State.present, s.judge_ready fp _ h, State.verdict, State.settle, State.did]
/-- On ready operands its own fault is a trap that leaves nothing behind. -/
theorem State.issue_fault (s : State) (fp : Foot) (t : Trap) (h : Ready s fp) :
    s.issue fp none (.error t) = .next (s.raised t) := by
  simp only [State.issue, State.present, s.judge_ready fp _ h, State.verdict, State.settle, State.raised]
/-- While a source is EMPTY it waits. -/
theorem State.issue_empty (s : State) (fp : Foot) (wait : Option Wait) (b : Except Trap Change)
    (h : ∃ w ∈ fp.src ++ fp.mem, s.view.tagOf w = .empty) : s.issue fp wait b = .next (s.stood .tag) := by
  obtain ⟨w, hw, e⟩ := h
  have e1 : (fp.src ++ fp.mem).any (fun w => s.view.tagOf w == .empty) = true := by
    rw [List.any_eq_true]; exact ⟨w, hw, by simp [e]⟩
  simp only [State.issue, State.present, State.judge, e1, if_true, State.settle, State.stood]
/-- What is waited for, when no source is EMPTY, keeps it waiting. -/
theorem State.issue_wait (s : State) (fp : Foot) (w : Wait) (b : Except Trap Change)
    (h : ∀ w ∈ fp.src ++ fp.mem, s.view.tagOf w ≠ .empty) : s.issue fp (some w) b = .next (s.stood w) := by
  have e1 : (fp.src ++ fp.mem).any (fun w => s.view.tagOf w == .empty) = false := by
    rw [List.any_eq_false]; intro w hw; simpa using h w hw
  simp only [State.issue, State.present, State.judge, e1, Bool.false_eq_true, if_false, State.settle, State.stood]

/-- Every presented instruction answers a next state that differs from the present one by one change. -/
theorem State.present_form (s : State) (fp : Foot) (w : Option Wait) (b : Verdict) :
    ∃ c l, s.present fp w b = .next (s.note c l) := by
  unfold State.present
  generalize s.judge fp w b = v
  cases v with
  | waits w c => exact ⟨c, .waits w, rfl⟩
  | traps t c => exact ⟨c, .traps t, rfl⟩
  | runs c => exact ⟨c, .ran, rfl⟩
  | starts c => exact ⟨c, .starts, rfl⟩
theorem State.issue_form (s : State) (fp : Foot) (w : Option Wait) (b : Except Trap Change) :
    ∃ c l, s.issue fp w b = .next (s.note c l) := s.present_form fp w _
theorem State.occur_form (s : State) (c : Change) : ∃ d l, s.occur c = .next (s.note d l) := ⟨c, .ran, rfl⟩

/-- A state whose storage tags nothing, has no pending fills, no pending results and no errors is ready for every group. -/
theorem ready_of_quiet (s : State) (fp : Foot) (h1 : s.view.tags = []) (h2 : s.dev.fills = []) (h3 : s.board = [])
    (h4 : s.bad = []) (h5 : s.soft = []) : Ready s fp := by
  have ht : ∀ w, s.view.tagOf w = .full := fun w => by simp [State.tagOf, h1, kget]
  refine ⟨fun w _ => by simp [ht], fun w _ => by simp [State.fillPending, h2], fun w _ => by simp [State.notReady, h3], fun w _ => ?_⟩
  simp [ht, State.sramBad, State.sramSoft, h4, h5]

end Sys2Proof.Machine
end

