-- ==== Sys2Proof/Laws/Form.lean ====
section
/-!
SUPPORT. The shape of every meaning: a next state that one change makes from the present one, with an account of what was done.
-/

namespace Sys2Proof.Machine

/-- The answer is a next state that one change makes from `s`. -/
def Makes (s : State) (o : Out) : Prop := ∃ c l, o = .next (s.note c l)

theorem State.load_form (s : State) (d a : Reg) (m : AddrMode) (z : Size) (o : BitVec 6) (sx : Bool) :
    Makes s (s.load d a m z o sx) := by
  unfold State.load
  dsimp only
  split <;> exact State.issue_form ..
theorem State.remoteStore_form (s : State) (regs : List Nat) (t : Option Trap) (es : List Effect) :
    Makes s (s.remoteStore regs t es) := State.issue_form ..
theorem State.scatter_form (s : State) (d : Reg) (regs : List Nat) (md : AddrMode) (eas : List Word) (n : Nat) :
    Makes s (s.scatter d regs md eas n) := by
  unfold State.scatter
  dsimp only
  split <;> exact State.issue_form ..
theorem State.atomic_form (s : State) (op : AtomicOp) (d a b : Reg) (sc : Scope) : Makes s (s.atomic op d a b sc) := by
  unfold State.atomic
  dsimp only
  repeat' split
  all_goals exact State.issue_form ..
theorem State.systemV_form (s : State) (fp : Foot) (w : Option Wait) (b : Verdict) : Makes s (s.systemV fp w b) := by
  unfold State.systemV
  split
  · exact State.present_form ..
  · exact ⟨_, .traps _, rfl⟩
theorem State.town_form (s : State) (n : Reg) (k : Bool) : Makes s (s.town n k) := by
  unfold State.town
  dsimp only
  repeat' split
  all_goals first | exact State.issue_form .. | exact State.present_form ..
theorem State.fetchRaises_form (s : State) (l : List Nat) : Makes s (s.fetchRaises l) := by
  unfold State.fetchRaises
  repeat' split
  all_goals first | exact State.occur_form .. | exact ⟨_, .traps _, rfl⟩


theorem execBr_form (i : BitVec 15) (s : State) : Makes s (execBr i s) := State.issue_form ..
theorem execBrp_form (a : BitVec 3) (i : BitVec 15) (s : State) : Makes s (execBrp a i s) := State.issue_form ..
theorem execBrz_form (a : Reg) (i : BitVec 15) (s : State) : Makes s (execBrz a i s) := State.issue_form ..
theorem execBnz_form (a : Reg) (i : BitVec 15) (s : State) : Makes s (execBnz a i s) := State.issue_form ..
theorem execBri_form (a : Reg) (s : State) : Makes s (execBri a s) := State.issue_form ..
theorem execCall_form (a : Reg) (i : BitVec 15) (s : State) : Makes s (execCall a i s) := State.issue_form ..
theorem execCalli_form (d a : Reg) (s : State) : Makes s (execCalli d a s) := State.issue_form ..
theorem execRet_form (a : Reg) (s : State) : Makes s (execRet a s) := State.issue_form ..
theorem execLoop_form (a : Reg) (i : BitVec 15) (s : State) : Makes s (execLoop a i s) := State.issue_form ..
theorem execLexit_form (i : BitVec 15) (s : State) : Makes s (execLexit i s) := State.issue_form ..
theorem execYield_form (k : BitVec 12) (s : State) : Makes s (execYield k s) := State.issue_form ..
theorem execStart_form (d a b : Reg) (p : BitVec 3) (s : State) : Makes s (execStart d a b p s) := State.issue_form ..
theorem execJoin_form (a : Reg) (s : State) : Makes s (execJoin a s) := State.present_form ..
theorem execSpawn_form (d a b : Reg) (s : State) : Makes s (execSpawn d a b s) := State.issue_form ..
theorem execTrap_form (k : BitVec 12) (s : State) : Makes s (execTrap k s) := State.issue_form ..
theorem execBkpt_form (k : BitVec 12) (s : State) : Makes s (execBkpt k s) := State.issue_form ..
theorem execEvrd_form (d : Reg) (s : State) : Makes s (execEvrd d s) := State.issue_form ..
theorem execEvrdPeek_form (d : Reg) (s : State) : Makes s (execEvrdPeek d s) := State.issue_form ..
theorem execSend_form (n : BitVec 6) (a b : Reg) (s : State) : Makes s (execSend n a b s) := State.issue_form ..
theorem execSendv_form (n : BitVec 6) (a b : Reg) (s : State) : Makes s (execSendv n a b s) := State.issue_form ..
theorem execRecv_form (d : Reg) (k : BitVec 12) (s : State) : Makes s (execRecv d k s) := State.issue_form ..
theorem execRecvv_form (d : Reg) (k : BitVec 12) (s : State) : Makes s (execRecvv d k s) := State.issue_form ..
theorem execHset_form (d : Reg) (k : BitVec 12) (s : State) : Makes s (execHset d k s) := State.issue_form ..
theorem execHmaskOn_form (k : BitVec 12) (s : State) : Makes s (execHmaskOn k s) := State.issue_form ..
theorem execHmaskOff_form (k : BitVec 12) (s : State) : Makes s (execHmaskOff k s) := State.issue_form ..
theorem execLd_form (d a : Reg) (m : AddrMode) (z : Size) (o : BitVec 6) (s : State) : Makes s (execLd d a m z o s) := State.load_form ..
theorem execLdSx_form (d a : Reg) (m : AddrMode) (z : Size) (o : BitVec 6) (s : State) : Makes s (execLdSx d a m z o s) := State.load_form ..
theorem execSt_form (d a : Reg) (m : AddrMode) (z : Size) (o : BitVec 6) (s : State) : Makes s (execSt d a m z o s) := by
  unfold execSt; dsimp only; split <;> exact State.issue_form ..
theorem execVld_form (d a : Reg) (m : AddrMode) (o : BitVec 6) (s : State) : Makes s (execVld d a m o s) := by
  unfold execVld; dsimp only; split <;> exact State.issue_form ..
theorem execVst_form (d a : Reg) (m : AddrMode) (o : BitVec 6) (s : State) : Makes s (execVst d a m o s) := by
  unfold execVst; dsimp only; split <;> exact State.issue_form ..
theorem execVlds_form (d a b : Reg) (e : Size) (m : AddrMode) (s : State) : Makes s (execVlds d a b e m s) := State.issue_form ..
theorem execVsts_form (d a b : Reg) (e : Size) (m : AddrMode) (s : State) : Makes s (execVsts d a b e m s) := State.scatter_form ..
theorem execVldx_form (d a b : Reg) (e : Size) (m : AddrMode) (s : State) : Makes s (execVldx d a b e m s) := State.issue_form ..
theorem execVstx_form (d a b : Reg) (e : Size) (m : AddrMode) (s : State) : Makes s (execVstx d a b e m s) := State.scatter_form ..
theorem execLdfTake_form (d a : Reg) (o : BitVec 6) (s : State) : Makes s (execLdfTake d a o s) := State.issue_form ..
theorem execLdfKeep_form (d a : Reg) (o : BitVec 6) (s : State) : Makes s (execLdfKeep d a o s) := State.issue_form ..
theorem execSte_form (d a : Reg) (m : AddrMode) (o : BitVec 6) (s : State) : Makes s (execSte d a m o s) := by
  unfold execSte; dsimp only; split <;> exact State.issue_form ..
theorem execTags_form (a b : Reg) (s : State) : Makes s (execTags a b s) := State.issue_form ..
theorem execTagsV_form (a b : Reg) (s : State) : Makes s (execTagsV a b s) := State.issue_form ..
theorem execTagr_form (d a : Reg) (s : State) : Makes s (execTagr d a s) := State.issue_form ..
theorem execTagrV_form (d a : Reg) (s : State) : Makes s (execTagrV d a s) := State.issue_form ..
theorem execBread_form (n : BitVec 6) (a b : Reg) (m : AddrMode) (s : State) : Makes s (execBread n a b m s) := State.issue_form ..
theorem execFence_form (c : Scope) (s : State) : Makes s (execFence c s) := State.issue_form ..
theorem execRel_form (c : Scope) (s : State) : Makes s (execRel c s) := State.issue_form ..
theorem execAcq_form (c : Scope) (s : State) : Makes s (execAcq c s) := State.issue_form ..
theorem execTown_form (n : Reg) (s : State) : Makes s (execTown n s) := State.town_form ..
theorem execTownKeep_form (n : Reg) (s : State) : Makes s (execTownKeep n s) := State.town_form ..
theorem execTfree_form (n : Reg) (s : State) : Makes s (execTfree n s) := State.issue_form ..
theorem execTseek_form (n : Reg) (i : BitVec 8) (s : State) : Makes s (execTseek n i s) := State.issue_form ..
theorem execTseekReg_form (a n : Reg) (s : State) : Makes s (execTseekReg a n s) := State.issue_form ..
theorem execTstep_form (n : Reg) (i : BitVec 8) (s : State) : Makes s (execTstep n i s) := State.issue_form ..
theorem execTstepReg_form (a n : Reg) (s : State) : Makes s (execTstepReg a n s) := State.issue_form ..
theorem execTrew_form (n : Reg) (s : State) : Makes s (execTrew n s) := State.issue_form ..
theorem execTrd_form (d n : Reg) (p : Bool) (s : State) : Makes s (execTrd d n p s) := State.present_form ..
theorem execTrds_form (d n : Reg) (i : BitVec 8) (p : Bool) (s : State) : Makes s (execTrds d n i p s) := State.present_form ..
theorem execTwr_form (d n : Reg) (p : Bool) (s : State) : Makes s (execTwr d n p s) := State.present_form ..
theorem execTwrs_form (d n : Reg) (i : BitVec 8) (p : Bool) (s : State) : Makes s (execTwrs d n i p s) := State.present_form ..
theorem execTwait_form (n : Reg) (s : State) : Makes s (execTwait n s) := State.issue_form ..
theorem execThead_form (d n : Reg) (s : State) : Makes s (execThead d n s) := State.issue_form ..
theorem execTalign_form (n : Reg) (s : State) : Makes s (execTalign n s) := State.issue_form ..
theorem execTshare_form (n : Reg) (s : State) : Makes s (execTshare n s) := State.issue_form ..
theorem execTshareOff_form (n : Reg) (s : State) : Makes s (execTshareOff n s) := State.issue_form ..
theorem execInvoke_form (d a b : Reg) (v : BitVec 2) (s : State) : Makes s (execInvoke d a b v s) := State.issue_form ..
theorem execInvokeRetry_form (d a b : Reg) (v : BitVec 2) (s : State) : Makes s (execInvokeRetry d a b v s) := State.issue_form ..
theorem execHgrant_form (a : Reg) (s : State) : Makes s (execHgrant a s) := State.issue_form ..
theorem execQw_form (d : Reg) (s : State) : Makes s (execQw d s) := State.issue_form ..
theorem execQwv_form (d c : Reg) (s : State) : Makes s (execQwv d c s) := State.issue_form ..
theorem execQr_form (d : Reg) (s : State) : Makes s (execQr d s) := State.issue_form ..
theorem execQrv_form (d : Reg) (s : State) : Makes s (execQrv d s) := State.issue_form ..
theorem execQst_form (d n : Reg) (s : State) : Makes s (execQst d n s) := State.issue_form ..
theorem execMlease_form (d n : Reg) (i : BitVec 8) (s : State) : Makes s (execMlease d n i s) := State.issue_form ..
theorem execMfree_form (n : Reg) (s : State) : Makes s (execMfree n s) := State.issue_form ..
theorem execMma_form (d : Reg) (a b : BitVec 4) (s : State) : Makes s (execMma d a b s) := by
  unfold execMma; dsimp only; split <;> exact State.issue_form ..
theorem execXld_form (a : Reg) (s : State) : Makes s (execXld a s) := State.issue_form ..
theorem execXwait_form (d a : Reg) (s : State) : Makes s (execXwait d a s) := State.issue_form ..
theorem execXcan_form (a : Reg) (s : State) : Makes s (execXcan a s) := State.issue_form ..
theorem execXst_form (a : Reg) (s : State) : Makes s (execXst a s) := State.issue_form ..
theorem execBars_form (i : BitVec 8) (s : State) : Makes s (execBars i s) := State.issue_form ..
theorem execBarw_form (i : BitVec 8) (s : State) : Makes s (execBarw i s) := State.issue_form ..
theorem execBari_form (a : Reg) (i : BitVec 8) (s : State) : Makes s (execBari a i s) := State.issue_form ..
theorem execSpecq_form (d : Reg) (i : BitVec 8) (s : State) : Makes s (execSpecq d i s) := State.issue_form ..
theorem execSpecqSelf_form (d : Reg) (s : State) : Makes s (execSpecqSelf d s) := State.issue_form ..
theorem execTsnow_form (d : Reg) (s : State) : Makes s (execTsnow d s) := State.issue_form ..
theorem execTsnowHz_form (d : Reg) (s : State) : Makes s (execTsnowHz d s) := State.issue_form ..
theorem execMtc_form (d : Reg) (k : BitVec 12) (s : State) : Makes s (execMtc d k s) := by
  unfold execMtc; dsimp only; split
  · exact State.issue_form ..
  · exact ⟨_, .traps _, rfl⟩
theorem execMfc_form (d : Reg) (k : BitVec 12) (s : State) : Makes s (execMfc d k s) := by
  unfold execMfc; split
  · exact State.issue_form ..
  · exact ⟨_, .traps _, rfl⟩
theorem execXgo_form (d : Reg) (s : State) : Makes s (execXgo d s) := State.issue_form ..
theorem execSetwp_form (a : Reg) (s : State) : Makes s (execSetwp a s) := State.systemV_form ..
theorem execCsave_form (a : Reg) (k : BitVec 12) (s : State) : Makes s (execCsave a k s) := State.systemV_form ..
theorem execCrest_form (a : Reg) (k : BitVec 12) (s : State) : Makes s (execCrest a k s) := State.systemV_form ..
theorem execCtxkStop_form (k : BitVec 12) (s : State) : Makes s (execCtxkStop k s) := State.systemV_form ..
theorem execCtxkGo_form (k : BitVec 12) (s : State) : Makes s (execCtxkGo k s) := State.systemV_form ..
theorem execCtxkKill_form (k : BitVec 12) (s : State) : Makes s (execCtxkKill k s) := State.systemV_form ..
theorem execHalt_form (c : Reg) (s : State) : Makes s (execHalt c s) := State.systemV_form ..
theorem execHaltBounce_form (c : Reg) (s : State) : Makes s (execHaltBounce c s) := State.systemV_form ..
theorem execHaltOff_form (c : Reg) (s : State) : Makes s (execHaltOff c s) := State.systemV_form ..
theorem execScan_form (d : Reg) (s : State) : Makes s (execScan d s) := State.systemV_form ..
theorem execCmap_form (a : Reg) (s : State) : Makes s (execCmap a s) := State.systemV_form ..
theorem execStinvPage_form (a : Reg) (k : BitVec 12) (s : State) : Makes s (execStinvPage a k s) := State.systemV_form ..
theorem execStinvPid_form (a : Reg) (k : BitVec 12) (s : State) : Makes s (execStinvPid a k s) := State.systemV_form ..
theorem execStinvAll_form (k : BitVec 12) (s : State) : Makes s (execStinvAll k s) := State.systemV_form ..
theorem execKeyld_form (a : Reg) (k : BitVec 12) (s : State) : Makes s (execKeyld a k s) := State.systemV_form ..
theorem execKeyldClr_form (k : BitVec 12) (s : State) : Makes s (execKeyldClr k s) := State.systemV_form ..
theorem execPerfqSum_form (d : Reg) (c : BitVec 2) (e : BitVec 6) (s : State) : Makes s (execPerfqSum d c e s) := State.systemV_form ..
theorem execPerfqMin_form (d : Reg) (c : BitVec 2) (e : BitVec 6) (s : State) : Makes s (execPerfqMin d c e s) := State.systemV_form ..
theorem execPerfqMax_form (d : Reg) (c : BitVec 2) (e : BitVec 6) (s : State) : Makes s (execPerfqMax d c e s) := State.systemV_form ..
theorem execTrarm_form (a : Reg) (s : State) : Makes s (execTrarm a s) := State.systemV_form ..
theorem execAdd_form (d a b : Reg) (s : State) : Makes s (execAdd d a b s) := State.issue_form ..
theorem execSub_form (d a b : Reg) (s : State) : Makes s (execSub d a b s) := State.issue_form ..
theorem execAnd_form (d a b : Reg) (s : State) : Makes s (execAnd d a b s) := State.issue_form ..
theorem execOr_form (d a b : Reg) (s : State) : Makes s (execOr d a b s) := State.issue_form ..
theorem execXor_form (d a b : Reg) (s : State) : Makes s (execXor d a b s) := State.issue_form ..
theorem execAndn_form (d a b : Reg) (s : State) : Makes s (execAndn d a b s) := State.issue_form ..
theorem execShl_form (d a b : Reg) (s : State) : Makes s (execShl d a b s) := State.issue_form ..
theorem execShr_form (d a b : Reg) (s : State) : Makes s (execShr d a b s) := State.issue_form ..
theorem execSra_form (d a b : Reg) (s : State) : Makes s (execSra d a b s) := State.issue_form ..
theorem execRot_form (d a b : Reg) (s : State) : Makes s (execRot d a b s) := State.issue_form ..
theorem execMin_form (d a b : Reg) (s : State) : Makes s (execMin d a b s) := State.issue_form ..
theorem execMax_form (d a b : Reg) (s : State) : Makes s (execMax d a b s) := State.issue_form ..
theorem execMinu_form (d a b : Reg) (s : State) : Makes s (execMinu d a b s) := State.issue_form ..
theorem execMaxu_form (d a b : Reg) (s : State) : Makes s (execMaxu d a b s) := State.issue_form ..
theorem execAddsat_form (d a b : Reg) (s : State) : Makes s (execAddsat d a b s) := State.issue_form ..
theorem execSubsat_form (d a b : Reg) (s : State) : Makes s (execSubsat d a b s) := State.issue_form ..
theorem execMov_form (d a : Reg) (s : State) : Makes s (execMov d a s) := State.issue_form ..
theorem execAbs_form (d a : Reg) (s : State) : Makes s (execAbs d a s) := State.issue_form ..
theorem execClz_form (d a : Reg) (s : State) : Makes s (execClz d a s) := State.issue_form ..
theorem execCtz_form (d a : Reg) (s : State) : Makes s (execCtz d a s) := State.issue_form ..
theorem execPopc_form (d a : Reg) (s : State) : Makes s (execPopc d a s) := State.issue_form ..
theorem execSext_form (d a : Reg) (w : Size) (s : State) : Makes s (execSext d a w s) := State.issue_form ..
theorem execZext_form (d a : Reg) (w : Size) (s : State) : Makes s (execZext d a w s) := State.issue_form ..
theorem execMul_form (d a b : Reg) (s : State) : Makes s (execMul d a b s) := State.issue_form ..
theorem execMulh_form (d a b : Reg) (s : State) : Makes s (execMulh d a b s) := State.issue_form ..
theorem execMulhu_form (d a b : Reg) (s : State) : Makes s (execMulhu d a b s) := State.issue_form ..
theorem execDiv_form (d a b : Reg) (s : State) : Makes s (execDiv d a b s) := State.issue_form ..
theorem execDivu_form (d a b : Reg) (s : State) : Makes s (execDivu d a b s) := State.issue_form ..
theorem execRem_form (d a b : Reg) (s : State) : Makes s (execRem d a b s) := State.issue_form ..
theorem execRemu_form (d a b : Reg) (s : State) : Makes s (execRemu d a b s) := State.issue_form ..
theorem execSel_form (d a b : Reg) (p : BitVec 3) (s : State) : Makes s (execSel d a b p s) := State.issue_form ..
theorem execBfx_form (d a b : Reg) (s : State) : Makes s (execBfx d a b s) := State.issue_form ..
theorem execBfxSx_form (d a b : Reg) (s : State) : Makes s (execBfxSx d a b s) := State.issue_form ..
theorem execBfi_form (d a b : Reg) (s : State) : Makes s (execBfi d a b s) := State.issue_form ..
theorem execAdds_form (d a b : Reg) (h : BitVec 3) (s : State) : Makes s (execAdds d a b h s) := State.issue_form ..
theorem execWidx_form (d a : Reg) (i : BitVec 10) (s : State) : Makes s (execWidx d a i s) := State.issue_form ..
theorem execAddImm_form (d a : Reg) (i : BitVec 10) (s : State) : Makes s (execAddImm d a i s) := State.issue_form ..
theorem execAndImm_form (d a : Reg) (i : BitVec 10) (s : State) : Makes s (execAndImm d a i s) := State.issue_form ..
theorem execOrImm_form (d a : Reg) (i : BitVec 10) (s : State) : Makes s (execOrImm d a i s) := State.issue_form ..
theorem execXorImm_form (d a : Reg) (i : BitVec 10) (s : State) : Makes s (execXorImm d a i s) := State.issue_form ..
theorem execShlImm_form (d a : Reg) (i : BitVec 10) (s : State) : Makes s (execShlImm d a i s) := State.issue_form ..
theorem execShrImm_form (d a : Reg) (i : BitVec 10) (s : State) : Makes s (execShrImm d a i s) := State.issue_form ..
theorem execSraImm_form (d a : Reg) (i : BitVec 10) (s : State) : Makes s (execSraImm d a i s) := State.issue_form ..
theorem execRotImm_form (d a : Reg) (i : BitVec 10) (s : State) : Makes s (execRotImm d a i s) := State.issue_form ..
theorem execMinImm_form (d a : Reg) (i : BitVec 10) (s : State) : Makes s (execMinImm d a i s) := State.issue_form ..
theorem execMaxImm_form (d a : Reg) (i : BitVec 10) (s : State) : Makes s (execMaxImm d a i s) := State.issue_form ..
theorem execMulImm_form (d a : Reg) (i : BitVec 10) (s : State) : Makes s (execMulImm d a i s) := State.issue_form ..
theorem execMovi_form (d : Reg) (i : BitVec 15) (s : State) : Makes s (execMovi d i s) := State.issue_form ..
theorem execMovh_form (d : Reg) (i : BitVec 15) (s : State) : Makes s (execMovh d i s) := State.issue_form ..
theorem execCmp_form (d : BitVec 3) (a b : Reg) (c : Cond) (s : State) : Makes s (execCmp d a b c s) := State.issue_form ..
theorem execPand_form (d a b : BitVec 3) (s : State) : Makes s (execPand d a b s) := State.issue_form ..
theorem execPor_form (d a b : BitVec 3) (s : State) : Makes s (execPor d a b s) := State.issue_form ..
theorem execPxor_form (d a b : BitVec 3) (s : State) : Makes s (execPxor d a b s) := State.issue_form ..
theorem execPnot_form (d a : BitVec 3) (s : State) : Makes s (execPnot d a s) := State.issue_form ..
theorem execPmov_form (d a : BitVec 3) (s : State) : Makes s (execPmov d a s) := State.issue_form ..
theorem execFadd_form (d a b : Reg) (s : State) : Makes s (execFadd d a b s) := State.issue_form ..
theorem execFsub_form (d a b : Reg) (s : State) : Makes s (execFsub d a b s) := State.issue_form ..
theorem execFmul_form (d a b : Reg) (s : State) : Makes s (execFmul d a b s) := State.issue_form ..
theorem execFfma_form (d a b : Reg) (s : State) : Makes s (execFfma d a b s) := State.issue_form ..
theorem execFmin_form (d a b : Reg) (s : State) : Makes s (execFmin d a b s) := State.issue_form ..
theorem execFmax_form (d a b : Reg) (s : State) : Makes s (execFmax d a b s) := State.issue_form ..
theorem execFabs_form (d a : Reg) (s : State) : Makes s (execFabs d a s) := State.issue_form ..
theorem execFneg_form (d a : Reg) (s : State) : Makes s (execFneg d a s) := State.issue_form ..
theorem execFdiv_form (d a b : Reg) (s : State) : Makes s (execFdiv d a b s) := State.issue_form ..
theorem execFsqrt_form (d a : Reg) (s : State) : Makes s (execFsqrt d a s) := State.issue_form ..
theorem execFclass_form (d a : Reg) (s : State) : Makes s (execFclass d a s) := State.issue_form ..
theorem execFcmp_form (d : BitVec 3) (a b : Reg) (c : FCond) (s : State) : Makes s (execFcmp d a b c s) := State.issue_form ..
theorem execFcvt_form (d a : Reg) (x : Fmt) (c : Rnd) (r : Bool) (s : State) : Makes s (execFcvt d a x c r s) := State.issue_form ..
theorem execVadd_form (d a b : Reg) (m : BitVec 3) (e : EW) (s : State) : Makes s (execVadd d a b m e s) := State.issue_form ..
theorem execVsub_form (d a b : Reg) (m : BitVec 3) (e : EW) (s : State) : Makes s (execVsub d a b m e s) := State.issue_form ..
theorem execVmul_form (d a b : Reg) (m : BitVec 3) (e : EW) (s : State) : Makes s (execVmul d a b m e s) := State.issue_form ..
theorem execVmulhI_form (d a b : Reg) (m : BitVec 3) (e : EW) (s : State) : Makes s (execVmulhI d a b m e s) := State.issue_form ..
theorem execVmulhN_form (d a b : Reg) (m : BitVec 3) (e : EW) (s : State) : Makes s (execVmulhN d a b m e s) := State.issue_form ..
theorem execVmacI_form (d a b : Reg) (m : BitVec 3) (g : BitVec 2) (s : State) : Makes s (execVmacI d a b m g s) := State.issue_form ..
theorem execVmacN_form (d a b : Reg) (m : BitVec 3) (g : BitVec 2) (s : State) : Makes s (execVmacN d a b m g s) := State.issue_form ..
theorem execVdotI_form (d a b : Reg) (m : BitVec 3) (s : State) : Makes s (execVdotI d a b m s) := State.issue_form ..
theorem execVdotN_form (d a b : Reg) (m : BitVec 3) (s : State) : Makes s (execVdotN d a b m s) := State.issue_form ..
theorem execVand_form (d a b : Reg) (m : BitVec 3) (e : EW) (s : State) : Makes s (execVand d a b m e s) := State.issue_form ..
theorem execVor_form (d a b : Reg) (m : BitVec 3) (e : EW) (s : State) : Makes s (execVor d a b m e s) := State.issue_form ..
theorem execVxor_form (d a b : Reg) (m : BitVec 3) (e : EW) (s : State) : Makes s (execVxor d a b m e s) := State.issue_form ..
theorem execVshl_form (d a b : Reg) (m : BitVec 3) (e : EW) (s : State) : Makes s (execVshl d a b m e s) := State.issue_form ..
theorem execVshr_form (d a b : Reg) (m : BitVec 3) (e : EW) (s : State) : Makes s (execVshr d a b m e s) := State.issue_form ..
theorem execVsra_form (d a b : Reg) (m : BitVec 3) (e : EW) (s : State) : Makes s (execVsra d a b m e s) := State.issue_form ..
theorem execVminI_form (d a b : Reg) (m : BitVec 3) (e : EW) (s : State) : Makes s (execVminI d a b m e s) := State.issue_form ..
theorem execVminN_form (d a b : Reg) (m : BitVec 3) (e : EW) (s : State) : Makes s (execVminN d a b m e s) := State.issue_form ..
theorem execVmaxI_form (d a b : Reg) (m : BitVec 3) (e : EW) (s : State) : Makes s (execVmaxI d a b m e s) := State.issue_form ..
theorem execVmaxN_form (d a b : Reg) (m : BitVec 3) (e : EW) (s : State) : Makes s (execVmaxN d a b m e s) := State.issue_form ..
theorem execVabs_form (d a : Reg) (m : BitVec 3) (e : EW) (s : State) : Makes s (execVabs d a m e s) := State.issue_form ..
theorem execVaddsatI_form (d a b : Reg) (m : BitVec 3) (e : EW) (s : State) : Makes s (execVaddsatI d a b m e s) := State.issue_form ..
theorem execVaddsatN_form (d a b : Reg) (m : BitVec 3) (e : EW) (s : State) : Makes s (execVaddsatN d a b m e s) := State.issue_form ..
theorem execVsubsatI_form (d a b : Reg) (m : BitVec 3) (e : EW) (s : State) : Makes s (execVsubsatI d a b m e s) := State.issue_form ..
theorem execVsubsatN_form (d a b : Reg) (m : BitVec 3) (e : EW) (s : State) : Makes s (execVsubsatN d a b m e s) := State.issue_form ..
theorem execVrshrI_form (d a b : Reg) (m : BitVec 3) (e : EW) (s : State) : Makes s (execVrshrI d a b m e s) := State.issue_form ..
theorem execVrshrN_form (d a b : Reg) (m : BitVec 3) (e : EW) (s : State) : Makes s (execVrshrN d a b m e s) := State.issue_form ..
theorem execVclampI_form (d a b : Reg) (m : BitVec 3) (e : EW) (s : State) : Makes s (execVclampI d a b m e s) := State.issue_form ..
theorem execVclampN_form (d a b : Reg) (m : BitVec 3) (e : EW) (s : State) : Makes s (execVclampN d a b m e s) := State.issue_form ..
theorem execVcmpI_form (d : BitVec 3) (a x : Reg) (c : VCond) (e : EW) (s : State) : Makes s (execVcmpI d a x c e s) := State.issue_form ..
theorem execVcmpN_form (d : BitVec 3) (a x : Reg) (c : VCond) (e : EW) (s : State) : Makes s (execVcmpN d a x c e s) := State.issue_form ..
theorem execVfadd_form (d a b : Reg) (m : BitVec 3) (s : State) : Makes s (execVfadd d a b m s) := State.issue_form ..
theorem execVfsub_form (d a b : Reg) (m : BitVec 3) (s : State) : Makes s (execVfsub d a b m s) := State.issue_form ..
theorem execVfmul_form (d a b : Reg) (m : BitVec 3) (s : State) : Makes s (execVfmul d a b m s) := State.issue_form ..
theorem execVffma_form (d a b : Reg) (m : BitVec 3) (s : State) : Makes s (execVffma d a b m s) := State.issue_form ..
theorem execVfmin_form (d a b : Reg) (m : BitVec 3) (s : State) : Makes s (execVfmin d a b m s) := State.issue_form ..
theorem execVfmax_form (d a b : Reg) (m : BitVec 3) (s : State) : Makes s (execVfmax d a b m s) := State.issue_form ..
theorem execVfexp2_form (d a : Reg) (m : BitVec 3) (s : State) : Makes s (execVfexp2 d a m s) := State.issue_form ..
theorem execVflog2_form (d a : Reg) (m : BitVec 3) (s : State) : Makes s (execVflog2 d a m s) := State.issue_form ..
theorem execVfrcp_form (d a : Reg) (m : BitVec 3) (s : State) : Makes s (execVfrcp d a m s) := State.issue_form ..
theorem execVfrsq_form (d a : Reg) (m : BitVec 3) (s : State) : Makes s (execVfrsq d a m s) := State.issue_form ..
theorem execVmov_form (d a : Reg) (m : BitVec 3) (s : State) : Makes s (execVmov d a m s) := State.issue_form ..
theorem execVsplat_form (d a : Reg) (m : BitVec 3) (e : EW) (s : State) : Makes s (execVsplat d a m e s) := State.issue_form ..
theorem execVext_form (d a b : Reg) (e : EW) (s : State) : Makes s (execVext d a b e s) := State.issue_form ..
theorem execVins_form (d a b : Reg) (m : BitVec 3) (e : EW) (s : State) : Makes s (execVins d a b m e s) := State.issue_form ..
theorem execViota_form (d a : Reg) (m : BitVec 3) (e : EW) (s : State) : Makes s (execViota d a m e s) := State.issue_form ..
theorem execVperm_form (d a b : Reg) (m : BitVec 3) (e : EW) (s : State) : Makes s (execVperm d a b m e s) := State.issue_form ..
theorem execVrot_form (d a b : Reg) (m : BitVec 3) (e : EW) (s : State) : Makes s (execVrot d a b m e s) := State.issue_form ..
theorem execVslide_form (d a b : Reg) (m : BitVec 3) (e : EW) (s : State) : Makes s (execVslide d a b m e s) := State.issue_form ..
theorem execVpack_form (d a b : Reg) (m : BitVec 3) (e : EW) (s : State) : Makes s (execVpack d a b m e s) := State.issue_form ..
theorem execVunpk_form (d a : Reg) (u h : Bool) (m : BitVec 3) (e : EW) (s : State) : Makes s (execVunpk d a u h m e s) := State.issue_form ..
theorem execVred_form (d a o : Reg) (m : BitVec 3) (e : EW) (s : State) : Makes s (execVred d a o m e s) := State.issue_form ..
theorem execVsel_form (d a b : Reg) (m : BitVec 3) (s : State) : Makes s (execVsel d a b m s) := State.issue_form ..
theorem execMand_form (d a b : BitVec 3) (s : State) : Makes s (execMand d a b s) := State.issue_form ..
theorem execMor_form (d a b : BitVec 3) (s : State) : Makes s (execMor d a b s) := State.issue_form ..
theorem execMxor_form (d a b : BitVec 3) (s : State) : Makes s (execMxor d a b s) := State.issue_form ..
theorem execMnot_form (d a : BitVec 3) (s : State) : Makes s (execMnot d a s) := State.issue_form ..
theorem execMpop_form (d : Reg) (a : BitVec 3) (s : State) : Makes s (execMpop d a s) := State.issue_form ..
theorem execVcvt_form (d a : Reg) (x : Fmt) (c : Rnd) (w r : Bool) (s : State) : Makes s (execVcvt d a x c w r s) := State.issue_form ..
theorem execVcvts_form (d a : Reg) (x : Fmt) (c : Rnd) (r : Bool) (s : State) : Makes s (execVcvts d a x c r s) := State.issue_form ..
theorem execAccz_form (d : BitVec 3) (s : State) : Makes s (execAccz d s) := State.issue_form ..
theorem execAccw_form (d : BitVec 3) (a : Reg) (n : Bool) (s : State) : Makes s (execAccw d a n s) := State.issue_form ..
theorem execAccwMul_form (d : BitVec 3) (a x : Reg) (n : Bool) (s : State) : Makes s (execAccwMul d a x n s) := State.issue_form ..
theorem execAccwv_form (d : BitVec 3) (a : Reg) (n : Bool) (s : State) : Makes s (execAccwv d a n s) := State.issue_form ..
theorem execAccwvMul_form (d : BitVec 3) (a x : Reg) (n : Bool) (s : State) : Makes s (execAccwvMul d a x n s) := State.issue_form ..
theorem execAccrd_form (d : Reg) (a : BitVec 3) (c : Rnd) (s : State) : Makes s (execAccrd d a c s) := State.issue_form ..
theorem execAccrw_form (d : Reg) (a : BitVec 3) (j : Reg) (s : State) : Makes s (execAccrw d a j s) := State.issue_form ..
theorem execAccrwX_form (d : Reg) (a : BitVec 3) (s : State) : Makes s (execAccrwX d a s) := State.issue_form ..
theorem execAccrwSt_form (t : Reg) (a : BitVec 3) (j : Reg) (s : State) : Makes s (execAccrwSt t a j s) := State.issue_form ..
theorem execAccrwStx_form (t : Reg) (a : BitVec 3) (s : State) : Makes s (execAccrwStx t a s) := State.issue_form ..
theorem execNop_form (s : State) : Makes s (execNop s) := State.issue_form ..
theorem execDone_form (s : State) : Makes s (execDone s) := State.issue_form ..
theorem execOpenAct_form (s : State) : Makes s (execOpenAct s) := State.issue_form ..
theorem execHrevoke_form (s : State) : Makes s (execHrevoke s) := State.issue_form ..
theorem execMset_form (s : State) : Makes s (execMset s) := State.issue_form ..
theorem execEret_form (s : State) : Makes s (execEret s) := by
  unfold execEret; repeat' split
  all_goals first | exact State.issue_form .. | exact ⟨_, .traps _, rfl⟩
theorem execTrarmOff_form (s : State) : Makes s (execTrarmOff s) := State.systemV_form ..
theorem execTrarmStop_form (s : State) : Makes s (execTrarmStop s) := State.systemV_form ..
theorem execAmoAdd_form (d a b : Reg) (c : Scope) (s : State) : Makes s (execAmoAdd d a b c s) := State.atomic_form ..
theorem execAmoAnd_form (d a b : Reg) (c : Scope) (s : State) : Makes s (execAmoAnd d a b c s) := State.atomic_form ..
theorem execAmoOr_form (d a b : Reg) (c : Scope) (s : State) : Makes s (execAmoOr d a b c s) := State.atomic_form ..
theorem execAmoXor_form (d a b : Reg) (c : Scope) (s : State) : Makes s (execAmoXor d a b c s) := State.atomic_form ..
theorem execAmoMin_form (d a b : Reg) (c : Scope) (s : State) : Makes s (execAmoMin d a b c s) := State.atomic_form ..
theorem execAmoMax_form (d a b : Reg) (c : Scope) (s : State) : Makes s (execAmoMax d a b c s) := State.atomic_form ..
theorem execAmoMinu_form (d a b : Reg) (c : Scope) (s : State) : Makes s (execAmoMinu d a b c s) := State.atomic_form ..
theorem execAmoMaxu_form (d a b : Reg) (c : Scope) (s : State) : Makes s (execAmoMaxu d a b c s) := State.atomic_form ..
theorem execCas_form (d a b : Reg) (c : Scope) (s : State) : Makes s (execCas d a b c s) := State.atomic_form ..
theorem execCasXchg_form (d a b : Reg) (c : Scope) (s : State) : Makes s (execCasXchg d a b c s) := State.atomic_form ..
theorem execFamoFadd_form (d a b : Reg) (c : Scope) (s : State) : Makes s (execFamoFadd d a b c s) := State.atomic_form ..
theorem execFamoFmin_form (d a b : Reg) (c : Scope) (s : State) : Makes s (execFamoFmin d a b c s) := State.atomic_form ..
theorem execFamoFmax_form (d a b : Reg) (c : Scope) (s : State) : Makes s (execFamoFmax d a b c s) := State.atomic_form ..
theorem execRrot_form (d a b : Reg) (s : State) : Makes s (execRrot d a b s) := State.present_form ..
theorem execGrprd_form (d a : Reg) (s : State) : Makes s (execGrprd d a s) := State.issue_form ..
theorem execTask_form (a b : Reg) (s : State) : Makes s (execTask a b s) := State.issue_form ..
theorem execGlaunch_form (d a : Reg) (s : State) : Makes s (execGlaunch d a s) := State.issue_form ..
theorem execGdone_form (a : Reg) (s : State) : Makes s (execGdone a s) := State.issue_form ..
theorem execBoot_form (s : State) : Makes s (execBoot s) := State.occur_form ..
theorem execAttestation_form (s : State) : Makes s (execAttestation s) := State.occur_form ..
theorem execLaunchRecord_form (s : State) : Makes s (execLaunchRecord s) := State.occur_form ..
theorem execLaunchStart_form (s : State) : Makes s (execLaunchStart s) := State.occur_form ..
theorem execWake_form (s : State) : Makes s (execWake s) := State.occur_form ..
theorem execLaunchEnd_form (s : State) : Makes s (execLaunchEnd s) := State.occur_form ..
theorem execCommitHorizon_form (s : State) : Makes s (execCommitHorizon s) := State.occur_form ..
theorem execMessageAccept_form (s : State) : Makes s (execMessageAccept s) := State.occur_form ..
theorem execSendRetry_form (s : State) : Makes s (execSendRetry s) := State.occur_form ..
theorem execHelperBinding_form (s : State) : Makes s (execHelperBinding s) := State.occur_form ..
theorem execControlBinding_form (s : State) : Makes s (execControlBinding s) := State.occur_form ..
theorem execSpawnBounce_form (s : State) : Makes s (execSpawnBounce s) := State.occur_form ..
theorem execFill_form (s : State) : Makes s (execFill s) := State.occur_form ..
theorem execDeposit_form (s : State) : Makes s (execDeposit s) := State.occur_form ..
theorem execArrivingAccess_form (s : State) : Makes s (execArrivingAccess s) := State.occur_form ..
theorem execAtomicExecution_form (s : State) : Makes s (execAtomicExecution s) := State.occur_form ..
theorem execRelease_form (s : State) : Makes s (execRelease s) := State.occur_form ..
theorem execScopeMiss_form (s : State) : Makes s (execScopeMiss s) := State.occur_form ..
theorem execTowpathDelivery_form (s : State) : Makes s (execTowpathDelivery s) := State.occur_form ..
theorem execTrackShift_form (s : State) : Makes s (execTrackShift s) := State.occur_form ..
theorem execReverify_form (s : State) : Makes s (execReverify s) := State.occur_form ..
theorem execAutoRealign_form (s : State) : Makes s (execAutoRealign s) := State.occur_form ..
theorem execWeirStep_form (s : State) : Makes s (execWeirStep s) := State.occur_form ..
theorem execCheckpoint_form (s : State) : Makes s (execCheckpoint s) := State.occur_form ..
theorem execAbort_form (s : State) : Makes s (execAbort s) := State.occur_form ..
theorem execCommit_form (s : State) : Makes s (execCommit s) := State.occur_form ..
theorem execTrackedRead_form (s : State) : Makes s (execTrackedRead s) := State.occur_form ..
theorem execTrapDelivery_form (s : State) : Makes s (execTrapDelivery s) := State.occur_form ..
theorem execImpreciseEffectFault_form (s : State) : Makes s (execImpreciseEffectFault s) := State.occur_form ..
theorem execLaunchFault_form (s : State) : Makes s (execLaunchFault s) := State.occur_form ..
theorem execCopyStart_form (s : State) : Makes s (execCopyStart s) := State.occur_form ..
theorem execRangeLockRegister_form (s : State) : Makes s (execRangeLockRegister s) := State.occur_form ..
theorem execCopyRequest_form (s : State) : Makes s (execCopyRequest s) := State.occur_form ..
theorem execCopyWrite_form (s : State) : Makes s (execCopyWrite s) := State.occur_form ..
theorem execCopyCompletion_form (s : State) : Makes s (execCopyCompletion s) := State.occur_form ..
theorem execLeaseGrant_form (s : State) : Makes s (execLeaseGrant s) := State.occur_form ..
theorem execLeaseTimeout_form (s : State) : Makes s (execLeaseTimeout s) := State.occur_form ..
theorem execResultDiscard_form (s : State) : Makes s (execResultDiscard s) := State.occur_form ..
theorem execArrayPush_form (s : State) : Makes s (execArrayPush s) := State.occur_form ..
theorem execMsetAtArray_form (s : State) : Makes s (execMsetAtArray s) := State.occur_form ..
theorem execMfreeAtArray_form (s : State) : Makes s (execMfreeAtArray s) := State.occur_form ..
theorem execCommandStart_form (s : State) : Makes s (execCommandStart s) := State.occur_form ..
theorem execChunkRow_form (s : State) : Makes s (execChunkRow s) := State.occur_form ..
theorem execResultVector_form (s : State) : Makes s (execResultVector s) := State.occur_form ..
theorem execRotation_form (s : State) : Makes s (execRotation s) := State.occur_form ..
theorem execRotationEnd_form (s : State) : Makes s (execRotationEnd s) := State.occur_form ..
theorem execTranslation_form (s : State) : Makes s (execTranslation s) := State.occur_form ..
theorem execWalk_form (s : State) : Makes s (execWalk s) := State.occur_form ..
theorem execTaskEntry_form (s : State) : Makes s (execTaskEntry s) := State.occur_form ..
theorem execCancelNotice_form (s : State) : Makes s (execCancelNotice s) := State.occur_form ..
theorem execReleaseNotice_form (s : State) : Makes s (execReleaseNotice s) := State.occur_form ..
theorem execGraphInstance_form (s : State) : Makes s (execGraphInstance s) := State.occur_form ..
theorem execNodeDone_form (s : State) : Makes s (execNodeDone s) := State.occur_form ..
theorem execPreEmption_form (s : State) : Makes s (execPreEmption s) := State.occur_form ..
theorem execRestore_form (s : State) : Makes s (execRestore s) := State.occur_form ..
theorem execRevocation_form (s : State) : Makes s (execRevocation s) := State.occur_form ..
theorem execHarvestBinding_form (s : State) : Makes s (execHarvestBinding s) := State.occur_form ..
theorem execInvocationPacket_form (s : State) : Makes s (execInvocationPacket s) := State.occur_form ..
theorem execPacketDrain_form (s : State) : Makes s (execPacketDrain s) := State.occur_form ..
theorem execInvocationReply_form (s : State) : Makes s (execInvocationReply s) := State.occur_form ..
theorem execNack_form (s : State) : Makes s (execNack s) := State.occur_form ..
theorem execReplyTimeout_form (s : State) : Makes s (execReplyTimeout s) := State.occur_form ..
theorem execRetryWait_form (s : State) : Makes s (execRetryWait s) := State.occur_form ..
theorem execHeartbeat_form (s : State) : Makes s (execHeartbeat s) := State.occur_form ..
theorem execHeartbeatArrival_form (s : State) : Makes s (execHeartbeatArrival s) := State.occur_form ..
theorem execSuspect_form (s : State) : Makes s (execSuspect s) := State.occur_form ..
theorem execFailed_form (s : State) : Makes s (execFailed s) := State.occur_form ..
theorem execRemap_form (s : State) : Makes s (execRemap s) := State.occur_form ..
theorem execRemapApply_form (s : State) : Makes s (execRemapApply s) := State.occur_form ..
theorem execFrame_form (s : State) : Makes s (execFrame s) := State.occur_form ..
theorem execHostInvocation_form (s : State) : Makes s (execHostInvocation s) := State.occur_form ..
theorem execRdmaWrite_form (s : State) : Makes s (execRdmaWrite s) := State.occur_form ..
theorem execRdmaRead_form (s : State) : Makes s (execRdmaRead s) := State.occur_form ..
theorem execManagementMessage_form (s : State) : Makes s (execManagementMessage s) := State.occur_form ..
theorem execPowerStepCommand_form (s : State) : Makes s (execPowerStepCommand s) := State.occur_form ..
theorem execPreemptCommand_form (s : State) : Makes s (execPreemptCommand s) := State.occur_form ..
theorem execTenantTableWrite_form (s : State) : Makes s (execTenantTableWrite s) := State.occur_form ..
theorem execInvocationTableWrite_form (s : State) : Makes s (execInvocationTableWrite s) := State.occur_form ..
theorem execRankMapWrite_form (s : State) : Makes s (execRankMapWrite s) := State.occur_form ..
theorem execGroupTableWrite_form (s : State) : Makes s (execGroupTableWrite s) := State.occur_form ..
theorem execStatusRead_form (s : State) : Makes s (execStatusRead s) := State.occur_form ..
theorem execFirmwareStaging_form (s : State) : Makes s (execFirmwareStaging s) := State.occur_form ..
theorem execBreakpointWrite_form (s : State) : Makes s (execBreakpointWrite s) := State.occur_form ..
theorem execDump_form (s : State) : Makes s (execDump s) := State.occur_form ..
theorem execLaunchRestore_form (s : State) : Makes s (execLaunchRestore s) := State.occur_form ..
theorem execWeirCap_form (s : State) : Makes s (execWeirCap s) := State.occur_form ..
theorem execRampRate_form (s : State) : Makes s (execRampRate s) := State.occur_form ..
theorem execPstepSample_form (s : State) : Makes s (execPstepSample s) := State.occur_form ..
theorem execPowerEstimate_form (s : State) : Makes s (execPowerEstimate s) := State.occur_form ..
theorem execWeirPeriod_form (s : State) : Makes s (execWeirPeriod s) := State.occur_form ..
theorem execPfail_form (s : State) : Makes s (execPfail s) := State.occur_form ..
theorem execDrain_form (s : State) : Makes s (execDrain s) := State.occur_form ..
theorem execDeviceRecord_form (s : State) : Makes s (execDeviceRecord s) := State.occur_form ..
theorem execPowerDown_form (s : State) : Makes s (execPowerDown s) := State.occur_form ..
theorem execTraceTrigger_form (s : State) : Makes s (execTraceTrigger s) := State.occur_form ..
theorem execTraceDump_form (s : State) : Makes s (execTraceDump s) := State.occur_form ..
theorem execThyme_form (s : State) : Makes s (execThyme s) := State.occur_form ..
theorem execHaltRequest_form (s : State) : Makes s (execHaltRequest s) := State.occur_form ..
theorem execHalted_form (s : State) : Makes s (execHalted s) := State.occur_form ..
theorem execAgeRaise_form (s : State) : Makes s (execAgeRaise s) := State.occur_form ..
theorem execYieldExpiry_form (s : State) : Makes s (execYieldExpiry s) := State.occur_form ..
theorem execScanComplete_form (s : State) : Makes s (execScanComplete s) := State.occur_form ..
theorem execPerfqResult_form (s : State) : Makes s (execPerfqResult s) := State.occur_form ..
theorem execIllegalEncoding_form (s : State) : Makes s (execIllegalEncoding s) := State.fetchRaises_form ..
theorem execFetchFault_form (s : State) : Makes s (execFetchFault s) := State.fetchRaises_form ..
theorem execPowerReturn_form (s : State) : Makes s (execPowerReturn s) := State.occur_form ..
theorem execPatrolScrub_form (s : State) : Makes s (execPatrolScrub s) := State.occur_form ..
theorem execSerdesRetraining_form (s : State) : Makes s (execSerdesRetraining s) := State.occur_form ..

/-- Every instruction and every event answers a next state that one change makes from the present one. -/
theorem exec_form (i : Instr) (s : State) : Makes s (exec i s) := by
  cases i with
  | br i => exact execBr_form i s
  | brp a i => exact execBrp_form a i s
  | brz a i => exact execBrz_form a i s
  | bnz a i => exact execBnz_form a i s
  | bri a => exact execBri_form a s
  | call a i => exact execCall_form a i s
  | calli d a => exact execCalli_form d a s
  | ret a => exact execRet_form a s
  | loop a i => exact execLoop_form a i s
  | lexit i => exact execLexit_form i s
  | yield k => exact execYield_form k s
  | start d a b p => exact execStart_form d a b p s
  | join a => exact execJoin_form a s
  | spawn d a b => exact execSpawn_form d a b s
  | trap k => exact execTrap_form k s
  | bkpt k => exact execBkpt_form k s
  | evrd d => exact execEvrd_form d s
  | evrdPeek d => exact execEvrdPeek_form d s
  | send n a b => exact execSend_form n a b s
  | sendv n a b => exact execSendv_form n a b s
  | recv d k => exact execRecv_form d k s
  | recvv d k => exact execRecvv_form d k s
  | hset d k => exact execHset_form d k s
  | hmaskOn k => exact execHmaskOn_form k s
  | hmaskOff k => exact execHmaskOff_form k s
  | ld d a m z o => exact execLd_form d a m z o s
  | ldSx d a m z o => exact execLdSx_form d a m z o s
  | st d a m z o => exact execSt_form d a m z o s
  | vld d a m o => exact execVld_form d a m o s
  | vst d a m o => exact execVst_form d a m o s
  | vlds d a b e m => exact execVlds_form d a b e m s
  | vsts d a b e m => exact execVsts_form d a b e m s
  | vldx d a b e m => exact execVldx_form d a b e m s
  | vstx d a b e m => exact execVstx_form d a b e m s
  | ldfTake d a o => exact execLdfTake_form d a o s
  | ldfKeep d a o => exact execLdfKeep_form d a o s
  | ste d a m o => exact execSte_form d a m o s
  | tags a b => exact execTags_form a b s
  | tagsV a b => exact execTagsV_form a b s
  | tagr d a => exact execTagr_form d a s
  | tagrV d a => exact execTagrV_form d a s
  | bread n a b m => exact execBread_form n a b m s
  | fence c => exact execFence_form c s
  | rel c => exact execRel_form c s
  | acq c => exact execAcq_form c s
  | town n => exact execTown_form n s
  | townKeep n => exact execTownKeep_form n s
  | tfree n => exact execTfree_form n s
  | tseek n i => exact execTseek_form n i s
  | tseekReg a n => exact execTseekReg_form a n s
  | tstep n i => exact execTstep_form n i s
  | tstepReg a n => exact execTstepReg_form a n s
  | trew n => exact execTrew_form n s
  | trd d n p => exact execTrd_form d n p s
  | trds d n i p => exact execTrds_form d n i p s
  | twr d n p => exact execTwr_form d n p s
  | twrs d n i p => exact execTwrs_form d n i p s
  | twait n => exact execTwait_form n s
  | thead d n => exact execThead_form d n s
  | talign n => exact execTalign_form n s
  | tshare n => exact execTshare_form n s
  | tshareOff n => exact execTshareOff_form n s
  | invoke d a b v => exact execInvoke_form d a b v s
  | invokeRetry d a b v => exact execInvokeRetry_form d a b v s
  | hgrant a => exact execHgrant_form a s
  | qw d => exact execQw_form d s
  | qwv d c => exact execQwv_form d c s
  | qr d => exact execQr_form d s
  | qrv d => exact execQrv_form d s
  | qst d n => exact execQst_form d n s
  | mlease d n i => exact execMlease_form d n i s
  | mfree n => exact execMfree_form n s
  | mma d a b => exact execMma_form d a b s
  | xld a => exact execXld_form a s
  | xwait d a => exact execXwait_form d a s
  | xcan a => exact execXcan_form a s
  | xst a => exact execXst_form a s
  | bars i => exact execBars_form i s
  | barw i => exact execBarw_form i s
  | bari a i => exact execBari_form a i s
  | specq d i => exact execSpecq_form d i s
  | specqSelf d => exact execSpecqSelf_form d s
  | tsnow d => exact execTsnow_form d s
  | tsnowHz d => exact execTsnowHz_form d s
  | mtc d k => exact execMtc_form d k s
  | mfc d k => exact execMfc_form d k s
  | xgo d => exact execXgo_form d s
  | setwp a => exact execSetwp_form a s
  | csave a k => exact execCsave_form a k s
  | crest a k => exact execCrest_form a k s
  | ctxkStop k => exact execCtxkStop_form k s
  | ctxkGo k => exact execCtxkGo_form k s
  | ctxkKill k => exact execCtxkKill_form k s
  | halt c => exact execHalt_form c s
  | haltBounce c => exact execHaltBounce_form c s
  | haltOff c => exact execHaltOff_form c s
  | scan d => exact execScan_form d s
  | cmap a => exact execCmap_form a s
  | stinvPage a k => exact execStinvPage_form a k s
  | stinvPid a k => exact execStinvPid_form a k s
  | stinvAll k => exact execStinvAll_form k s
  | keyld a k => exact execKeyld_form a k s
  | keyldClr k => exact execKeyldClr_form k s
  | perfqSum d c e => exact execPerfqSum_form d c e s
  | perfqMin d c e => exact execPerfqMin_form d c e s
  | perfqMax d c e => exact execPerfqMax_form d c e s
  | trarm a => exact execTrarm_form a s
  | add d a b => exact execAdd_form d a b s
  | sub d a b => exact execSub_form d a b s
  | and d a b => exact execAnd_form d a b s
  | or d a b => exact execOr_form d a b s
  | xor d a b => exact execXor_form d a b s
  | andn d a b => exact execAndn_form d a b s
  | shl d a b => exact execShl_form d a b s
  | shr d a b => exact execShr_form d a b s
  | sra d a b => exact execSra_form d a b s
  | rot d a b => exact execRot_form d a b s
  | min d a b => exact execMin_form d a b s
  | max d a b => exact execMax_form d a b s
  | minu d a b => exact execMinu_form d a b s
  | maxu d a b => exact execMaxu_form d a b s
  | addsat d a b => exact execAddsat_form d a b s
  | subsat d a b => exact execSubsat_form d a b s
  | mov d a => exact execMov_form d a s
  | abs d a => exact execAbs_form d a s
  | clz d a => exact execClz_form d a s
  | ctz d a => exact execCtz_form d a s
  | popc d a => exact execPopc_form d a s
  | sext d a w => exact execSext_form d a w s
  | zext d a w => exact execZext_form d a w s
  | mul d a b => exact execMul_form d a b s
  | mulh d a b => exact execMulh_form d a b s
  | mulhu d a b => exact execMulhu_form d a b s
  | div d a b => exact execDiv_form d a b s
  | divu d a b => exact execDivu_form d a b s
  | rem d a b => exact execRem_form d a b s
  | remu d a b => exact execRemu_form d a b s
  | sel d a b p => exact execSel_form d a b p s
  | bfx d a b => exact execBfx_form d a b s
  | bfxSx d a b => exact execBfxSx_form d a b s
  | bfi d a b => exact execBfi_form d a b s
  | adds d a b h => exact execAdds_form d a b h s
  | widx d a i => exact execWidx_form d a i s
  | addImm d a i => exact execAddImm_form d a i s
  | andImm d a i => exact execAndImm_form d a i s
  | orImm d a i => exact execOrImm_form d a i s
  | xorImm d a i => exact execXorImm_form d a i s
  | shlImm d a i => exact execShlImm_form d a i s
  | shrImm d a i => exact execShrImm_form d a i s
  | sraImm d a i => exact execSraImm_form d a i s
  | rotImm d a i => exact execRotImm_form d a i s
  | minImm d a i => exact execMinImm_form d a i s
  | maxImm d a i => exact execMaxImm_form d a i s
  | mulImm d a i => exact execMulImm_form d a i s
  | movi d i => exact execMovi_form d i s
  | movh d i => exact execMovh_form d i s
  | cmp d a b c => exact execCmp_form d a b c s
  | pand d a b => exact execPand_form d a b s
  | por d a b => exact execPor_form d a b s
  | pxor d a b => exact execPxor_form d a b s
  | pnot d a => exact execPnot_form d a s
  | pmov d a => exact execPmov_form d a s
  | fadd d a b => exact execFadd_form d a b s
  | fsub d a b => exact execFsub_form d a b s
  | fmul d a b => exact execFmul_form d a b s
  | ffma d a b => exact execFfma_form d a b s
  | fmin d a b => exact execFmin_form d a b s
  | fmax d a b => exact execFmax_form d a b s
  | fabs d a => exact execFabs_form d a s
  | fneg d a => exact execFneg_form d a s
  | fdiv d a b => exact execFdiv_form d a b s
  | fsqrt d a => exact execFsqrt_form d a s
  | fclass d a => exact execFclass_form d a s
  | fcmp d a b c => exact execFcmp_form d a b c s
  | fcvt d a x c r => exact execFcvt_form d a x c r s
  | vadd d a b m e => exact execVadd_form d a b m e s
  | vsub d a b m e => exact execVsub_form d a b m e s
  | vmul d a b m e => exact execVmul_form d a b m e s
  | vmulhI d a b m e => exact execVmulhI_form d a b m e s
  | vmulhN d a b m e => exact execVmulhN_form d a b m e s
  | vmacI d a b m g => exact execVmacI_form d a b m g s
  | vmacN d a b m g => exact execVmacN_form d a b m g s
  | vdotI d a b m => exact execVdotI_form d a b m s
  | vdotN d a b m => exact execVdotN_form d a b m s
  | vand d a b m e => exact execVand_form d a b m e s
  | vor d a b m e => exact execVor_form d a b m e s
  | vxor d a b m e => exact execVxor_form d a b m e s
  | vshl d a b m e => exact execVshl_form d a b m e s
  | vshr d a b m e => exact execVshr_form d a b m e s
  | vsra d a b m e => exact execVsra_form d a b m e s
  | vminI d a b m e => exact execVminI_form d a b m e s
  | vminN d a b m e => exact execVminN_form d a b m e s
  | vmaxI d a b m e => exact execVmaxI_form d a b m e s
  | vmaxN d a b m e => exact execVmaxN_form d a b m e s
  | vabs d a m e => exact execVabs_form d a m e s
  | vaddsatI d a b m e => exact execVaddsatI_form d a b m e s
  | vaddsatN d a b m e => exact execVaddsatN_form d a b m e s
  | vsubsatI d a b m e => exact execVsubsatI_form d a b m e s
  | vsubsatN d a b m e => exact execVsubsatN_form d a b m e s
  | vrshrI d a b m e => exact execVrshrI_form d a b m e s
  | vrshrN d a b m e => exact execVrshrN_form d a b m e s
  | vclampI d a b m e => exact execVclampI_form d a b m e s
  | vclampN d a b m e => exact execVclampN_form d a b m e s
  | vcmpI d a x c e => exact execVcmpI_form d a x c e s
  | vcmpN d a x c e => exact execVcmpN_form d a x c e s
  | vfadd d a b m => exact execVfadd_form d a b m s
  | vfsub d a b m => exact execVfsub_form d a b m s
  | vfmul d a b m => exact execVfmul_form d a b m s
  | vffma d a b m => exact execVffma_form d a b m s
  | vfmin d a b m => exact execVfmin_form d a b m s
  | vfmax d a b m => exact execVfmax_form d a b m s
  | vfexp2 d a m => exact execVfexp2_form d a m s
  | vflog2 d a m => exact execVflog2_form d a m s
  | vfrcp d a m => exact execVfrcp_form d a m s
  | vfrsq d a m => exact execVfrsq_form d a m s
  | vmov d a m => exact execVmov_form d a m s
  | vsplat d a m e => exact execVsplat_form d a m e s
  | vext d a b e => exact execVext_form d a b e s
  | vins d a b m e => exact execVins_form d a b m e s
  | viota d a m e => exact execViota_form d a m e s
  | vperm d a b m e => exact execVperm_form d a b m e s
  | vrot d a b m e => exact execVrot_form d a b m e s
  | vslide d a b m e => exact execVslide_form d a b m e s
  | vpack d a b m e => exact execVpack_form d a b m e s
  | vunpk d a u h m e => exact execVunpk_form d a u h m e s
  | vred d a o m e => exact execVred_form d a o m e s
  | vsel d a b m => exact execVsel_form d a b m s
  | mand d a b => exact execMand_form d a b s
  | mor d a b => exact execMor_form d a b s
  | mxor d a b => exact execMxor_form d a b s
  | mnot d a => exact execMnot_form d a s
  | mpop d a => exact execMpop_form d a s
  | vcvt d a x c w r => exact execVcvt_form d a x c w r s
  | vcvts d a x c r => exact execVcvts_form d a x c r s
  | accz d => exact execAccz_form d s
  | accw d a n => exact execAccw_form d a n s
  | accwMul d a x n => exact execAccwMul_form d a x n s
  | accwv d a n => exact execAccwv_form d a n s
  | accwvMul d a x n => exact execAccwvMul_form d a x n s
  | accrd d a c => exact execAccrd_form d a c s
  | accrw d a j => exact execAccrw_form d a j s
  | accrwX d a => exact execAccrwX_form d a s
  | accrwSt t a j => exact execAccrwSt_form t a j s
  | accrwStx t a => exact execAccrwStx_form t a s
  | nop => exact execNop_form s
  | done => exact execDone_form s
  | openAct => exact execOpenAct_form s
  | hrevoke => exact execHrevoke_form s
  | mset => exact execMset_form s
  | eret => exact execEret_form s
  | trarmOff => exact execTrarmOff_form s
  | trarmStop => exact execTrarmStop_form s
  | amoAdd d a b c => exact execAmoAdd_form d a b c s
  | amoAnd d a b c => exact execAmoAnd_form d a b c s
  | amoOr d a b c => exact execAmoOr_form d a b c s
  | amoXor d a b c => exact execAmoXor_form d a b c s
  | amoMin d a b c => exact execAmoMin_form d a b c s
  | amoMax d a b c => exact execAmoMax_form d a b c s
  | amoMinu d a b c => exact execAmoMinu_form d a b c s
  | amoMaxu d a b c => exact execAmoMaxu_form d a b c s
  | cas d a b c => exact execCas_form d a b c s
  | casXchg d a b c => exact execCasXchg_form d a b c s
  | famoFadd d a b c => exact execFamoFadd_form d a b c s
  | famoFmin d a b c => exact execFamoFmin_form d a b c s
  | famoFmax d a b c => exact execFamoFmax_form d a b c s
  | rrot d a b => exact execRrot_form d a b s
  | grprd d a => exact execGrprd_form d a s
  | task a b => exact execTask_form a b s
  | glaunch d a => exact execGlaunch_form d a s
  | gdone a => exact execGdone_form a s
  | boot => exact execBoot_form s
  | attestation => exact execAttestation_form s
  | launchRecord => exact execLaunchRecord_form s
  | launchStart => exact execLaunchStart_form s
  | wake => exact execWake_form s
  | launchEnd => exact execLaunchEnd_form s
  | commitHorizon => exact execCommitHorizon_form s
  | messageAccept => exact execMessageAccept_form s
  | sendRetry => exact execSendRetry_form s
  | helperBinding => exact execHelperBinding_form s
  | controlBinding => exact execControlBinding_form s
  | spawnBounce => exact execSpawnBounce_form s
  | fill => exact execFill_form s
  | deposit => exact execDeposit_form s
  | arrivingAccess => exact execArrivingAccess_form s
  | atomicExecution => exact execAtomicExecution_form s
  | release => exact execRelease_form s
  | scopeMiss => exact execScopeMiss_form s
  | towpathDelivery => exact execTowpathDelivery_form s
  | trackShift => exact execTrackShift_form s
  | reverify => exact execReverify_form s
  | autoRealign => exact execAutoRealign_form s
  | weirStep => exact execWeirStep_form s
  | checkpoint => exact execCheckpoint_form s
  | abort => exact execAbort_form s
  | commit => exact execCommit_form s
  | trackedRead => exact execTrackedRead_form s
  | trapDelivery => exact execTrapDelivery_form s
  | impreciseEffectFault => exact execImpreciseEffectFault_form s
  | launchFault => exact execLaunchFault_form s
  | copyStart => exact execCopyStart_form s
  | rangeLockRegister => exact execRangeLockRegister_form s
  | copyRequest => exact execCopyRequest_form s
  | copyWrite => exact execCopyWrite_form s
  | copyCompletion => exact execCopyCompletion_form s
  | leaseGrant => exact execLeaseGrant_form s
  | leaseTimeout => exact execLeaseTimeout_form s
  | resultDiscard => exact execResultDiscard_form s
  | arrayPush => exact execArrayPush_form s
  | msetAtArray => exact execMsetAtArray_form s
  | mfreeAtArray => exact execMfreeAtArray_form s
  | commandStart => exact execCommandStart_form s
  | chunkRow => exact execChunkRow_form s
  | resultVector => exact execResultVector_form s
  | rotation => exact execRotation_form s
  | rotationEnd => exact execRotationEnd_form s
  | translation => exact execTranslation_form s
  | walk => exact execWalk_form s
  | taskEntry => exact execTaskEntry_form s
  | cancelNotice => exact execCancelNotice_form s
  | releaseNotice => exact execReleaseNotice_form s
  | graphInstance => exact execGraphInstance_form s
  | nodeDone => exact execNodeDone_form s
  | preEmption => exact execPreEmption_form s
  | restore => exact execRestore_form s
  | revocation => exact execRevocation_form s
  | harvestBinding => exact execHarvestBinding_form s
  | invocationPacket => exact execInvocationPacket_form s
  | packetDrain => exact execPacketDrain_form s
  | invocationReply => exact execInvocationReply_form s
  | nack => exact execNack_form s
  | replyTimeout => exact execReplyTimeout_form s
  | retryWait => exact execRetryWait_form s
  | heartbeat => exact execHeartbeat_form s
  | heartbeatArrival => exact execHeartbeatArrival_form s
  | suspect => exact execSuspect_form s
  | failed => exact execFailed_form s
  | remap => exact execRemap_form s
  | remapApply => exact execRemapApply_form s
  | frame => exact execFrame_form s
  | hostInvocation => exact execHostInvocation_form s
  | rdmaWrite => exact execRdmaWrite_form s
  | rdmaRead => exact execRdmaRead_form s
  | managementMessage => exact execManagementMessage_form s
  | powerStepCommand => exact execPowerStepCommand_form s
  | preemptCommand => exact execPreemptCommand_form s
  | tenantTableWrite => exact execTenantTableWrite_form s
  | invocationTableWrite => exact execInvocationTableWrite_form s
  | rankMapWrite => exact execRankMapWrite_form s
  | groupTableWrite => exact execGroupTableWrite_form s
  | statusRead => exact execStatusRead_form s
  | firmwareStaging => exact execFirmwareStaging_form s
  | breakpointWrite => exact execBreakpointWrite_form s
  | dump => exact execDump_form s
  | launchRestore => exact execLaunchRestore_form s
  | weirCap => exact execWeirCap_form s
  | rampRate => exact execRampRate_form s
  | pstepSample => exact execPstepSample_form s
  | powerEstimate => exact execPowerEstimate_form s
  | weirPeriod => exact execWeirPeriod_form s
  | pfail => exact execPfail_form s
  | drain => exact execDrain_form s
  | deviceRecord => exact execDeviceRecord_form s
  | powerDown => exact execPowerDown_form s
  | traceTrigger => exact execTraceTrigger_form s
  | traceDump => exact execTraceDump_form s
  | thyme => exact execThyme_form s
  | haltRequest => exact execHaltRequest_form s
  | halted => exact execHalted_form s
  | ageRaise => exact execAgeRaise_form s
  | yieldExpiry => exact execYieldExpiry_form s
  | scanComplete => exact execScanComplete_form s
  | perfqResult => exact execPerfqResult_form s
  | illegalEncoding => exact execIllegalEncoding_form s
  | fetchFault => exact execFetchFault_form s
  | powerReturn => exact execPowerReturn_form s
  | patrolScrub => exact execPatrolScrub_form s
  | serdesRetraining => exact execSerdesRetraining_form s

end Sys2Proof.Machine
end

