-- ==== Sys2Proof/Laws/PerInstr.lean ====
section
/-!
SUPPORT. Statements made for each instruction as syntax: its encoding decodes to it. The words of the decoder are read by one lemma
for each of its combinators and one for each operand code.
-/

namespace Sys2Proof.Laws.RoundTrip

/-- A well-formed instruction's class, major opcode and operand bits fit their fields and decode to it. -/
def Statement (i : Instr) : Prop :=
  ∀ k op x, i.parts = some (k, op, x) → i.wellFormed = true →
    op < 128 ∧ x < 1048576 ∧ (decodeParts k op x).toOption.map Decoded.instr = some i

theorem parts_eq {o : Option (Bool × Nat × Nat)} {k k' : Bool} {op op' x x' : Nat} (e : o = some (k, op, x))
    (h : o = some (k', op', x')) : k' = k ∧ op' = op ∧ x' = x := by
  rw [e] at h
  simp only [Option.some.injEq, Prod.mk.injEq] at h
  exact ⟨h.1.symm, h.2.1.symm, h.2.2.symm⟩

/-! ## The decoder's combinators -/

abbrev Res := Except Reason Decoded

theorem minor_yes {c : Prop} [Decidable c] {t e r : Res} (h : c) (g : t = r) : minor c t e = r := (if_pos h).trans g
theorem minor_no {c : Prop} [Decidable c] {t e r : Res} (h : ¬c) (g : e = r) : minor c t e = r := (if_neg h).trans g
theorem minor_past {y m n : Nat} {t e r : Res} (h : y = n) (d : n ≠ m) (g : e = r) : minor (y = m) t e = r :=
  minor_no (by rw [h]; exact d) g
theorem unless3_yes {c : Prop} [Decidable c] {t r : Res} (h : c) (g : t = r) : unless3 c t = r := (if_pos h).trans g
theorem unless4_yes {c : Prop} [Decidable c] {t r : Res} (h : c) (g : t = r) : unless4 c t = r := (if_pos h).trans g
theorem if_yes {c : Prop} [Decidable c] {t e r : Res} (h : c) (g : t = r) : (if c then t else e) = r := (if_pos h).trans g
theorem if_no {c : Prop} [Decidable c] {t e r : Res} (h : ¬c) (g : e = r) : (if c then t else e) = r := (if_neg h).trans g
theorem reserved_yes {α : Type} {o : Option α} {v : α} {t : α → Res} {r : Res} (h : o = some v) (g : t v = r) :
    reserved o t = r := by subst h; exact g

theorem finishAR {op x : Nat} {i : Instr} (e : rawAR op x = .ok (.plain i)) (hw : i.wellFormed = true) :
    (decodeParts true op x).toOption.map Decoded.instr = some i := by
  obtain ⟨h1, h2⟩ : i.rangeOk = true ∧ i.codesOk = true := by simpa [Instr.wellFormed] using hw
  simp [decodeParts, e, bind, Except.bind, checkWF, h1, h2, Except.toOption, Decoded.instr]
theorem finishCM {op x : Nat} {i : Instr} (e : rawCM op x = .ok (.plain i)) (hw : i.wellFormed = true) :
    (decodeParts false op x).toOption.map Decoded.instr = some i := by
  obtain ⟨h1, h2⟩ : i.rangeOk = true ∧ i.codesOk = true := by simpa [Instr.wellFormed] using hw
  simp [decodeParts, e, bind, Except.bind, checkWF, h1, h2, Except.toOption, Decoded.instr]
theorem finishLateCM {op x : Nat} {l : Late} (e : rawCM op x = .ok (.late l)) :
    (decodeParts false op x).toOption.map Decoded.instr = some l.instr := by
  simp [decodeParts, e, bind, Except.bind, checkWF, Except.toOption, Decoded.instr]

/-! ## Operand fields and codes -/

theorem fieldAt {n : Nat} {v : BitVec n} {y : Nat} (h : y % 2 ^ n = v.toNat) : BitVec.ofNat n y = v :=
  BitVec.eq_of_toNat_eq (by rw [BitVec.toNat_ofNat, h])
theorem bit_lt (p : Bool) : (if p = true then 1 else 0) < 2 := by split <;> decide
theorem bitAt {p : Bool} {y : Nat} (h : y = if p = true then 1 else 0) : decide (y = 1) = p := by
  subst h; cases p <;> rfl
theorem code3At {v : BitVec 3} {y : Nat} (h : y = v.toNat) : code3 y = some v := by
  subst h
  rw [code3, if_pos v.isLt]
  exact congrArg some (fieldAt (Nat.mod_eq_of_lt v.isLt))
theorem modeAt {c : AddrMode} {y : Nat} (h : y = c.code) : AddrMode.ofCode y = c := by subst h; cases c <;> rfl
theorem sizeAt {c : Size} {y : Nat} (h : y = c.code) : Size.ofCode y = c := by subst h; cases c <;> rfl
theorem size5At {c : Size} {y : Nat} (h : y = c.code) : Size.ofCode5 y = some c := by subst h; cases c <;> rfl
theorem scopeAt {c : Scope} {y : Nat} (h : y = c.code) : Scope.ofCode y = c := by subst h; cases c <;> rfl
theorem ewAt {c : EW} {y : Nat} (h : y = c.code) : EW.ofCode y = some c := by subst h; cases c <;> rfl
theorem rndAt {c : Rnd} {y : Nat} (h : y = c.code) : Rnd.ofCode y = some c := by subst h; cases c <;> rfl
theorem fmtAt {c : Fmt} {y : Nat} (h : y = c.code) : Fmt.ofCode y = some c := by subst h; cases c <;> rfl
theorem condAt {c : Cond} {y : Nat} (h : y = c.code) : Cond.ofCode y = some c := by subst h; cases c <;> rfl
theorem vcondAt {c : VCond} {y : Nat} (h : y = c.code) : VCond.ofCode y = some c := by subst h; cases c <;> rfl
theorem fcondAt {c : FCond} {y : Nat} (h : y = c.code) : FCond.ofCode y = some c := by subst h; cases c <;> rfl
theorem mode_lt (c : AddrMode) : c.code < 4 := by cases c <;> decide
theorem size_lt (c : Size) : c.code < 4 := by cases c <;> decide
theorem scope_lt (c : Scope) : c.code < 4 := by cases c <;> decide
theorem ew_lt (c : EW) : c.code < 3 := by cases c <;> decide
theorem rnd_lt (c : Rnd) : c.code < 5 := by cases c <;> decide
theorem fmt_lt (c : Fmt) : c.code < 20 := by cases c <;> decide
theorem cond_lt (c : Cond) : c.code < 10 := by cases c <;> decide
theorem vcond_lt (c : VCond) : c.code < 6 := by cases c <;> decide
theorem fcond_lt (c : FCond) : c.code < 7 := by cases c <;> decide

/-! ## The two commonest forms -/

theorem three {d a b : Reg} {x : Nat} (n : Nat) (hn : n < 32)
    (h : x = d.toNat * 32768 + a.toNat * 1024 + b.toNat * 32 + n) :
    x < 1048576 ∧ BitVec.ofNat 5 (x / 32768) = d ∧ BitVec.ofNat 5 (x / 1024) = a ∧ BitVec.ofNat 5 (x / 32) = b ∧ x % 32 = n := by
  have hd := d.isLt
  have ha := a.isLt
  have hb := b.isLt
  exact ⟨by omega, fieldAt (by omega), fieldAt (by omega), fieldAt (by omega), by omega⟩
theorem five {d a b : Reg} {m : BitVec 3} {e : EW} {x : Nat}
    (h : x = d.toNat * 32768 + a.toNat * 1024 + b.toNat * 32 + m.toNat * 4 + e.code) :
    x < 1048576 ∧ BitVec.ofNat 5 (x / 32768) = d ∧ BitVec.ofNat 5 (x / 1024) = a ∧ BitVec.ofNat 5 (x / 32) = b ∧
      BitVec.ofNat 3 (x / 4) = m ∧ EW.ofCode (x % 4) = some e := by
  have hd := d.isLt
  have ha := a.isLt
  have hb := b.isLt
  have hm := m.isLt
  have he := ew_lt e
  exact ⟨by omega, fieldAt (by omega), fieldAt (by omega), fieldAt (by omega), fieldAt (by omega), ewAt (by omega)⟩

/-! ## The instructions -/

theorem br (i : BitVec 15) : Statement (.br i) := by
  intro cl op xw hp hwf
  obtain ⟨rfl, rfl, hxw⟩ := parts_eq (k := false) (op := 0x02) (x := i.toNat) rfl hp
  have hi := i.isLt
  refine ⟨by decide, by omega, finishCM ?_ hwf⟩
  refine unless3_yes (by omega) ?_
  exact (congrArg Except.ok (congrArg Decoded.plain (congrArg Instr.br (fieldAt (by omega)))))
theorem brp (a : BitVec 3) (i : BitVec 15) : Statement (.brp a i) := by
  intro cl op xw hp hwf
  obtain ⟨rfl, rfl, hxw⟩ := parts_eq (k := false) (op := 0x03) (x := a.toNat * 32768 + i.toNat) rfl hp
  have ha := a.isLt
  have hi := i.isLt
  refine ⟨by decide, by omega, finishCM ?_ hwf⟩
  refine reserved_yes (code3At (v := a) (by omega)) ?_
  exact (congrArg Except.ok (congrArg Decoded.plain (congr (congrArg Instr.brp (rfl)) (fieldAt (by omega)))))
theorem brz (a : Reg) (i : BitVec 15) : Statement (.brz a i) := by
  intro cl op xw hp hwf
  obtain ⟨rfl, rfl, hxw⟩ := parts_eq (k := false) (op := 0x04) (x := a.toNat * 32768 + i.toNat) rfl hp
  have ha := a.isLt
  have hi := i.isLt
  refine ⟨by decide, by omega, finishCM ?_ hwf⟩
  exact (congrArg Except.ok (congrArg Decoded.plain (congr (congrArg Instr.brz (fieldAt (by omega))) (fieldAt (by omega)))))
theorem bnz (a : Reg) (i : BitVec 15) : Statement (.bnz a i) := by
  intro cl op xw hp hwf
  obtain ⟨rfl, rfl, hxw⟩ := parts_eq (k := false) (op := 0x05) (x := a.toNat * 32768 + i.toNat) rfl hp
  have ha := a.isLt
  have hi := i.isLt
  refine ⟨by decide, by omega, finishCM ?_ hwf⟩
  exact (congrArg Except.ok (congrArg Decoded.plain (congr (congrArg Instr.bnz (fieldAt (by omega))) (fieldAt (by omega)))))
theorem bri (a : Reg) : Statement (.bri a) := by
  intro cl op xw hp hwf
  obtain ⟨rfl, rfl, hxw⟩ := parts_eq (k := false) (op := 0x06) (x := a.toNat * 1024) rfl hp
  have ha := a.isLt
  refine ⟨by decide, by omega, finishCM ?_ hwf⟩
  refine minor_yes (by omega) ?_
  refine unless3_yes (by omega) ?_
  exact (congrArg Except.ok (congrArg Decoded.plain (congrArg Instr.bri (fieldAt (by omega)))))
theorem call (a : Reg) (i : BitVec 15) : Statement (.call a i) := by
  intro cl op xw hp hwf
  obtain ⟨rfl, rfl, hxw⟩ := parts_eq (k := false) (op := 0x07) (x := a.toNat * 32768 + i.toNat) rfl hp
  have ha := a.isLt
  have hi := i.isLt
  refine ⟨by decide, by omega, finishCM ?_ hwf⟩
  exact (congrArg Except.ok (congrArg Decoded.plain (congr (congrArg Instr.call (fieldAt (by omega))) (fieldAt (by omega)))))
theorem calli (d : Reg) (a : Reg) : Statement (.calli d a) := by
  intro cl op xw hp hwf
  obtain ⟨rfl, rfl, hxw⟩ := parts_eq (k := false) (op := 0x08) (x := d.toNat * 32768 + a.toNat * 1024) rfl hp
  have hd := d.isLt
  have ha := a.isLt
  refine ⟨by decide, by omega, finishCM ?_ hwf⟩
  refine minor_yes (by omega) ?_
  refine unless3_yes (by omega) ?_
  exact (congrArg Except.ok (congrArg Decoded.plain (congr (congrArg Instr.calli (fieldAt (by omega))) (fieldAt (by omega)))))
theorem ret (a : Reg) : Statement (.ret a) := by
  intro cl op xw hp hwf
  obtain ⟨rfl, rfl, hxw⟩ := parts_eq (k := false) (op := 0x09) (x := a.toNat * 1024) rfl hp
  have ha := a.isLt
  refine ⟨by decide, by omega, finishCM ?_ hwf⟩
  refine minor_yes (by omega) ?_
  refine unless3_yes (by omega) ?_
  exact (congrArg Except.ok (congrArg Decoded.plain (congrArg Instr.ret (fieldAt (by omega)))))
theorem loop (a : Reg) (i : BitVec 15) : Statement (.loop a i) := by
  intro cl op xw hp hwf
  obtain ⟨rfl, rfl, hxw⟩ := parts_eq (k := false) (op := 0x0A) (x := a.toNat * 32768 + i.toNat) rfl hp
  have ha := a.isLt
  have hi := i.isLt
  refine ⟨by decide, by omega, finishCM ?_ hwf⟩
  exact (congrArg Except.ok (congrArg Decoded.plain (congr (congrArg Instr.loop (fieldAt (by omega))) (fieldAt (by omega)))))
theorem lexit (i : BitVec 15) : Statement (.lexit i) := by
  intro cl op xw hp hwf
  obtain ⟨rfl, rfl, hxw⟩ := parts_eq (k := false) (op := 0x0B) (x := i.toNat) rfl hp
  have hi := i.isLt
  refine ⟨by decide, by omega, finishCM ?_ hwf⟩
  refine unless3_yes (by omega) ?_
  exact (congrArg Except.ok (congrArg Decoded.plain (congrArg Instr.lexit (fieldAt (by omega)))))
theorem yield (k : BitVec 12) : Statement (.yield k) := by
  intro cl op xw hp hwf
  obtain ⟨rfl, rfl, hxw⟩ := parts_eq (k := false) (op := 0x0D) (x := k.toNat * 8) rfl hp
  have hk := k.isLt
  refine ⟨by decide, by omega, finishCM ?_ hwf⟩
  refine minor_yes (by omega) ?_
  refine unless3_yes (by omega) ?_
  exact (congrArg Except.ok (congrArg Decoded.plain (congrArg Instr.yield (fieldAt (by omega)))))
theorem start (d : Reg) (a : Reg) (b : Reg) (p : BitVec 3) : Statement (.start d a b p) := by
  intro cl op xw hp hwf
  obtain ⟨rfl, rfl, hxw⟩ := parts_eq (k := false) (op := 0x0E) (x := d.toNat * 32768 + a.toNat * 1024 + b.toNat * 32 + p.toNat) rfl hp
  have hd := d.isLt
  have ha := a.isLt
  have hb := b.isLt
  have hp := p.isLt
  refine ⟨by decide, by omega, finishCM ?_ hwf⟩
  refine minor_yes (by omega) ?_
  exact (congrArg Except.ok (congrArg Decoded.plain (congr (congr (congr (congrArg Instr.start (fieldAt (by omega))) (fieldAt (by omega))) (fieldAt (by omega))) (fieldAt (by omega)))))
theorem join (a : Reg) : Statement (.join a) := by
  intro cl op xw hp hwf
  obtain ⟨rfl, rfl, hxw⟩ := parts_eq (k := false) (op := 0x0F) (x := a.toNat * 1024) rfl hp
  have ha := a.isLt
  refine ⟨by decide, by omega, finishCM ?_ hwf⟩
  refine minor_yes (by omega) ?_
  refine unless3_yes (by omega) ?_
  exact (congrArg Except.ok (congrArg Decoded.plain (congrArg Instr.join (fieldAt (by omega)))))
theorem spawn (d : Reg) (a : Reg) (b : Reg) : Statement (.spawn d a b) := by
  intro cl op xw hp hwf
  obtain ⟨rfl, rfl, hxw⟩ := parts_eq (k := false) (op := 0x10) (x := d.toNat * 32768 + a.toNat * 1024 + b.toNat * 32) rfl hp
  have hd := d.isLt
  have ha := a.isLt
  have hb := b.isLt
  refine ⟨by decide, by omega, finishCM ?_ hwf⟩
  refine minor_yes (by omega) ?_
  exact (congrArg Except.ok (congrArg Decoded.plain (congr (congr (congrArg Instr.spawn (fieldAt (by omega))) (fieldAt (by omega))) (fieldAt (by omega)))))
theorem trap (k : BitVec 12) : Statement (.trap k) := by
  intro cl op xw hp hwf
  obtain ⟨rfl, rfl, hxw⟩ := parts_eq (k := false) (op := 0x11) (x := k.toNat * 8) rfl hp
  have hk := k.isLt
  refine ⟨by decide, by omega, finishCM ?_ hwf⟩
  refine minor_yes (by omega) ?_
  refine unless3_yes (by omega) ?_
  exact (congrArg Except.ok (congrArg Decoded.plain (congrArg Instr.trap (fieldAt (by omega)))))
theorem bkpt (k : BitVec 12) : Statement (.bkpt k) := by
  intro cl op xw hp hwf
  obtain ⟨rfl, rfl, hxw⟩ := parts_eq (k := false) (op := 0x12) (x := k.toNat * 8) rfl hp
  have hk := k.isLt
  refine ⟨by decide, by omega, finishCM ?_ hwf⟩
  refine minor_yes (by omega) ?_
  refine unless3_yes (by omega) ?_
  exact (congrArg Except.ok (congrArg Decoded.plain (congrArg Instr.bkpt (fieldAt (by omega)))))
theorem evrd (d : Reg) : Statement (.evrd d) := by
  intro cl op xw hp hwf
  obtain ⟨rfl, rfl, hxw⟩ := parts_eq (k := false) (op := 0x13) (x := d.toNat * 32768) rfl hp
  have hd := d.isLt
  refine ⟨by decide, by omega, finishCM ?_ hwf⟩
  refine minor_yes (by omega) ?_
  refine unless3_yes (by omega) ?_
  exact (congrArg Except.ok (congrArg Decoded.plain (congrArg Instr.evrd (fieldAt (by omega)))))
theorem evrdPeek (d : Reg) : Statement (.evrdPeek d) := by
  intro cl op xw hp hwf
  obtain ⟨rfl, rfl, hxw⟩ := parts_eq (k := false) (op := 0x13) (x := d.toNat * 32768 + 1) rfl hp
  have hd := d.isLt
  refine ⟨by decide, by omega, finishCM ?_ hwf⟩
  have hm : xw % 32 = 1 := by omega
  refine minor_past hm (by decide) ?_
  refine minor_yes hm ?_
  refine unless3_yes (by omega) ?_
  exact (congrArg Except.ok (congrArg Decoded.plain (congrArg Instr.evrdPeek (fieldAt (by omega)))))
theorem send (n : BitVec 6) (a : Reg) (b : Reg) : Statement (.send n a b) := by
  intro cl op xw hp hwf
  obtain ⟨rfl, rfl, hxw⟩ := parts_eq (k := false) (op := 0x14) (x := n.toNat % 32 * 32768 + n.toNat / 32 + a.toNat * 1024 + b.toNat * 32) rfl hp
  have hn := n.isLt
  have ha := a.isLt
  have hb := b.isLt
  obtain ⟨u, v, hs, hu, hv, hy⟩ : ∃ u v, n.toNat = 32 * v + u ∧ u < 32 ∧ v < 2 ∧ xw = u * 32768 + v + a.toNat * 1024 + b.toNat * 32 :=
    ⟨n.toNat % 32, n.toNat / 32, by omega, by omega, by omega, hxw⟩
  clear hxw
  rcases (by omega : v = 0 ∨ v = 1) with rfl | rfl
  all_goals refine ⟨by decide, by omega, finishCM ?_ hwf⟩
  all_goals refine minor_yes (by omega) ?_
  all_goals exact (congrArg Except.ok (congrArg Decoded.plain (congr (congr (congrArg Instr.send (fieldAt (by omega))) (fieldAt (by omega))) (fieldAt (by omega)))))
theorem sendv (n : BitVec 6) (a : Reg) (b : Reg) : Statement (.sendv n a b) := by
  intro cl op xw hp hwf
  obtain ⟨rfl, rfl, hxw⟩ := parts_eq (k := false) (op := 0x15) (x := n.toNat % 32 * 32768 + n.toNat / 32 + a.toNat * 1024 + b.toNat * 32) rfl hp
  have hn := n.isLt
  have ha := a.isLt
  have hb := b.isLt
  obtain ⟨u, v, hs, hu, hv, hy⟩ : ∃ u v, n.toNat = 32 * v + u ∧ u < 32 ∧ v < 2 ∧ xw = u * 32768 + v + a.toNat * 1024 + b.toNat * 32 :=
    ⟨n.toNat % 32, n.toNat / 32, by omega, by omega, by omega, hxw⟩
  clear hxw
  rcases (by omega : v = 0 ∨ v = 1) with rfl | rfl
  all_goals refine ⟨by decide, by omega, finishCM ?_ hwf⟩
  all_goals refine minor_yes (by omega) ?_
  all_goals exact (congrArg Except.ok (congrArg Decoded.plain (congr (congr (congrArg Instr.sendv (fieldAt (by omega))) (fieldAt (by omega))) (fieldAt (by omega)))))
theorem recv (d : Reg) (k : BitVec 12) : Statement (.recv d k) := by
  intro cl op xw hp hwf
  obtain ⟨rfl, rfl, hxw⟩ := parts_eq (k := false) (op := 0x16) (x := d.toNat * 32768 + k.toNat * 8) rfl hp
  have hd := d.isLt
  have hk := k.isLt
  refine ⟨by decide, by omega, finishCM ?_ hwf⟩
  refine minor_yes (by omega) ?_
  exact (congrArg Except.ok (congrArg Decoded.plain (congr (congrArg Instr.recv (fieldAt (by omega))) (fieldAt (by omega)))))
theorem recvv (d : Reg) (k : BitVec 12) : Statement (.recvv d k) := by
  intro cl op xw hp hwf
  obtain ⟨rfl, rfl, hxw⟩ := parts_eq (k := false) (op := 0x17) (x := d.toNat * 32768 + k.toNat * 8) rfl hp
  have hd := d.isLt
  have hk := k.isLt
  refine ⟨by decide, by omega, finishCM ?_ hwf⟩
  refine minor_yes (by omega) ?_
  exact (congrArg Except.ok (congrArg Decoded.plain (congr (congrArg Instr.recvv (fieldAt (by omega))) (fieldAt (by omega)))))
theorem hset (d : Reg) (k : BitVec 12) : Statement (.hset d k) := by
  intro cl op xw hp hwf
  obtain ⟨rfl, rfl, hxw⟩ := parts_eq (k := false) (op := 0x19) (x := d.toNat * 32768 + k.toNat * 8) rfl hp
  have hd := d.isLt
  have hk := k.isLt
  refine ⟨by decide, by omega, finishCM ?_ hwf⟩
  refine minor_yes (by omega) ?_
  exact (congrArg Except.ok (congrArg Decoded.plain (congr (congrArg Instr.hset (fieldAt (by omega))) (fieldAt (by omega)))))
theorem hmaskOn (k : BitVec 12) : Statement (.hmaskOn k) := by
  intro cl op xw hp hwf
  obtain ⟨rfl, rfl, hxw⟩ := parts_eq (k := false) (op := 0x1A) (x := k.toNat * 8) rfl hp
  have hk := k.isLt
  refine ⟨by decide, by omega, finishCM ?_ hwf⟩
  refine minor_yes (by omega) ?_
  refine unless3_yes (by omega) ?_
  exact (congrArg Except.ok (congrArg Decoded.plain (congrArg Instr.hmaskOn (fieldAt (by omega)))))
theorem hmaskOff (k : BitVec 12) : Statement (.hmaskOff k) := by
  intro cl op xw hp hwf
  obtain ⟨rfl, rfl, hxw⟩ := parts_eq (k := false) (op := 0x1A) (x := k.toNat * 8 + 1) rfl hp
  have hk := k.isLt
  refine ⟨by decide, by omega, finishCM ?_ hwf⟩
  have hm : xw % 8 = 1 := by omega
  refine minor_past hm (by decide) ?_
  refine minor_yes hm ?_
  refine unless3_yes (by omega) ?_
  exact (congrArg Except.ok (congrArg Decoded.plain (congrArg Instr.hmaskOff (fieldAt (by omega)))))
theorem ld (d : Reg) (a : Reg) (m : AddrMode) (z : Size) (o : BitVec 6) : Statement (.ld d a m z o) := by
  intro cl op xw hp hwf
  obtain ⟨rfl, rfl, hxw⟩ := parts_eq (k := false) (op := 0x20) (x := d.toNat * 32768 + a.toNat * 1024 + m.code * 256 + z.code * 64 + o.toNat) rfl hp
  have hd := d.isLt
  have ha := a.isLt
  have hm := mode_lt m
  have hz := size_lt z
  have ho := o.isLt
  refine ⟨by decide, by omega, finishCM ?_ hwf⟩
  exact (congrArg Except.ok (congrArg Decoded.plain (congr (congr (congr (congr (congrArg Instr.ld (fieldAt (by omega))) (fieldAt (by omega))) (modeAt (by omega))) (sizeAt (by omega))) (fieldAt (by omega)))))
theorem ldSx (d : Reg) (a : Reg) (m : AddrMode) (z : Size) (o : BitVec 6) : Statement (.ldSx d a m z o) := by
  intro cl op xw hp hwf
  obtain ⟨rfl, rfl, hxw⟩ := parts_eq (k := false) (op := 0x21) (x := d.toNat * 32768 + a.toNat * 1024 + m.code * 256 + z.code * 64 + o.toNat) rfl hp
  have hd := d.isLt
  have ha := a.isLt
  have hm := mode_lt m
  have hz := size_lt z
  have ho := o.isLt
  refine ⟨by decide, by omega, finishCM ?_ hwf⟩
  exact (congrArg Except.ok (congrArg Decoded.plain (congr (congr (congr (congr (congrArg Instr.ldSx (fieldAt (by omega))) (fieldAt (by omega))) (modeAt (by omega))) (sizeAt (by omega))) (fieldAt (by omega)))))
theorem st (d : Reg) (a : Reg) (m : AddrMode) (z : Size) (o : BitVec 6) : Statement (.st d a m z o) := by
  intro cl op xw hp hwf
  obtain ⟨rfl, rfl, hxw⟩ := parts_eq (k := false) (op := 0x22) (x := d.toNat * 32768 + a.toNat * 1024 + m.code * 256 + z.code * 64 + o.toNat) rfl hp
  have hd := d.isLt
  have ha := a.isLt
  have hm := mode_lt m
  have hz := size_lt z
  have ho := o.isLt
  refine ⟨by decide, by omega, finishCM ?_ hwf⟩
  exact (congrArg Except.ok (congrArg Decoded.plain (congr (congr (congr (congr (congrArg Instr.st (fieldAt (by omega))) (fieldAt (by omega))) (modeAt (by omega))) (sizeAt (by omega))) (fieldAt (by omega)))))
theorem vld (d : Reg) (a : Reg) (m : AddrMode) (o : BitVec 6) : Statement (.vld d a m o) := by
  intro cl op xw hp hwf
  obtain ⟨rfl, rfl, hxw⟩ := parts_eq (k := false) (op := 0x23) (x := d.toNat * 32768 + a.toNat * 1024 + m.code * 256 + o.toNat + 192) rfl hp
  have hd := d.isLt
  have ha := a.isLt
  have hm := mode_lt m
  have ho := o.isLt
  refine ⟨by decide, by omega, finishCM ?_ hwf⟩
  refine unless4_yes (by omega) ?_
  exact (congrArg Except.ok (congrArg Decoded.plain (congr (congr (congr (congrArg Instr.vld (fieldAt (by omega))) (fieldAt (by omega))) (modeAt (by omega))) (fieldAt (by omega)))))
theorem vst (d : Reg) (a : Reg) (m : AddrMode) (o : BitVec 6) : Statement (.vst d a m o) := by
  intro cl op xw hp hwf
  obtain ⟨rfl, rfl, hxw⟩ := parts_eq (k := false) (op := 0x24) (x := d.toNat * 32768 + a.toNat * 1024 + m.code * 256 + o.toNat + 192) rfl hp
  have hd := d.isLt
  have ha := a.isLt
  have hm := mode_lt m
  have ho := o.isLt
  refine ⟨by decide, by omega, finishCM ?_ hwf⟩
  refine unless4_yes (by omega) ?_
  exact (congrArg Except.ok (congrArg Decoded.plain (congr (congr (congr (congrArg Instr.vst (fieldAt (by omega))) (fieldAt (by omega))) (modeAt (by omega))) (fieldAt (by omega)))))
theorem vlds (d : Reg) (a : Reg) (b : Reg) (e : Size) (m : AddrMode) : Statement (.vlds d a b e m) := by
  intro cl op xw hp hwf
  obtain ⟨rfl, rfl, hxw⟩ := parts_eq (k := false) (op := 0x25) (x := d.toNat * 32768 + a.toNat * 1024 + b.toNat * 32 + e.code * 4 + m.code) rfl hp
  have hd := d.isLt
  have ha := a.isLt
  have hb := b.isLt
  have he := size_lt e
  have hm := mode_lt m
  refine ⟨by decide, by omega, finishCM ?_ hwf⟩
  refine unless3_yes (by omega) ?_
  exact (congrArg Except.ok (congrArg Decoded.plain (congr (congr (congr (congr (congrArg Instr.vlds (fieldAt (by omega))) (fieldAt (by omega))) (fieldAt (by omega))) (sizeAt (by omega))) (modeAt (by omega)))))
theorem vsts (d : Reg) (a : Reg) (b : Reg) (e : Size) (m : AddrMode) : Statement (.vsts d a b e m) := by
  intro cl op xw hp hwf
  obtain ⟨rfl, rfl, hxw⟩ := parts_eq (k := false) (op := 0x26) (x := d.toNat * 32768 + a.toNat * 1024 + b.toNat * 32 + e.code * 4 + m.code) rfl hp
  have hd := d.isLt
  have ha := a.isLt
  have hb := b.isLt
  have he := size_lt e
  have hm := mode_lt m
  refine ⟨by decide, by omega, finishCM ?_ hwf⟩
  refine unless3_yes (by omega) ?_
  exact (congrArg Except.ok (congrArg Decoded.plain (congr (congr (congr (congr (congrArg Instr.vsts (fieldAt (by omega))) (fieldAt (by omega))) (fieldAt (by omega))) (sizeAt (by omega))) (modeAt (by omega)))))
theorem vldx (d : Reg) (a : Reg) (b : Reg) (e : Size) (m : AddrMode) : Statement (.vldx d a b e m) := by
  intro cl op xw hp hwf
  obtain ⟨rfl, rfl, hxw⟩ := parts_eq (k := false) (op := 0x27) (x := d.toNat * 32768 + a.toNat * 1024 + b.toNat * 32 + e.code * 4 + m.code) rfl hp
  have hd := d.isLt
  have ha := a.isLt
  have hb := b.isLt
  have he := size_lt e
  have hm := mode_lt m
  refine ⟨by decide, by omega, finishCM ?_ hwf⟩
  refine unless3_yes (by omega) ?_
  exact (congrArg Except.ok (congrArg Decoded.plain (congr (congr (congr (congr (congrArg Instr.vldx (fieldAt (by omega))) (fieldAt (by omega))) (fieldAt (by omega))) (sizeAt (by omega))) (modeAt (by omega)))))
theorem vstx (d : Reg) (a : Reg) (b : Reg) (e : Size) (m : AddrMode) : Statement (.vstx d a b e m) := by
  intro cl op xw hp hwf
  obtain ⟨rfl, rfl, hxw⟩ := parts_eq (k := false) (op := 0x28) (x := d.toNat * 32768 + a.toNat * 1024 + b.toNat * 32 + e.code * 4 + m.code) rfl hp
  have hd := d.isLt
  have ha := a.isLt
  have hb := b.isLt
  have he := size_lt e
  have hm := mode_lt m
  refine ⟨by decide, by omega, finishCM ?_ hwf⟩
  refine unless3_yes (by omega) ?_
  exact (congrArg Except.ok (congrArg Decoded.plain (congr (congr (congr (congr (congrArg Instr.vstx (fieldAt (by omega))) (fieldAt (by omega))) (fieldAt (by omega))) (sizeAt (by omega))) (modeAt (by omega)))))
theorem ldfTake (d : Reg) (a : Reg) (o : BitVec 6) : Statement (.ldfTake d a o) := by
  intro cl op xw hp hwf
  obtain ⟨rfl, rfl, hxw⟩ := parts_eq (k := false) (op := 0x29) (x := d.toNat * 32768 + a.toNat * 1024 + o.toNat) rfl hp
  have hd := d.isLt
  have ha := a.isLt
  have ho := o.isLt
  refine ⟨by decide, by omega, finishCM ?_ hwf⟩
  refine unless4_yes (by omega) ?_
  refine if_yes (by omega) ?_
  exact (congrArg Except.ok (congrArg Decoded.plain (congr (congr (congrArg Instr.ldfTake (fieldAt (by omega))) (fieldAt (by omega))) (fieldAt (by omega)))))
theorem ldfKeep (d : Reg) (a : Reg) (o : BitVec 6) : Statement (.ldfKeep d a o) := by
  intro cl op xw hp hwf
  obtain ⟨rfl, rfl, hxw⟩ := parts_eq (k := false) (op := 0x29) (x := d.toNat * 32768 + a.toNat * 1024 + o.toNat + 64) rfl hp
  have hd := d.isLt
  have ha := a.isLt
  have ho := o.isLt
  refine ⟨by decide, by omega, finishCM ?_ hwf⟩
  refine unless4_yes (by omega) ?_
  refine if_no (by omega) ?_
  exact (congrArg Except.ok (congrArg Decoded.plain (congr (congr (congrArg Instr.ldfKeep (fieldAt (by omega))) (fieldAt (by omega))) (fieldAt (by omega)))))
theorem ste (d : Reg) (a : Reg) (m : AddrMode) (o : BitVec 6) : Statement (.ste d a m o) := by
  intro cl op xw hp hwf
  obtain ⟨rfl, rfl, hxw⟩ := parts_eq (k := false) (op := 0x2A) (x := d.toNat * 32768 + a.toNat * 1024 + m.code * 256 + o.toNat + 192) rfl hp
  have hd := d.isLt
  have ha := a.isLt
  have hm := mode_lt m
  have ho := o.isLt
  refine ⟨by decide, by omega, finishCM ?_ hwf⟩
  refine unless4_yes (by omega) ?_
  exact (congrArg Except.ok (congrArg Decoded.plain (congr (congr (congr (congrArg Instr.ste (fieldAt (by omega))) (fieldAt (by omega))) (modeAt (by omega))) (fieldAt (by omega)))))
theorem tags (a : Reg) (b : Reg) : Statement (.tags a b) := by
  intro cl op xw hp hwf
  obtain ⟨rfl, rfl, hxw⟩ := parts_eq (k := false) (op := 0x2B) (x := a.toNat * 1024 + b.toNat * 32) rfl hp
  have ha := a.isLt
  have hb := b.isLt
  refine ⟨by decide, by omega, finishCM ?_ hwf⟩
  refine minor_yes (by omega) ?_
  refine unless3_yes (by omega) ?_
  exact (congrArg Except.ok (congrArg Decoded.plain (congr (congrArg Instr.tags (fieldAt (by omega))) (fieldAt (by omega)))))
theorem tagsV (a : Reg) (b : Reg) : Statement (.tagsV a b) := by
  intro cl op xw hp hwf
  obtain ⟨rfl, rfl, hxw⟩ := parts_eq (k := false) (op := 0x2B) (x := a.toNat * 1024 + b.toNat * 32 + 1) rfl hp
  have ha := a.isLt
  have hb := b.isLt
  refine ⟨by decide, by omega, finishCM ?_ hwf⟩
  have hm : xw % 2 = 1 := by omega
  refine minor_past hm (by decide) ?_
  refine minor_yes hm ?_
  refine unless3_yes (by omega) ?_
  exact (congrArg Except.ok (congrArg Decoded.plain (congr (congrArg Instr.tagsV (fieldAt (by omega))) (fieldAt (by omega)))))
theorem tagr (d : Reg) (a : Reg) : Statement (.tagr d a) := by
  intro cl op xw hp hwf
  obtain ⟨rfl, rfl, hxw⟩ := parts_eq (k := false) (op := 0x2C) (x := d.toNat * 32768 + a.toNat * 1024) rfl hp
  have hd := d.isLt
  have ha := a.isLt
  refine ⟨by decide, by omega, finishCM ?_ hwf⟩
  refine minor_yes (by omega) ?_
  refine unless3_yes (by omega) ?_
  exact (congrArg Except.ok (congrArg Decoded.plain (congr (congrArg Instr.tagr (fieldAt (by omega))) (fieldAt (by omega)))))
theorem tagrV (d : Reg) (a : Reg) : Statement (.tagrV d a) := by
  intro cl op xw hp hwf
  obtain ⟨rfl, rfl, hxw⟩ := parts_eq (k := false) (op := 0x2C) (x := d.toNat * 32768 + a.toNat * 1024 + 1) rfl hp
  have hd := d.isLt
  have ha := a.isLt
  refine ⟨by decide, by omega, finishCM ?_ hwf⟩
  have hm : xw % 2 = 1 := by omega
  refine minor_past hm (by decide) ?_
  refine minor_yes hm ?_
  refine unless3_yes (by omega) ?_
  exact (congrArg Except.ok (congrArg Decoded.plain (congr (congrArg Instr.tagrV (fieldAt (by omega))) (fieldAt (by omega)))))
theorem bread (n : BitVec 6) (a : Reg) (b : Reg) (m : AddrMode) : Statement (.bread n a b m) := by
  intro cl op xw hp hwf
  obtain ⟨rfl, rfl, hxw⟩ := parts_eq (k := false) (op := 0x2D) (x := n.toNat % 32 * 32768 + n.toNat / 32 + a.toNat * 1024 + b.toNat * 32 + m.code * 2) rfl hp
  have hn := n.isLt
  have ha := a.isLt
  have hb := b.isLt
  have hm := mode_lt m
  obtain ⟨u, v, hs, hu, hv, hy⟩ : ∃ u v, n.toNat = 32 * v + u ∧ u < 32 ∧ v < 2 ∧ xw = u * 32768 + v + a.toNat * 1024 + b.toNat * 32 + m.code * 2 :=
    ⟨n.toNat % 32, n.toNat / 32, by omega, by omega, by omega, hxw⟩
  clear hxw
  rcases (by omega : v = 0 ∨ v = 1) with rfl | rfl
  all_goals refine ⟨by decide, by omega, finishCM ?_ hwf⟩
  all_goals refine unless3_yes (by omega) ?_
  all_goals exact (congrArg Except.ok (congrArg Decoded.plain (congr (congr (congr (congrArg Instr.bread (fieldAt (by omega))) (fieldAt (by omega))) (fieldAt (by omega))) (modeAt (by omega)))))
theorem fence (c : Scope) : Statement (.fence c) := by
  intro cl op xw hp hwf
  obtain ⟨rfl, rfl, hxw⟩ := parts_eq (k := false) (op := 0x33) (x := c.code) rfl hp
  have hc := scope_lt c
  refine ⟨by decide, by omega, finishCM ?_ hwf⟩
  have hm : xw / 4 % 2 = 0 := by omega
  refine minor_yes hm ?_
  refine unless3_yes (by omega) ?_
  exact (congrArg Except.ok (congrArg Decoded.plain (congrArg Instr.fence (scopeAt (by omega)))))
theorem rel (c : Scope) : Statement (.rel c) := by
  intro cl op xw hp hwf
  obtain ⟨rfl, rfl, hxw⟩ := parts_eq (k := false) (op := 0x34) (x := c.code) rfl hp
  have hc := scope_lt c
  refine ⟨by decide, by omega, finishCM ?_ hwf⟩
  have hm : xw / 4 % 2 = 0 := by omega
  refine minor_yes hm ?_
  refine unless3_yes (by omega) ?_
  exact (congrArg Except.ok (congrArg Decoded.plain (congrArg Instr.rel (scopeAt (by omega)))))
theorem acq (c : Scope) : Statement (.acq c) := by
  intro cl op xw hp hwf
  obtain ⟨rfl, rfl, hxw⟩ := parts_eq (k := false) (op := 0x35) (x := c.code) rfl hp
  have hc := scope_lt c
  refine ⟨by decide, by omega, finishCM ?_ hwf⟩
  have hm : xw / 4 % 2 = 0 := by omega
  refine minor_yes hm ?_
  refine unless3_yes (by omega) ?_
  exact (congrArg Except.ok (congrArg Decoded.plain (congrArg Instr.acq (scopeAt (by omega)))))
theorem town (n : Reg) : Statement (.town n) := by
  intro cl op xw hp hwf
  obtain ⟨rfl, rfl, hxw⟩ := parts_eq (k := false) (op := 0x38) (x := n.toNat * 1024) rfl hp
  have hn := n.isLt
  refine ⟨by decide, by omega, finishCM ?_ hwf⟩
  refine minor_yes (by omega) ?_
  refine unless3_yes (by omega) ?_
  exact (congrArg Except.ok (congrArg Decoded.plain (congrArg Instr.town (fieldAt (by omega)))))
theorem townKeep (n : Reg) : Statement (.townKeep n) := by
  intro cl op xw hp hwf
  obtain ⟨rfl, rfl, hxw⟩ := parts_eq (k := false) (op := 0x38) (x := n.toNat * 1024 + 1) rfl hp
  have hn := n.isLt
  refine ⟨by decide, by omega, finishCM ?_ hwf⟩
  have hm : xw % 4 = 1 := by omega
  refine minor_past hm (by decide) ?_
  refine minor_yes hm ?_
  refine unless3_yes (by omega) ?_
  exact (congrArg Except.ok (congrArg Decoded.plain (congrArg Instr.townKeep (fieldAt (by omega)))))
theorem tfree (n : Reg) : Statement (.tfree n) := by
  intro cl op xw hp hwf
  obtain ⟨rfl, rfl, hxw⟩ := parts_eq (k := false) (op := 0x39) (x := n.toNat * 1024) rfl hp
  have hn := n.isLt
  refine ⟨by decide, by omega, finishCM ?_ hwf⟩
  refine minor_yes (by omega) ?_
  refine unless3_yes (by omega) ?_
  exact (congrArg Except.ok (congrArg Decoded.plain (congrArg Instr.tfree (fieldAt (by omega)))))
theorem tseek (n : Reg) (i : BitVec 8) : Statement (.tseek n i) := by
  intro cl op xw hp hwf
  obtain ⟨rfl, rfl, hxw⟩ := parts_eq (k := false) (op := 0x3A) (x := n.toNat * 1024 + i.toNat * 4) rfl hp
  have hn := n.isLt
  have hi := i.isLt
  refine ⟨by decide, by omega, finishCM ?_ hwf⟩
  refine minor_yes (by omega) ?_
  refine unless3_yes (by omega) ?_
  exact (congrArg Except.ok (congrArg Decoded.plain (congr (congrArg Instr.tseek (fieldAt (by omega))) (fieldAt (by omega)))))
theorem tseekReg (a : Reg) (n : Reg) : Statement (.tseekReg a n) := by
  intro cl op xw hp hwf
  obtain ⟨rfl, rfl, hxw⟩ := parts_eq (k := false) (op := 0x3A) (x := a.toNat * 32768 + n.toNat * 1024 + 1) rfl hp
  have ha := a.isLt
  have hn := n.isLt
  refine ⟨by decide, by omega, finishCM ?_ hwf⟩
  have hm : xw % 4 = 1 := by omega
  refine minor_past hm (by decide) ?_
  refine minor_yes hm ?_
  refine unless3_yes (by omega) ?_
  exact (congrArg Except.ok (congrArg Decoded.plain (congr (congrArg Instr.tseekReg (fieldAt (by omega))) (fieldAt (by omega)))))
theorem tstep (n : Reg) (i : BitVec 8) : Statement (.tstep n i) := by
  intro cl op xw hp hwf
  obtain ⟨rfl, rfl, hxw⟩ := parts_eq (k := false) (op := 0x3B) (x := n.toNat * 1024 + i.toNat * 4) rfl hp
  have hn := n.isLt
  have hi := i.isLt
  refine ⟨by decide, by omega, finishCM ?_ hwf⟩
  refine minor_yes (by omega) ?_
  refine unless3_yes (by omega) ?_
  exact (congrArg Except.ok (congrArg Decoded.plain (congr (congrArg Instr.tstep (fieldAt (by omega))) (fieldAt (by omega)))))
theorem tstepReg (a : Reg) (n : Reg) : Statement (.tstepReg a n) := by
  intro cl op xw hp hwf
  obtain ⟨rfl, rfl, hxw⟩ := parts_eq (k := false) (op := 0x3B) (x := a.toNat * 32768 + n.toNat * 1024 + 1) rfl hp
  have ha := a.isLt
  have hn := n.isLt
  refine ⟨by decide, by omega, finishCM ?_ hwf⟩
  have hm : xw % 4 = 1 := by omega
  refine minor_past hm (by decide) ?_
  refine minor_yes hm ?_
  refine unless3_yes (by omega) ?_
  exact (congrArg Except.ok (congrArg Decoded.plain (congr (congrArg Instr.tstepReg (fieldAt (by omega))) (fieldAt (by omega)))))
theorem trew (n : Reg) : Statement (.trew n) := by
  intro cl op xw hp hwf
  obtain ⟨rfl, rfl, hxw⟩ := parts_eq (k := false) (op := 0x3C) (x := n.toNat * 1024) rfl hp
  have hn := n.isLt
  refine ⟨by decide, by omega, finishCM ?_ hwf⟩
  refine minor_yes (by omega) ?_
  refine unless3_yes (by omega) ?_
  exact (congrArg Except.ok (congrArg Decoded.plain (congrArg Instr.trew (fieldAt (by omega)))))
theorem trd (d : Reg) (n : Reg) (p : Bool) : Statement (.trd d n p) := by
  intro cl op xw hp hwf
  obtain ⟨rfl, rfl, hxw⟩ := parts_eq (k := false) (op := 0x3D) (x := d.toNat * 32768 + n.toNat * 1024 + (if p then 1 else 0)) rfl hp
  have hd := d.isLt
  have hn := n.isLt
  have hp := bit_lt p
  refine ⟨by decide, by omega, finishCM ?_ hwf⟩
  refine minor_yes (by omega) ?_
  refine unless3_yes (by omega) ?_
  exact (congrArg Except.ok (congrArg Decoded.plain (congr (congr (congrArg Instr.trd (fieldAt (by omega))) (fieldAt (by omega))) (bitAt (by omega)))))
theorem trds (d : Reg) (n : Reg) (i : BitVec 8) (p : Bool) : Statement (.trds d n i p) := by
  intro cl op xw hp hwf
  obtain ⟨rfl, rfl, hxw⟩ := parts_eq (k := false) (op := 0x3E) (x := d.toNat * 32768 + n.toNat * 1024 + i.toNat * 4 + (if p then 1 else 0)) rfl hp
  have hd := d.isLt
  have hn := n.isLt
  have hi := i.isLt
  have hp := bit_lt p
  refine ⟨by decide, by omega, finishCM ?_ hwf⟩
  refine minor_yes (by omega) ?_
  exact (congrArg Except.ok (congrArg Decoded.plain (congr (congr (congr (congrArg Instr.trds (fieldAt (by omega))) (fieldAt (by omega))) (fieldAt (by omega))) (bitAt (by omega)))))
theorem twr (d : Reg) (n : Reg) (p : Bool) : Statement (.twr d n p) := by
  intro cl op xw hp hwf
  obtain ⟨rfl, rfl, hxw⟩ := parts_eq (k := false) (op := 0x3F) (x := d.toNat * 32768 + n.toNat * 1024 + (if p then 1 else 0)) rfl hp
  have hd := d.isLt
  have hn := n.isLt
  have hp := bit_lt p
  refine ⟨by decide, by omega, finishCM ?_ hwf⟩
  refine minor_yes (by omega) ?_
  refine unless3_yes (by omega) ?_
  exact (congrArg Except.ok (congrArg Decoded.plain (congr (congr (congrArg Instr.twr (fieldAt (by omega))) (fieldAt (by omega))) (bitAt (by omega)))))
theorem twrs (d : Reg) (n : Reg) (i : BitVec 8) (p : Bool) : Statement (.twrs d n i p) := by
  intro cl op xw hp hwf
  obtain ⟨rfl, rfl, hxw⟩ := parts_eq (k := false) (op := 0x40) (x := d.toNat * 32768 + n.toNat * 1024 + i.toNat * 4 + (if p then 1 else 0)) rfl hp
  have hd := d.isLt
  have hn := n.isLt
  have hi := i.isLt
  have hp := bit_lt p
  refine ⟨by decide, by omega, finishCM ?_ hwf⟩
  refine minor_yes (by omega) ?_
  exact (congrArg Except.ok (congrArg Decoded.plain (congr (congr (congr (congrArg Instr.twrs (fieldAt (by omega))) (fieldAt (by omega))) (fieldAt (by omega))) (bitAt (by omega)))))
theorem twait (n : Reg) : Statement (.twait n) := by
  intro cl op xw hp hwf
  obtain ⟨rfl, rfl, hxw⟩ := parts_eq (k := false) (op := 0x41) (x := n.toNat * 1024) rfl hp
  have hn := n.isLt
  refine ⟨by decide, by omega, finishCM ?_ hwf⟩
  refine minor_yes (by omega) ?_
  refine unless3_yes (by omega) ?_
  exact (congrArg Except.ok (congrArg Decoded.plain (congrArg Instr.twait (fieldAt (by omega)))))
theorem thead (d : Reg) (n : Reg) : Statement (.thead d n) := by
  intro cl op xw hp hwf
  obtain ⟨rfl, rfl, hxw⟩ := parts_eq (k := false) (op := 0x42) (x := d.toNat * 32768 + n.toNat * 1024) rfl hp
  have hd := d.isLt
  have hn := n.isLt
  refine ⟨by decide, by omega, finishCM ?_ hwf⟩
  refine minor_yes (by omega) ?_
  refine unless3_yes (by omega) ?_
  exact (congrArg Except.ok (congrArg Decoded.plain (congr (congrArg Instr.thead (fieldAt (by omega))) (fieldAt (by omega)))))
theorem talign (n : Reg) : Statement (.talign n) := by
  intro cl op xw hp hwf
  obtain ⟨rfl, rfl, hxw⟩ := parts_eq (k := false) (op := 0x43) (x := n.toNat * 1024) rfl hp
  have hn := n.isLt
  refine ⟨by decide, by omega, finishCM ?_ hwf⟩
  refine minor_yes (by omega) ?_
  refine unless3_yes (by omega) ?_
  exact (congrArg Except.ok (congrArg Decoded.plain (congrArg Instr.talign (fieldAt (by omega)))))
theorem tshare (n : Reg) : Statement (.tshare n) := by
  intro cl op xw hp hwf
  obtain ⟨rfl, rfl, hxw⟩ := parts_eq (k := false) (op := 0x44) (x := n.toNat * 1024) rfl hp
  have hn := n.isLt
  refine ⟨by decide, by omega, finishCM ?_ hwf⟩
  refine minor_yes (by omega) ?_
  refine unless3_yes (by omega) ?_
  exact (congrArg Except.ok (congrArg Decoded.plain (congrArg Instr.tshare (fieldAt (by omega)))))
theorem tshareOff (n : Reg) : Statement (.tshareOff n) := by
  intro cl op xw hp hwf
  obtain ⟨rfl, rfl, hxw⟩ := parts_eq (k := false) (op := 0x44) (x := n.toNat * 1024 + 1) rfl hp
  have hn := n.isLt
  refine ⟨by decide, by omega, finishCM ?_ hwf⟩
  have hm : xw % 4 = 1 := by omega
  refine minor_past hm (by decide) ?_
  refine minor_yes hm ?_
  refine unless3_yes (by omega) ?_
  exact (congrArg Except.ok (congrArg Decoded.plain (congrArg Instr.tshareOff (fieldAt (by omega)))))
theorem invoke (d : Reg) (a : Reg) (b : Reg) (v : BitVec 2) : Statement (.invoke d a b v) := by
  intro cl op xw hp hwf
  obtain ⟨rfl, rfl, hxw⟩ := parts_eq (k := false) (op := 0x49) (x := d.toNat * 32768 + a.toNat * 1024 + b.toNat * 32 + v.toNat) rfl hp
  have hd := d.isLt
  have ha := a.isLt
  have hb := b.isLt
  have hv := v.isLt
  refine ⟨by decide, by omega, finishCM ?_ hwf⟩
  refine minor_yes (by omega) ?_
  exact (congrArg Except.ok (congrArg Decoded.plain (congr (congr (congr (congrArg Instr.invoke (fieldAt (by omega))) (fieldAt (by omega))) (fieldAt (by omega))) (fieldAt (by omega)))))
theorem invokeRetry (d : Reg) (a : Reg) (b : Reg) (v : BitVec 2) : Statement (.invokeRetry d a b v) := by
  intro cl op xw hp hwf
  obtain ⟨rfl, rfl, hxw⟩ := parts_eq (k := false) (op := 0x49) (x := d.toNat * 32768 + a.toNat * 1024 + b.toNat * 32 + v.toNat + 4) rfl hp
  have hd := d.isLt
  have ha := a.isLt
  have hb := b.isLt
  have hv := v.isLt
  refine ⟨by decide, by omega, finishCM ?_ hwf⟩
  have hm : xw / 4 % 8 = 1 := by omega
  refine minor_past hm (by decide) ?_
  refine minor_yes hm ?_
  exact (congrArg Except.ok (congrArg Decoded.plain (congr (congr (congr (congrArg Instr.invokeRetry (fieldAt (by omega))) (fieldAt (by omega))) (fieldAt (by omega))) (fieldAt (by omega)))))
theorem hgrant (a : Reg) : Statement (.hgrant a) := by
  intro cl op xw hp hwf
  obtain ⟨rfl, rfl, hxw⟩ := parts_eq (k := false) (op := 0x4B) (x := a.toNat * 1024) rfl hp
  have ha := a.isLt
  refine ⟨by decide, by omega, finishCM ?_ hwf⟩
  refine minor_yes (by omega) ?_
  refine unless3_yes (by omega) ?_
  exact (congrArg Except.ok (congrArg Decoded.plain (congrArg Instr.hgrant (fieldAt (by omega)))))
theorem qw (d : Reg) : Statement (.qw d) := by
  intro cl op xw hp hwf
  obtain ⟨rfl, rfl, hxw⟩ := parts_eq (k := false) (op := 0x50) (x := d.toNat * 32768) rfl hp
  have hd := d.isLt
  refine ⟨by decide, by omega, finishCM ?_ hwf⟩
  refine minor_yes (by omega) ?_
  refine unless3_yes (by omega) ?_
  refine unless4_yes (by omega) ?_
  exact (congrArg Except.ok (congrArg Decoded.plain (congrArg Instr.qw (fieldAt (by omega)))))
theorem qwv (d : Reg) (c : Reg) : Statement (.qwv d c) := by
  intro cl op xw hp hwf
  obtain ⟨rfl, rfl, hxw⟩ := parts_eq (k := false) (op := 0x51) (x := d.toNat * 32768 + c.toNat * 4 + 1024) rfl hp
  have hd := d.isLt
  have hc := c.isLt
  refine ⟨by decide, by omega, finishCM ?_ hwf⟩
  refine minor_yes (by omega) ?_
  refine unless3_yes (by omega) ?_
  refine unless4_yes (by omega) ?_
  exact (congrArg Except.ok (congrArg Decoded.plain (congr (congrArg Instr.qwv (fieldAt (by omega))) (fieldAt (by omega)))))
theorem qr (d : Reg) : Statement (.qr d) := by
  intro cl op xw hp hwf
  obtain ⟨rfl, rfl, hxw⟩ := parts_eq (k := false) (op := 0x52) (x := d.toNat * 32768 + 3072) rfl hp
  have hd := d.isLt
  refine ⟨by decide, by omega, finishCM ?_ hwf⟩
  refine minor_yes (by omega) ?_
  refine unless3_yes (by omega) ?_
  refine unless4_yes (by omega) ?_
  exact (congrArg Except.ok (congrArg Decoded.plain (congrArg Instr.qr (fieldAt (by omega)))))
theorem qrv (d : Reg) : Statement (.qrv d) := by
  intro cl op xw hp hwf
  obtain ⟨rfl, rfl, hxw⟩ := parts_eq (k := false) (op := 0x53) (x := d.toNat * 32768 + 2048) rfl hp
  have hd := d.isLt
  refine ⟨by decide, by omega, finishCM ?_ hwf⟩
  refine minor_yes (by omega) ?_
  refine unless3_yes (by omega) ?_
  refine unless4_yes (by omega) ?_
  exact (congrArg Except.ok (congrArg Decoded.plain (congrArg Instr.qrv (fieldAt (by omega)))))
theorem qst (d : Reg) (n : Reg) : Statement (.qst d n) := by
  intro cl op xw hp hwf
  obtain ⟨rfl, rfl, hxw⟩ := parts_eq (k := false) (op := 0x54) (x := d.toNat * 32768 + n.toNat * 1024) rfl hp
  have hd := d.isLt
  have hn := n.isLt
  refine ⟨by decide, by omega, finishCM ?_ hwf⟩
  refine minor_yes (by omega) ?_
  refine unless3_yes (by omega) ?_
  exact (congrArg Except.ok (congrArg Decoded.plain (congr (congrArg Instr.qst (fieldAt (by omega))) (fieldAt (by omega)))))
theorem mlease (d : Reg) (n : Reg) (i : BitVec 8) : Statement (.mlease d n i) := by
  intro cl op xw hp hwf
  obtain ⟨rfl, rfl, hxw⟩ := parts_eq (k := false) (op := 0x55) (x := d.toNat * 32768 + n.toNat * 1024 + i.toNat * 4) rfl hp
  have hd := d.isLt
  have hn := n.isLt
  have hi := i.isLt
  refine ⟨by decide, by omega, finishCM ?_ hwf⟩
  refine minor_yes (by omega) ?_
  exact (congrArg Except.ok (congrArg Decoded.plain (congr (congr (congrArg Instr.mlease (fieldAt (by omega))) (fieldAt (by omega))) (fieldAt (by omega)))))
theorem mfree (n : Reg) : Statement (.mfree n) := by
  intro cl op xw hp hwf
  obtain ⟨rfl, rfl, hxw⟩ := parts_eq (k := false) (op := 0x56) (x := n.toNat * 1024) rfl hp
  have hn := n.isLt
  refine ⟨by decide, by omega, finishCM ?_ hwf⟩
  refine minor_yes (by omega) ?_
  refine unless3_yes (by omega) ?_
  exact (congrArg Except.ok (congrArg Decoded.plain (congrArg Instr.mfree (fieldAt (by omega)))))
theorem mma (d : Reg) (a : BitVec 4) (b : BitVec 4) : Statement (.mma d a b) := by
  intro cl op xw hp hwf
  obtain ⟨rfl, rfl, hxw⟩ := parts_eq (k := false) (op := 0x57) (x := d.toNat * 32768 + a.toNat * 128 + b.toNat * 8) rfl hp
  have hd := d.isLt
  have ha := a.isLt
  have hb := b.isLt
  refine ⟨by decide, by omega, finishCM ?_ hwf⟩
  have hab : mmaPair a.toNat b.toNat = true := by simpa [Instr.wellFormed, Instr.rangeOk, Instr.codesOk] using hwf
  refine minor_yes ⟨by omega, by omega, ?_⟩ ?_
  · rw [show xw / 128 % 16 = a.toNat by omega, show xw / 8 % 16 = b.toNat by omega]; exact hab
  exact (congrArg Except.ok (congrArg Decoded.plain (congr (congr (congrArg Instr.mma (fieldAt (by omega))) (fieldAt (by omega))) (fieldAt (by omega)))))
theorem xld (a : Reg) : Statement (.xld a) := by
  intro cl op xw hp hwf
  obtain ⟨rfl, rfl, hxw⟩ := parts_eq (k := false) (op := 0x60) (x := a.toNat * 1024) rfl hp
  have ha := a.isLt
  refine ⟨by decide, by omega, finishCM ?_ hwf⟩
  refine minor_yes (by omega) ?_
  refine unless3_yes (by omega) ?_
  exact (congrArg Except.ok (congrArg Decoded.plain (congrArg Instr.xld (fieldAt (by omega)))))
theorem xwait (d : Reg) (a : Reg) : Statement (.xwait d a) := by
  intro cl op xw hp hwf
  obtain ⟨rfl, rfl, hxw⟩ := parts_eq (k := false) (op := 0x61) (x := d.toNat * 32768 + a.toNat * 1024) rfl hp
  have hd := d.isLt
  have ha := a.isLt
  refine ⟨by decide, by omega, finishCM ?_ hwf⟩
  refine minor_yes (by omega) ?_
  refine unless3_yes (by omega) ?_
  exact (congrArg Except.ok (congrArg Decoded.plain (congr (congrArg Instr.xwait (fieldAt (by omega))) (fieldAt (by omega)))))
theorem xcan (a : Reg) : Statement (.xcan a) := by
  intro cl op xw hp hwf
  obtain ⟨rfl, rfl, hxw⟩ := parts_eq (k := false) (op := 0x62) (x := a.toNat * 1024) rfl hp
  have ha := a.isLt
  refine ⟨by decide, by omega, finishCM ?_ hwf⟩
  refine minor_yes (by omega) ?_
  refine unless3_yes (by omega) ?_
  exact (congrArg Except.ok (congrArg Decoded.plain (congrArg Instr.xcan (fieldAt (by omega)))))
theorem xst (a : Reg) : Statement (.xst a) := by
  intro cl op xw hp hwf
  obtain ⟨rfl, rfl, hxw⟩ := parts_eq (k := false) (op := 0x63) (x := a.toNat * 1024) rfl hp
  have ha := a.isLt
  refine ⟨by decide, by omega, finishCM ?_ hwf⟩
  refine minor_yes (by omega) ?_
  refine unless3_yes (by omega) ?_
  exact (congrArg Except.ok (congrArg Decoded.plain (congrArg Instr.xst (fieldAt (by omega)))))
theorem bars (i : BitVec 8) : Statement (.bars i) := by
  intro cl op xw hp hwf
  obtain ⟨rfl, rfl, hxw⟩ := parts_eq (k := false) (op := 0x68) (x := i.toNat * 4) rfl hp
  have hi := i.isLt
  refine ⟨by decide, by omega, finishCM ?_ hwf⟩
  refine minor_yes (by omega) ?_
  refine unless3_yes (by omega) ?_
  exact (congrArg Except.ok (congrArg Decoded.plain (congrArg Instr.bars (fieldAt (by omega)))))
theorem barw (i : BitVec 8) : Statement (.barw i) := by
  intro cl op xw hp hwf
  obtain ⟨rfl, rfl, hxw⟩ := parts_eq (k := false) (op := 0x69) (x := i.toNat * 4) rfl hp
  have hi := i.isLt
  refine ⟨by decide, by omega, finishCM ?_ hwf⟩
  refine minor_yes (by omega) ?_
  refine unless3_yes (by omega) ?_
  exact (congrArg Except.ok (congrArg Decoded.plain (congrArg Instr.barw (fieldAt (by omega)))))
theorem bari (a : Reg) (i : BitVec 8) : Statement (.bari a i) := by
  intro cl op xw hp hwf
  obtain ⟨rfl, rfl, hxw⟩ := parts_eq (k := false) (op := 0x6A) (x := a.toNat * 32768 + i.toNat * 4) rfl hp
  have ha := a.isLt
  have hi := i.isLt
  refine ⟨by decide, by omega, finishCM ?_ hwf⟩
  refine minor_yes (by omega) ?_
  refine unless3_yes (by omega) ?_
  exact (congrArg Except.ok (congrArg Decoded.plain (congr (congrArg Instr.bari (fieldAt (by omega))) (fieldAt (by omega)))))
theorem specq (d : Reg) (i : BitVec 8) : Statement (.specq d i) := by
  intro cl op xw hp hwf
  obtain ⟨rfl, rfl, hxw⟩ := parts_eq (k := false) (op := 0x6B) (x := d.toNat * 32768 + i.toNat * 4) rfl hp
  have hd := d.isLt
  have hi := i.isLt
  refine ⟨by decide, by omega, finishCM ?_ hwf⟩
  refine minor_yes (by omega) ?_
  refine unless3_yes (by omega) ?_
  exact (congrArg Except.ok (congrArg Decoded.plain (congr (congrArg Instr.specq (fieldAt (by omega))) (fieldAt (by omega)))))
theorem specqSelf (d : Reg) : Statement (.specqSelf d) := by
  intro cl op xw hp hwf
  obtain ⟨rfl, rfl, hxw⟩ := parts_eq (k := false) (op := 0x6B) (x := d.toNat * 32768 + 1) rfl hp
  have hd := d.isLt
  refine ⟨by decide, by omega, finishCM ?_ hwf⟩
  have hm : xw % 4 = 1 := by omega
  refine minor_past hm (by decide) ?_
  refine minor_yes hm ?_
  refine unless3_yes (by omega) ?_
  exact (congrArg Except.ok (congrArg Decoded.plain (congrArg Instr.specqSelf (fieldAt (by omega)))))
theorem tsnow (d : Reg) : Statement (.tsnow d) := by
  intro cl op xw hp hwf
  obtain ⟨rfl, rfl, hxw⟩ := parts_eq (k := false) (op := 0x6D) (x := d.toNat * 32768) rfl hp
  have hd := d.isLt
  refine ⟨by decide, by omega, finishCM ?_ hwf⟩
  refine minor_yes (by omega) ?_
  refine unless3_yes (by omega) ?_
  exact (congrArg Except.ok (congrArg Decoded.plain (congrArg Instr.tsnow (fieldAt (by omega)))))
theorem tsnowHz (d : Reg) : Statement (.tsnowHz d) := by
  intro cl op xw hp hwf
  obtain ⟨rfl, rfl, hxw⟩ := parts_eq (k := false) (op := 0x6D) (x := d.toNat * 32768 + 1) rfl hp
  have hd := d.isLt
  refine ⟨by decide, by omega, finishCM ?_ hwf⟩
  have hm : xw % 32 = 1 := by omega
  refine minor_past hm (by decide) ?_
  refine minor_yes hm ?_
  refine unless3_yes (by omega) ?_
  exact (congrArg Except.ok (congrArg Decoded.plain (congrArg Instr.tsnowHz (fieldAt (by omega)))))
theorem mtc (d : Reg) (k : BitVec 12) : Statement (.mtc d k) := by
  intro cl op xw hp hwf
  obtain ⟨rfl, rfl, hxw⟩ := parts_eq (k := false) (op := 0x70) (x := d.toNat * 32768 + k.toNat * 8) rfl hp
  have hd := d.isLt
  have hk := k.isLt
  refine ⟨by decide, by omega, finishCM ?_ hwf⟩
  refine minor_yes (by omega) ?_
  exact (congrArg Except.ok (congrArg Decoded.plain (congr (congrArg Instr.mtc (fieldAt (by omega))) (fieldAt (by omega)))))
theorem mfc (d : Reg) (k : BitVec 12) : Statement (.mfc d k) := by
  intro cl op xw hp hwf
  obtain ⟨rfl, rfl, hxw⟩ := parts_eq (k := false) (op := 0x71) (x := d.toNat * 32768 + k.toNat * 8) rfl hp
  have hd := d.isLt
  have hk := k.isLt
  refine ⟨by decide, by omega, finishCM ?_ hwf⟩
  refine minor_yes (by omega) ?_
  have hk10 : k.toNat ≠ 10 := by simp [Instr.wellFormed, Instr.rangeOk, Instr.codesOk] at hwf; exact hwf.2
  refine if_no (by omega) ?_
  exact (congrArg Except.ok (congrArg Decoded.plain (congr (congrArg Instr.mfc (fieldAt (by omega))) (fieldAt (by omega)))))
theorem xgo (d : Reg) : Statement (.xgo d) := by
  intro cl op xw hp hwf
  obtain ⟨rfl, rfl, hxw⟩ := parts_eq (k := false) (op := 0x71) (x := d.toNat * 32768 + 80) rfl hp
  have hd := d.isLt
  refine ⟨by decide, by omega, finishCM ?_ hwf⟩
  refine minor_yes (by omega) ?_
  refine if_yes (by omega) ?_
  exact (congrArg Except.ok (congrArg Decoded.plain (congrArg Instr.xgo (fieldAt (by omega)))))
theorem setwp (a : Reg) : Statement (.setwp a) := by
  intro cl op xw hp hwf
  obtain ⟨rfl, rfl, hxw⟩ := parts_eq (k := false) (op := 0x72) (x := a.toNat * 32768) rfl hp
  have ha := a.isLt
  refine ⟨by decide, by omega, finishCM ?_ hwf⟩
  refine minor_yes (by omega) ?_
  refine unless3_yes (by omega) ?_
  exact (congrArg Except.ok (congrArg Decoded.plain (congrArg Instr.setwp (fieldAt (by omega)))))
theorem csave (a : Reg) (k : BitVec 12) : Statement (.csave a k) := by
  intro cl op xw hp hwf
  obtain ⟨rfl, rfl, hxw⟩ := parts_eq (k := false) (op := 0x73) (x := a.toNat * 32768 + k.toNat * 8) rfl hp
  have ha := a.isLt
  have hk := k.isLt
  refine ⟨by decide, by omega, finishCM ?_ hwf⟩
  refine minor_yes (by omega) ?_
  exact (congrArg Except.ok (congrArg Decoded.plain (congr (congrArg Instr.csave (fieldAt (by omega))) (fieldAt (by omega)))))
theorem crest (a : Reg) (k : BitVec 12) : Statement (.crest a k) := by
  intro cl op xw hp hwf
  obtain ⟨rfl, rfl, hxw⟩ := parts_eq (k := false) (op := 0x74) (x := a.toNat * 32768 + k.toNat * 8) rfl hp
  have ha := a.isLt
  have hk := k.isLt
  refine ⟨by decide, by omega, finishCM ?_ hwf⟩
  refine minor_yes (by omega) ?_
  exact (congrArg Except.ok (congrArg Decoded.plain (congr (congrArg Instr.crest (fieldAt (by omega))) (fieldAt (by omega)))))
theorem ctxkStop (k : BitVec 12) : Statement (.ctxkStop k) := by
  intro cl op xw hp hwf
  obtain ⟨rfl, rfl, hxw⟩ := parts_eq (k := false) (op := 0x75) (x := k.toNat * 8) rfl hp
  have hk := k.isLt
  refine ⟨by decide, by omega, finishCM ?_ hwf⟩
  refine minor_yes (by omega) ?_
  refine unless3_yes (by omega) ?_
  exact (congrArg Except.ok (congrArg Decoded.plain (congrArg Instr.ctxkStop (fieldAt (by omega)))))
theorem ctxkGo (k : BitVec 12) : Statement (.ctxkGo k) := by
  intro cl op xw hp hwf
  obtain ⟨rfl, rfl, hxw⟩ := parts_eq (k := false) (op := 0x75) (x := k.toNat * 8 + 1) rfl hp
  have hk := k.isLt
  refine ⟨by decide, by omega, finishCM ?_ hwf⟩
  have hm : xw % 8 = 1 := by omega
  refine minor_past hm (by decide) ?_
  refine minor_yes hm ?_
  refine unless3_yes (by omega) ?_
  exact (congrArg Except.ok (congrArg Decoded.plain (congrArg Instr.ctxkGo (fieldAt (by omega)))))
theorem ctxkKill (k : BitVec 12) : Statement (.ctxkKill k) := by
  intro cl op xw hp hwf
  obtain ⟨rfl, rfl, hxw⟩ := parts_eq (k := false) (op := 0x75) (x := k.toNat * 8 + 2) rfl hp
  have hk := k.isLt
  refine ⟨by decide, by omega, finishCM ?_ hwf⟩
  have hm : xw % 8 = 2 := by omega
  refine minor_past hm (by decide) ?_
  refine minor_past hm (by decide) ?_
  refine minor_yes hm ?_
  refine unless3_yes (by omega) ?_
  exact (congrArg Except.ok (congrArg Decoded.plain (congrArg Instr.ctxkKill (fieldAt (by omega)))))
theorem halt (c : Reg) : Statement (.halt c) := by
  intro cl op xw hp hwf
  obtain ⟨rfl, rfl, hxw⟩ := parts_eq (k := false) (op := 0x77) (x := c.toNat * 32768) rfl hp
  have hc := c.isLt
  refine ⟨by decide, by omega, finishCM ?_ hwf⟩
  refine minor_yes (by omega) ?_
  refine unless3_yes (by omega) ?_
  exact (congrArg Except.ok (congrArg Decoded.plain (congrArg Instr.halt (fieldAt (by omega)))))
theorem haltBounce (c : Reg) : Statement (.haltBounce c) := by
  intro cl op xw hp hwf
  obtain ⟨rfl, rfl, hxw⟩ := parts_eq (k := false) (op := 0x77) (x := c.toNat * 32768 + 1) rfl hp
  have hc := c.isLt
  refine ⟨by decide, by omega, finishCM ?_ hwf⟩
  have hm : xw % 8 = 1 := by omega
  refine minor_past hm (by decide) ?_
  refine minor_yes hm ?_
  refine unless3_yes (by omega) ?_
  exact (congrArg Except.ok (congrArg Decoded.plain (congrArg Instr.haltBounce (fieldAt (by omega)))))
theorem haltOff (c : Reg) : Statement (.haltOff c) := by
  intro cl op xw hp hwf
  obtain ⟨rfl, rfl, hxw⟩ := parts_eq (k := false) (op := 0x77) (x := c.toNat * 32768 + 2) rfl hp
  have hc := c.isLt
  refine ⟨by decide, by omega, finishCM ?_ hwf⟩
  have hm : xw % 8 = 2 := by omega
  refine minor_past hm (by decide) ?_
  refine minor_past hm (by decide) ?_
  refine minor_yes hm ?_
  refine unless3_yes (by omega) ?_
  exact (congrArg Except.ok (congrArg Decoded.plain (congrArg Instr.haltOff (fieldAt (by omega)))))
theorem scan (d : Reg) : Statement (.scan d) := by
  intro cl op xw hp hwf
  obtain ⟨rfl, rfl, hxw⟩ := parts_eq (k := false) (op := 0x78) (x := d.toNat * 32768) rfl hp
  have hd := d.isLt
  refine ⟨by decide, by omega, finishCM ?_ hwf⟩
  refine minor_yes (by omega) ?_
  refine unless3_yes (by omega) ?_
  exact (congrArg Except.ok (congrArg Decoded.plain (congrArg Instr.scan (fieldAt (by omega)))))
theorem cmap (a : Reg) : Statement (.cmap a) := by
  intro cl op xw hp hwf
  obtain ⟨rfl, rfl, hxw⟩ := parts_eq (k := false) (op := 0x79) (x := a.toNat * 32768) rfl hp
  have ha := a.isLt
  refine ⟨by decide, by omega, finishCM ?_ hwf⟩
  refine minor_yes (by omega) ?_
  refine unless3_yes (by omega) ?_
  exact (congrArg Except.ok (congrArg Decoded.plain (congrArg Instr.cmap (fieldAt (by omega)))))
theorem stinvPage (a : Reg) (k : BitVec 12) : Statement (.stinvPage a k) := by
  intro cl op xw hp hwf
  obtain ⟨rfl, rfl, hxw⟩ := parts_eq (k := false) (op := 0x7A) (x := a.toNat * 32768 + k.toNat * 8) rfl hp
  have ha := a.isLt
  have hk := k.isLt
  refine ⟨by decide, by omega, finishCM ?_ hwf⟩
  refine minor_yes (by omega) ?_
  exact (congrArg Except.ok (congrArg Decoded.plain (congr (congrArg Instr.stinvPage (fieldAt (by omega))) (fieldAt (by omega)))))
theorem stinvPid (a : Reg) (k : BitVec 12) : Statement (.stinvPid a k) := by
  intro cl op xw hp hwf
  obtain ⟨rfl, rfl, hxw⟩ := parts_eq (k := false) (op := 0x7A) (x := a.toNat * 32768 + k.toNat * 8 + 1) rfl hp
  have ha := a.isLt
  have hk := k.isLt
  refine ⟨by decide, by omega, finishCM ?_ hwf⟩
  have hm : xw % 8 = 1 := by omega
  refine minor_past hm (by decide) ?_
  refine minor_yes hm ?_
  exact (congrArg Except.ok (congrArg Decoded.plain (congr (congrArg Instr.stinvPid (fieldAt (by omega))) (fieldAt (by omega)))))
theorem stinvAll (k : BitVec 12) : Statement (.stinvAll k) := by
  intro cl op xw hp hwf
  obtain ⟨rfl, rfl, hxw⟩ := parts_eq (k := false) (op := 0x7A) (x := k.toNat * 8 + 2) rfl hp
  have hk := k.isLt
  refine ⟨by decide, by omega, finishCM ?_ hwf⟩
  have hm : xw % 8 = 2 := by omega
  refine minor_past hm (by decide) ?_
  refine minor_past hm (by decide) ?_
  refine minor_yes hm ?_
  refine unless3_yes (by omega) ?_
  exact (congrArg Except.ok (congrArg Decoded.plain (congrArg Instr.stinvAll (fieldAt (by omega)))))
theorem keyld (a : Reg) (k : BitVec 12) : Statement (.keyld a k) := by
  intro cl op xw hp hwf
  obtain ⟨rfl, rfl, hxw⟩ := parts_eq (k := false) (op := 0x7B) (x := a.toNat * 32768 + k.toNat * 8) rfl hp
  have ha := a.isLt
  have hk := k.isLt
  refine ⟨by decide, by omega, finishCM ?_ hwf⟩
  refine minor_yes (by omega) ?_
  exact (congrArg Except.ok (congrArg Decoded.plain (congr (congrArg Instr.keyld (fieldAt (by omega))) (fieldAt (by omega)))))
theorem keyldClr (k : BitVec 12) : Statement (.keyldClr k) := by
  intro cl op xw hp hwf
  obtain ⟨rfl, rfl, hxw⟩ := parts_eq (k := false) (op := 0x7B) (x := k.toNat * 8 + 1) rfl hp
  have hk := k.isLt
  refine ⟨by decide, by omega, finishCM ?_ hwf⟩
  have hm : xw % 8 = 1 := by omega
  refine minor_past hm (by decide) ?_
  refine minor_yes hm ?_
  refine unless3_yes (by omega) ?_
  exact (congrArg Except.ok (congrArg Decoded.plain (congrArg Instr.keyldClr (fieldAt (by omega)))))
theorem perfqSum (d : Reg) (c : BitVec 2) (e : BitVec 6) : Statement (.perfqSum d c e) := by
  intro cl op xw hp hwf
  obtain ⟨rfl, rfl, hxw⟩ := parts_eq (k := false) (op := 0x7C) (x := d.toNat * 32768 + c.toNat * 512 + e.toNat * 8) rfl hp
  have hd := d.isLt
  have hc := c.isLt
  have he := e.isLt
  refine ⟨by decide, by omega, finishCM ?_ hwf⟩
  refine minor_yes (by omega) ?_
  refine unless4_yes (by omega) ?_
  exact (congrArg Except.ok (congrArg Decoded.plain (congr (congr (congrArg Instr.perfqSum (fieldAt (by omega))) (fieldAt (by omega))) (fieldAt (by omega)))))
theorem perfqMin (d : Reg) (c : BitVec 2) (e : BitVec 6) : Statement (.perfqMin d c e) := by
  intro cl op xw hp hwf
  obtain ⟨rfl, rfl, hxw⟩ := parts_eq (k := false) (op := 0x7C) (x := d.toNat * 32768 + c.toNat * 512 + e.toNat * 8 + 1) rfl hp
  have hd := d.isLt
  have hc := c.isLt
  have he := e.isLt
  refine ⟨by decide, by omega, finishCM ?_ hwf⟩
  have hm : xw % 8 = 1 := by omega
  refine minor_past hm (by decide) ?_
  refine minor_yes hm ?_
  refine unless4_yes (by omega) ?_
  exact (congrArg Except.ok (congrArg Decoded.plain (congr (congr (congrArg Instr.perfqMin (fieldAt (by omega))) (fieldAt (by omega))) (fieldAt (by omega)))))
theorem perfqMax (d : Reg) (c : BitVec 2) (e : BitVec 6) : Statement (.perfqMax d c e) := by
  intro cl op xw hp hwf
  obtain ⟨rfl, rfl, hxw⟩ := parts_eq (k := false) (op := 0x7C) (x := d.toNat * 32768 + c.toNat * 512 + e.toNat * 8 + 2) rfl hp
  have hd := d.isLt
  have hc := c.isLt
  have he := e.isLt
  refine ⟨by decide, by omega, finishCM ?_ hwf⟩
  have hm : xw % 8 = 2 := by omega
  refine minor_past hm (by decide) ?_
  refine minor_past hm (by decide) ?_
  refine minor_yes hm ?_
  refine unless4_yes (by omega) ?_
  exact (congrArg Except.ok (congrArg Decoded.plain (congr (congr (congrArg Instr.perfqMax (fieldAt (by omega))) (fieldAt (by omega))) (fieldAt (by omega)))))
theorem trarm (a : Reg) : Statement (.trarm a) := by
  intro cl op xw hp hwf
  obtain ⟨rfl, rfl, hxw⟩ := parts_eq (k := false) (op := 0x7D) (x := a.toNat * 32768) rfl hp
  have ha := a.isLt
  refine ⟨by decide, by omega, finishCM ?_ hwf⟩
  refine minor_yes (by omega) ?_
  refine unless3_yes (by omega) ?_
  exact (congrArg Except.ok (congrArg Decoded.plain (congrArg Instr.trarm (fieldAt (by omega)))))
theorem add (d : Reg) (a : Reg) (b : Reg) : Statement (.add d a b) := by
  intro cl op xw hp hwf
  obtain ⟨rfl, rfl, hxw⟩ := parts_eq (k := true) (op := 0x01) (x := d.toNat * 32768 + a.toNat * 1024 + b.toNat * 32) rfl hp
  obtain ⟨hb, hd, ha, hb', hm⟩ := three (d := d) (a := a) (b := b) 0 (by decide) (hxw.trans (Nat.add_zero _).symm)
  refine ⟨by decide, hb, finishAR (minor_yes hm <| ?_) hwf⟩
  exact congrArg (Except.ok ∘ Decoded.plain) (congr (congr (congrArg Instr.add hd) ha) hb')
theorem sub (d : Reg) (a : Reg) (b : Reg) : Statement (.sub d a b) := by
  intro cl op xw hp hwf
  obtain ⟨rfl, rfl, hxw⟩ := parts_eq (k := true) (op := 0x01) (x := d.toNat * 32768 + a.toNat * 1024 + b.toNat * 32 + 1) rfl hp
  obtain ⟨hb, hd, ha, hb', hm⟩ := three (d := d) (a := a) (b := b) 1 (by decide) hxw
  refine ⟨by decide, hb, finishAR (minor_past hm (by decide) <| minor_yes hm <| ?_) hwf⟩
  exact congrArg (Except.ok ∘ Decoded.plain) (congr (congr (congrArg Instr.sub hd) ha) hb')
theorem and (d : Reg) (a : Reg) (b : Reg) : Statement (.and d a b) := by
  intro cl op xw hp hwf
  obtain ⟨rfl, rfl, hxw⟩ := parts_eq (k := true) (op := 0x01) (x := d.toNat * 32768 + a.toNat * 1024 + b.toNat * 32 + 2) rfl hp
  obtain ⟨hb, hd, ha, hb', hm⟩ := three (d := d) (a := a) (b := b) 2 (by decide) hxw
  refine ⟨by decide, hb, finishAR (minor_past hm (by decide) <| minor_past hm (by decide) <| minor_yes hm <| ?_) hwf⟩
  exact congrArg (Except.ok ∘ Decoded.plain) (congr (congr (congrArg Instr.and hd) ha) hb')
theorem or (d : Reg) (a : Reg) (b : Reg) : Statement (.or d a b) := by
  intro cl op xw hp hwf
  obtain ⟨rfl, rfl, hxw⟩ := parts_eq (k := true) (op := 0x01) (x := d.toNat * 32768 + a.toNat * 1024 + b.toNat * 32 + 3) rfl hp
  obtain ⟨hb, hd, ha, hb', hm⟩ := three (d := d) (a := a) (b := b) 3 (by decide) hxw
  refine ⟨by decide, hb, finishAR (minor_past hm (by decide) <| minor_past hm (by decide) <| minor_past hm (by decide) <| minor_yes hm <| ?_) hwf⟩
  exact congrArg (Except.ok ∘ Decoded.plain) (congr (congr (congrArg Instr.or hd) ha) hb')
theorem xor (d : Reg) (a : Reg) (b : Reg) : Statement (.xor d a b) := by
  intro cl op xw hp hwf
  obtain ⟨rfl, rfl, hxw⟩ := parts_eq (k := true) (op := 0x01) (x := d.toNat * 32768 + a.toNat * 1024 + b.toNat * 32 + 4) rfl hp
  obtain ⟨hb, hd, ha, hb', hm⟩ := three (d := d) (a := a) (b := b) 4 (by decide) hxw
  refine ⟨by decide, hb, finishAR (minor_past hm (by decide) <| minor_past hm (by decide) <| minor_past hm (by decide) <| minor_past hm (by decide) <| minor_yes hm <| ?_) hwf⟩
  exact congrArg (Except.ok ∘ Decoded.plain) (congr (congr (congrArg Instr.xor hd) ha) hb')
theorem andn (d : Reg) (a : Reg) (b : Reg) : Statement (.andn d a b) := by
  intro cl op xw hp hwf
  obtain ⟨rfl, rfl, hxw⟩ := parts_eq (k := true) (op := 0x01) (x := d.toNat * 32768 + a.toNat * 1024 + b.toNat * 32 + 5) rfl hp
  obtain ⟨hb, hd, ha, hb', hm⟩ := three (d := d) (a := a) (b := b) 5 (by decide) hxw
  refine ⟨by decide, hb, finishAR (minor_past hm (by decide) <| minor_past hm (by decide) <| minor_past hm (by decide) <| minor_past hm (by decide) <| minor_past hm (by decide) <| minor_yes hm <| ?_) hwf⟩
  exact congrArg (Except.ok ∘ Decoded.plain) (congr (congr (congrArg Instr.andn hd) ha) hb')
theorem shl (d : Reg) (a : Reg) (b : Reg) : Statement (.shl d a b) := by
  intro cl op xw hp hwf
  obtain ⟨rfl, rfl, hxw⟩ := parts_eq (k := true) (op := 0x01) (x := d.toNat * 32768 + a.toNat * 1024 + b.toNat * 32 + 6) rfl hp
  obtain ⟨hb, hd, ha, hb', hm⟩ := three (d := d) (a := a) (b := b) 6 (by decide) hxw
  refine ⟨by decide, hb, finishAR (minor_past hm (by decide) <| minor_past hm (by decide) <| minor_past hm (by decide) <| minor_past hm (by decide) <| minor_past hm (by decide) <| minor_past hm (by decide) <| minor_yes hm <| ?_) hwf⟩
  exact congrArg (Except.ok ∘ Decoded.plain) (congr (congr (congrArg Instr.shl hd) ha) hb')
theorem shr (d : Reg) (a : Reg) (b : Reg) : Statement (.shr d a b) := by
  intro cl op xw hp hwf
  obtain ⟨rfl, rfl, hxw⟩ := parts_eq (k := true) (op := 0x01) (x := d.toNat * 32768 + a.toNat * 1024 + b.toNat * 32 + 7) rfl hp
  obtain ⟨hb, hd, ha, hb', hm⟩ := three (d := d) (a := a) (b := b) 7 (by decide) hxw
  refine ⟨by decide, hb, finishAR (minor_past hm (by decide) <| minor_past hm (by decide) <| minor_past hm (by decide) <| minor_past hm (by decide) <| minor_past hm (by decide) <| minor_past hm (by decide) <| minor_past hm (by decide) <| minor_yes hm <| ?_) hwf⟩
  exact congrArg (Except.ok ∘ Decoded.plain) (congr (congr (congrArg Instr.shr hd) ha) hb')
theorem sra (d : Reg) (a : Reg) (b : Reg) : Statement (.sra d a b) := by
  intro cl op xw hp hwf
  obtain ⟨rfl, rfl, hxw⟩ := parts_eq (k := true) (op := 0x01) (x := d.toNat * 32768 + a.toNat * 1024 + b.toNat * 32 + 8) rfl hp
  obtain ⟨hb, hd, ha, hb', hm⟩ := three (d := d) (a := a) (b := b) 8 (by decide) hxw
  refine ⟨by decide, hb, finishAR (minor_past hm (by decide) <| minor_past hm (by decide) <| minor_past hm (by decide) <| minor_past hm (by decide) <| minor_past hm (by decide) <| minor_past hm (by decide) <| minor_past hm (by decide) <| minor_past hm (by decide) <| minor_yes hm <| ?_) hwf⟩
  exact congrArg (Except.ok ∘ Decoded.plain) (congr (congr (congrArg Instr.sra hd) ha) hb')
theorem rot (d : Reg) (a : Reg) (b : Reg) : Statement (.rot d a b) := by
  intro cl op xw hp hwf
  obtain ⟨rfl, rfl, hxw⟩ := parts_eq (k := true) (op := 0x01) (x := d.toNat * 32768 + a.toNat * 1024 + b.toNat * 32 + 9) rfl hp
  obtain ⟨hb, hd, ha, hb', hm⟩ := three (d := d) (a := a) (b := b) 9 (by decide) hxw
  refine ⟨by decide, hb, finishAR (minor_past hm (by decide) <| minor_past hm (by decide) <| minor_past hm (by decide) <| minor_past hm (by decide) <| minor_past hm (by decide) <| minor_past hm (by decide) <| minor_past hm (by decide) <| minor_past hm (by decide) <| minor_past hm (by decide) <| minor_yes hm <| ?_) hwf⟩
  exact congrArg (Except.ok ∘ Decoded.plain) (congr (congr (congrArg Instr.rot hd) ha) hb')
theorem min (d : Reg) (a : Reg) (b : Reg) : Statement (.min d a b) := by
  intro cl op xw hp hwf
  obtain ⟨rfl, rfl, hxw⟩ := parts_eq (k := true) (op := 0x01) (x := d.toNat * 32768 + a.toNat * 1024 + b.toNat * 32 + 10) rfl hp
  obtain ⟨hb, hd, ha, hb', hm⟩ := three (d := d) (a := a) (b := b) 10 (by decide) hxw
  refine ⟨by decide, hb, finishAR (minor_past hm (by decide) <| minor_past hm (by decide) <| minor_past hm (by decide) <| minor_past hm (by decide) <| minor_past hm (by decide) <| minor_past hm (by decide) <| minor_past hm (by decide) <| minor_past hm (by decide) <| minor_past hm (by decide) <| minor_past hm (by decide) <| minor_yes hm <| ?_) hwf⟩
  exact congrArg (Except.ok ∘ Decoded.plain) (congr (congr (congrArg Instr.min hd) ha) hb')
theorem max (d : Reg) (a : Reg) (b : Reg) : Statement (.max d a b) := by
  intro cl op xw hp hwf
  obtain ⟨rfl, rfl, hxw⟩ := parts_eq (k := true) (op := 0x01) (x := d.toNat * 32768 + a.toNat * 1024 + b.toNat * 32 + 11) rfl hp
  obtain ⟨hb, hd, ha, hb', hm⟩ := three (d := d) (a := a) (b := b) 11 (by decide) hxw
  refine ⟨by decide, hb, finishAR (minor_past hm (by decide) <| minor_past hm (by decide) <| minor_past hm (by decide) <| minor_past hm (by decide) <| minor_past hm (by decide) <| minor_past hm (by decide) <| minor_past hm (by decide) <| minor_past hm (by decide) <| minor_past hm (by decide) <| minor_past hm (by decide) <| minor_past hm (by decide) <| minor_yes hm <| ?_) hwf⟩
  exact congrArg (Except.ok ∘ Decoded.plain) (congr (congr (congrArg Instr.max hd) ha) hb')
theorem minu (d : Reg) (a : Reg) (b : Reg) : Statement (.minu d a b) := by
  intro cl op xw hp hwf
  obtain ⟨rfl, rfl, hxw⟩ := parts_eq (k := true) (op := 0x01) (x := d.toNat * 32768 + a.toNat * 1024 + b.toNat * 32 + 12) rfl hp
  obtain ⟨hb, hd, ha, hb', hm⟩ := three (d := d) (a := a) (b := b) 12 (by decide) hxw
  refine ⟨by decide, hb, finishAR (minor_past hm (by decide) <| minor_past hm (by decide) <| minor_past hm (by decide) <| minor_past hm (by decide) <| minor_past hm (by decide) <| minor_past hm (by decide) <| minor_past hm (by decide) <| minor_past hm (by decide) <| minor_past hm (by decide) <| minor_past hm (by decide) <| minor_past hm (by decide) <| minor_past hm (by decide) <| minor_yes hm <| ?_) hwf⟩
  exact congrArg (Except.ok ∘ Decoded.plain) (congr (congr (congrArg Instr.minu hd) ha) hb')
theorem maxu (d : Reg) (a : Reg) (b : Reg) : Statement (.maxu d a b) := by
  intro cl op xw hp hwf
  obtain ⟨rfl, rfl, hxw⟩ := parts_eq (k := true) (op := 0x01) (x := d.toNat * 32768 + a.toNat * 1024 + b.toNat * 32 + 13) rfl hp
  obtain ⟨hb, hd, ha, hb', hm⟩ := three (d := d) (a := a) (b := b) 13 (by decide) hxw
  refine ⟨by decide, hb, finishAR (minor_past hm (by decide) <| minor_past hm (by decide) <| minor_past hm (by decide) <| minor_past hm (by decide) <| minor_past hm (by decide) <| minor_past hm (by decide) <| minor_past hm (by decide) <| minor_past hm (by decide) <| minor_past hm (by decide) <| minor_past hm (by decide) <| minor_past hm (by decide) <| minor_past hm (by decide) <| minor_past hm (by decide) <| minor_yes hm <| ?_) hwf⟩
  exact congrArg (Except.ok ∘ Decoded.plain) (congr (congr (congrArg Instr.maxu hd) ha) hb')
theorem addsat (d : Reg) (a : Reg) (b : Reg) : Statement (.addsat d a b) := by
  intro cl op xw hp hwf
  obtain ⟨rfl, rfl, hxw⟩ := parts_eq (k := true) (op := 0x01) (x := d.toNat * 32768 + a.toNat * 1024 + b.toNat * 32 + 14) rfl hp
  obtain ⟨hb, hd, ha, hb', hm⟩ := three (d := d) (a := a) (b := b) 14 (by decide) hxw
  refine ⟨by decide, hb, finishAR (minor_past hm (by decide) <| minor_past hm (by decide) <| minor_past hm (by decide) <| minor_past hm (by decide) <| minor_past hm (by decide) <| minor_past hm (by decide) <| minor_past hm (by decide) <| minor_past hm (by decide) <| minor_past hm (by decide) <| minor_past hm (by decide) <| minor_past hm (by decide) <| minor_past hm (by decide) <| minor_past hm (by decide) <| minor_past hm (by decide) <| minor_yes hm <| ?_) hwf⟩
  exact congrArg (Except.ok ∘ Decoded.plain) (congr (congr (congrArg Instr.addsat hd) ha) hb')
theorem subsat (d : Reg) (a : Reg) (b : Reg) : Statement (.subsat d a b) := by
  intro cl op xw hp hwf
  obtain ⟨rfl, rfl, hxw⟩ := parts_eq (k := true) (op := 0x01) (x := d.toNat * 32768 + a.toNat * 1024 + b.toNat * 32 + 15) rfl hp
  obtain ⟨hb, hd, ha, hb', hm⟩ := three (d := d) (a := a) (b := b) 15 (by decide) hxw
  refine ⟨by decide, hb, finishAR (minor_past hm (by decide) <| minor_past hm (by decide) <| minor_past hm (by decide) <| minor_past hm (by decide) <| minor_past hm (by decide) <| minor_past hm (by decide) <| minor_past hm (by decide) <| minor_past hm (by decide) <| minor_past hm (by decide) <| minor_past hm (by decide) <| minor_past hm (by decide) <| minor_past hm (by decide) <| minor_past hm (by decide) <| minor_past hm (by decide) <| minor_past hm (by decide) <| minor_yes hm <| ?_) hwf⟩
  exact congrArg (Except.ok ∘ Decoded.plain) (congr (congr (congrArg Instr.subsat hd) ha) hb')
theorem mov (d : Reg) (a : Reg) : Statement (.mov d a) := by
  intro cl op xw hp hwf
  obtain ⟨rfl, rfl, hxw⟩ := parts_eq (k := true) (op := 0x02) (x := d.toNat * 32768 + a.toNat * 1024) rfl hp
  have hd := d.isLt
  have ha := a.isLt
  refine ⟨by decide, by omega, finishAR ?_ hwf⟩
  refine minor_yes (by omega) ?_
  refine unless3_yes (by omega) ?_
  exact (congrArg Except.ok (congrArg Decoded.plain (congr (congrArg Instr.mov (fieldAt (by omega))) (fieldAt (by omega)))))
theorem abs (d : Reg) (a : Reg) : Statement (.abs d a) := by
  intro cl op xw hp hwf
  obtain ⟨rfl, rfl, hxw⟩ := parts_eq (k := true) (op := 0x02) (x := d.toNat * 32768 + a.toNat * 1024 + 1) rfl hp
  have hd := d.isLt
  have ha := a.isLt
  refine ⟨by decide, by omega, finishAR ?_ hwf⟩
  have hm : xw % 32 = 1 := by omega
  refine minor_past hm (by decide) ?_
  refine minor_yes hm ?_
  refine unless3_yes (by omega) ?_
  exact (congrArg Except.ok (congrArg Decoded.plain (congr (congrArg Instr.abs (fieldAt (by omega))) (fieldAt (by omega)))))
theorem clz (d : Reg) (a : Reg) : Statement (.clz d a) := by
  intro cl op xw hp hwf
  obtain ⟨rfl, rfl, hxw⟩ := parts_eq (k := true) (op := 0x02) (x := d.toNat * 32768 + a.toNat * 1024 + 2) rfl hp
  have hd := d.isLt
  have ha := a.isLt
  refine ⟨by decide, by omega, finishAR ?_ hwf⟩
  have hm : xw % 32 = 2 := by omega
  refine minor_past hm (by decide) ?_
  refine minor_past hm (by decide) ?_
  refine minor_yes hm ?_
  refine unless3_yes (by omega) ?_
  exact (congrArg Except.ok (congrArg Decoded.plain (congr (congrArg Instr.clz (fieldAt (by omega))) (fieldAt (by omega)))))
theorem ctz (d : Reg) (a : Reg) : Statement (.ctz d a) := by
  intro cl op xw hp hwf
  obtain ⟨rfl, rfl, hxw⟩ := parts_eq (k := true) (op := 0x02) (x := d.toNat * 32768 + a.toNat * 1024 + 3) rfl hp
  have hd := d.isLt
  have ha := a.isLt
  refine ⟨by decide, by omega, finishAR ?_ hwf⟩
  have hm : xw % 32 = 3 := by omega
  refine minor_past hm (by decide) ?_
  refine minor_past hm (by decide) ?_
  refine minor_past hm (by decide) ?_
  refine minor_yes hm ?_
  refine unless3_yes (by omega) ?_
  exact (congrArg Except.ok (congrArg Decoded.plain (congr (congrArg Instr.ctz (fieldAt (by omega))) (fieldAt (by omega)))))
theorem popc (d : Reg) (a : Reg) : Statement (.popc d a) := by
  intro cl op xw hp hwf
  obtain ⟨rfl, rfl, hxw⟩ := parts_eq (k := true) (op := 0x02) (x := d.toNat * 32768 + a.toNat * 1024 + 4) rfl hp
  have hd := d.isLt
  have ha := a.isLt
  refine ⟨by decide, by omega, finishAR ?_ hwf⟩
  have hm : xw % 32 = 4 := by omega
  refine minor_past hm (by decide) ?_
  refine minor_past hm (by decide) ?_
  refine minor_past hm (by decide) ?_
  refine minor_past hm (by decide) ?_
  refine minor_yes hm ?_
  refine unless3_yes (by omega) ?_
  exact (congrArg Except.ok (congrArg Decoded.plain (congr (congrArg Instr.popc (fieldAt (by omega))) (fieldAt (by omega)))))
theorem sext (d : Reg) (a : Reg) (w : Size) : Statement (.sext d a w) := by
  intro cl op xw hp hwf
  obtain ⟨rfl, rfl, hxw⟩ := parts_eq (k := true) (op := 0x02) (x := d.toNat * 32768 + a.toNat * 1024 + w.code * 32 + 5) rfl hp
  have hd := d.isLt
  have ha := a.isLt
  have hw := size_lt w
  refine ⟨by decide, by omega, finishAR ?_ hwf⟩
  have hm : xw % 32 = 5 := by omega
  refine minor_past hm (by decide) ?_
  refine minor_past hm (by decide) ?_
  refine minor_past hm (by decide) ?_
  refine minor_past hm (by decide) ?_
  refine minor_past hm (by decide) ?_
  refine minor_yes hm ?_
  refine reserved_yes (size5At (c := w) (by omega)) ?_
  exact (congrArg Except.ok (congrArg Decoded.plain (congrFun (congr (congrArg Instr.sext (fieldAt (by omega))) (fieldAt (by omega))) _)))
theorem zext (d : Reg) (a : Reg) (w : Size) : Statement (.zext d a w) := by
  intro cl op xw hp hwf
  obtain ⟨rfl, rfl, hxw⟩ := parts_eq (k := true) (op := 0x02) (x := d.toNat * 32768 + a.toNat * 1024 + w.code * 32 + 6) rfl hp
  have hd := d.isLt
  have ha := a.isLt
  have hw := size_lt w
  refine ⟨by decide, by omega, finishAR ?_ hwf⟩
  have hm : xw % 32 = 6 := by omega
  refine minor_past hm (by decide) ?_
  refine minor_past hm (by decide) ?_
  refine minor_past hm (by decide) ?_
  refine minor_past hm (by decide) ?_
  refine minor_past hm (by decide) ?_
  refine minor_past hm (by decide) ?_
  refine minor_yes hm ?_
  refine reserved_yes (size5At (c := w) (by omega)) ?_
  exact (congrArg Except.ok (congrArg Decoded.plain (congrFun (congr (congrArg Instr.zext (fieldAt (by omega))) (fieldAt (by omega))) _)))
theorem mul (d : Reg) (a : Reg) (b : Reg) : Statement (.mul d a b) := by
  intro cl op xw hp hwf
  obtain ⟨rfl, rfl, hxw⟩ := parts_eq (k := true) (op := 0x03) (x := d.toNat * 32768 + a.toNat * 1024 + b.toNat * 32) rfl hp
  obtain ⟨hb, hd, ha, hb', hm⟩ := three (d := d) (a := a) (b := b) 0 (by decide) (hxw.trans (Nat.add_zero _).symm)
  refine ⟨by decide, hb, finishAR (minor_yes hm <| ?_) hwf⟩
  exact congrArg (Except.ok ∘ Decoded.plain) (congr (congr (congrArg Instr.mul hd) ha) hb')
theorem mulh (d : Reg) (a : Reg) (b : Reg) : Statement (.mulh d a b) := by
  intro cl op xw hp hwf
  obtain ⟨rfl, rfl, hxw⟩ := parts_eq (k := true) (op := 0x03) (x := d.toNat * 32768 + a.toNat * 1024 + b.toNat * 32 + 1) rfl hp
  obtain ⟨hb, hd, ha, hb', hm⟩ := three (d := d) (a := a) (b := b) 1 (by decide) hxw
  refine ⟨by decide, hb, finishAR (minor_past hm (by decide) <| minor_yes hm <| ?_) hwf⟩
  exact congrArg (Except.ok ∘ Decoded.plain) (congr (congr (congrArg Instr.mulh hd) ha) hb')
theorem mulhu (d : Reg) (a : Reg) (b : Reg) : Statement (.mulhu d a b) := by
  intro cl op xw hp hwf
  obtain ⟨rfl, rfl, hxw⟩ := parts_eq (k := true) (op := 0x03) (x := d.toNat * 32768 + a.toNat * 1024 + b.toNat * 32 + 2) rfl hp
  obtain ⟨hb, hd, ha, hb', hm⟩ := three (d := d) (a := a) (b := b) 2 (by decide) hxw
  refine ⟨by decide, hb, finishAR (minor_past hm (by decide) <| minor_past hm (by decide) <| minor_yes hm <| ?_) hwf⟩
  exact congrArg (Except.ok ∘ Decoded.plain) (congr (congr (congrArg Instr.mulhu hd) ha) hb')
theorem div (d : Reg) (a : Reg) (b : Reg) : Statement (.div d a b) := by
  intro cl op xw hp hwf
  obtain ⟨rfl, rfl, hxw⟩ := parts_eq (k := true) (op := 0x03) (x := d.toNat * 32768 + a.toNat * 1024 + b.toNat * 32 + 3) rfl hp
  obtain ⟨hb, hd, ha, hb', hm⟩ := three (d := d) (a := a) (b := b) 3 (by decide) hxw
  refine ⟨by decide, hb, finishAR (minor_past hm (by decide) <| minor_past hm (by decide) <| minor_past hm (by decide) <| minor_yes hm <| ?_) hwf⟩
  exact congrArg (Except.ok ∘ Decoded.plain) (congr (congr (congrArg Instr.div hd) ha) hb')
theorem divu (d : Reg) (a : Reg) (b : Reg) : Statement (.divu d a b) := by
  intro cl op xw hp hwf
  obtain ⟨rfl, rfl, hxw⟩ := parts_eq (k := true) (op := 0x03) (x := d.toNat * 32768 + a.toNat * 1024 + b.toNat * 32 + 4) rfl hp
  obtain ⟨hb, hd, ha, hb', hm⟩ := three (d := d) (a := a) (b := b) 4 (by decide) hxw
  refine ⟨by decide, hb, finishAR (minor_past hm (by decide) <| minor_past hm (by decide) <| minor_past hm (by decide) <| minor_past hm (by decide) <| minor_yes hm <| ?_) hwf⟩
  exact congrArg (Except.ok ∘ Decoded.plain) (congr (congr (congrArg Instr.divu hd) ha) hb')
theorem rem (d : Reg) (a : Reg) (b : Reg) : Statement (.rem d a b) := by
  intro cl op xw hp hwf
  obtain ⟨rfl, rfl, hxw⟩ := parts_eq (k := true) (op := 0x03) (x := d.toNat * 32768 + a.toNat * 1024 + b.toNat * 32 + 5) rfl hp
  obtain ⟨hb, hd, ha, hb', hm⟩ := three (d := d) (a := a) (b := b) 5 (by decide) hxw
  refine ⟨by decide, hb, finishAR (minor_past hm (by decide) <| minor_past hm (by decide) <| minor_past hm (by decide) <| minor_past hm (by decide) <| minor_past hm (by decide) <| minor_yes hm <| ?_) hwf⟩
  exact congrArg (Except.ok ∘ Decoded.plain) (congr (congr (congrArg Instr.rem hd) ha) hb')
theorem remu (d : Reg) (a : Reg) (b : Reg) : Statement (.remu d a b) := by
  intro cl op xw hp hwf
  obtain ⟨rfl, rfl, hxw⟩ := parts_eq (k := true) (op := 0x03) (x := d.toNat * 32768 + a.toNat * 1024 + b.toNat * 32 + 6) rfl hp
  obtain ⟨hb, hd, ha, hb', hm⟩ := three (d := d) (a := a) (b := b) 6 (by decide) hxw
  refine ⟨by decide, hb, finishAR (minor_past hm (by decide) <| minor_past hm (by decide) <| minor_past hm (by decide) <| minor_past hm (by decide) <| minor_past hm (by decide) <| minor_past hm (by decide) <| minor_yes hm <| ?_) hwf⟩
  exact congrArg (Except.ok ∘ Decoded.plain) (congr (congr (congrArg Instr.remu hd) ha) hb')
theorem sel (d : Reg) (a : Reg) (b : Reg) (p : BitVec 3) : Statement (.sel d a b p) := by
  intro cl op xw hp hwf
  obtain ⟨rfl, rfl, hxw⟩ := parts_eq (k := true) (op := 0x04) (x := d.toNat * 32768 + a.toNat * 1024 + b.toNat * 32 + p.toNat) rfl hp
  have hd := d.isLt
  have ha := a.isLt
  have hb := b.isLt
  have hp := p.isLt
  refine ⟨by decide, by omega, finishAR ?_ hwf⟩
  refine unless3_yes (by omega) ?_
  exact (congrArg Except.ok (congrArg Decoded.plain (congr (congr (congr (congrArg Instr.sel (fieldAt (by omega))) (fieldAt (by omega))) (fieldAt (by omega))) (fieldAt (by omega)))))
theorem bfx (d : Reg) (a : Reg) (b : Reg) : Statement (.bfx d a b) := by
  intro cl op xw hp hwf
  obtain ⟨rfl, rfl, hxw⟩ := parts_eq (k := true) (op := 0x05) (x := d.toNat * 32768 + a.toNat * 1024 + b.toNat * 32) rfl hp
  have hd := d.isLt
  have ha := a.isLt
  have hb := b.isLt
  refine ⟨by decide, by omega, finishAR ?_ hwf⟩
  refine minor_yes (by omega) ?_
  refine unless3_yes (by omega) ?_
  exact (congrArg Except.ok (congrArg Decoded.plain (congr (congr (congrArg Instr.bfx (fieldAt (by omega))) (fieldAt (by omega))) (fieldAt (by omega)))))
theorem bfxSx (d : Reg) (a : Reg) (b : Reg) : Statement (.bfxSx d a b) := by
  intro cl op xw hp hwf
  obtain ⟨rfl, rfl, hxw⟩ := parts_eq (k := true) (op := 0x05) (x := d.toNat * 32768 + a.toNat * 1024 + b.toNat * 32 + 1) rfl hp
  have hd := d.isLt
  have ha := a.isLt
  have hb := b.isLt
  refine ⟨by decide, by omega, finishAR ?_ hwf⟩
  have hm : xw % 2 = 1 := by omega
  refine minor_past hm (by decide) ?_
  refine minor_yes hm ?_
  refine unless3_yes (by omega) ?_
  exact (congrArg Except.ok (congrArg Decoded.plain (congr (congr (congrArg Instr.bfxSx (fieldAt (by omega))) (fieldAt (by omega))) (fieldAt (by omega)))))
theorem bfi (d : Reg) (a : Reg) (b : Reg) : Statement (.bfi d a b) := by
  intro cl op xw hp hwf
  obtain ⟨rfl, rfl, hxw⟩ := parts_eq (k := true) (op := 0x06) (x := d.toNat * 32768 + a.toNat * 1024 + b.toNat * 32) rfl hp
  have hd := d.isLt
  have ha := a.isLt
  have hb := b.isLt
  refine ⟨by decide, by omega, finishAR ?_ hwf⟩
  refine unless3_yes (by omega) ?_
  exact (congrArg Except.ok (congrArg Decoded.plain (congr (congr (congrArg Instr.bfi (fieldAt (by omega))) (fieldAt (by omega))) (fieldAt (by omega)))))
theorem adds (d : Reg) (a : Reg) (b : Reg) (h : BitVec 3) : Statement (.adds d a b h) := by
  intro cl op xw hp hwf
  obtain ⟨rfl, rfl, hxw⟩ := parts_eq (k := true) (op := 0x07) (x := d.toNat * 32768 + a.toNat * 1024 + b.toNat * 32 + h.toNat) rfl hp
  have hd := d.isLt
  have ha := a.isLt
  have hb := b.isLt
  have hh := h.isLt
  refine ⟨by decide, by omega, finishAR ?_ hwf⟩
  refine unless3_yes (by omega) ?_
  exact (congrArg Except.ok (congrArg Decoded.plain (congr (congr (congr (congrArg Instr.adds (fieldAt (by omega))) (fieldAt (by omega))) (fieldAt (by omega))) (fieldAt (by omega)))))
theorem widx (d : Reg) (a : Reg) (i : BitVec 10) : Statement (.widx d a i) := by
  intro cl op xw hp hwf
  obtain ⟨rfl, rfl, hxw⟩ := parts_eq (k := true) (op := 0x08) (x := d.toNat * 32768 + a.toNat * 1024 + i.toNat) rfl hp
  have hd := d.isLt
  have ha := a.isLt
  have hi := i.isLt
  refine ⟨by decide, by omega, finishAR ?_ hwf⟩
  exact (congrArg Except.ok (congrArg Decoded.plain (congr (congr (congrArg Instr.widx (fieldAt (by omega))) (fieldAt (by omega))) (fieldAt (by omega)))))
theorem addImm (d : Reg) (a : Reg) (i : BitVec 10) : Statement (.addImm d a i) := by
  intro cl op xw hp hwf
  obtain ⟨rfl, rfl, hxw⟩ := parts_eq (k := true) (op := 0x10) (x := d.toNat * 32768 + a.toNat * 1024 + i.toNat) rfl hp
  have hd := d.isLt
  have ha := a.isLt
  have hi := i.isLt
  refine ⟨by decide, by omega, finishAR ?_ hwf⟩
  exact (congrArg Except.ok (congrArg Decoded.plain (congr (congr (congrArg Instr.addImm (fieldAt (by omega))) (fieldAt (by omega))) (fieldAt (by omega)))))
theorem andImm (d : Reg) (a : Reg) (i : BitVec 10) : Statement (.andImm d a i) := by
  intro cl op xw hp hwf
  obtain ⟨rfl, rfl, hxw⟩ := parts_eq (k := true) (op := 0x11) (x := d.toNat * 32768 + a.toNat * 1024 + i.toNat) rfl hp
  have hd := d.isLt
  have ha := a.isLt
  have hi := i.isLt
  refine ⟨by decide, by omega, finishAR ?_ hwf⟩
  exact (congrArg Except.ok (congrArg Decoded.plain (congr (congr (congrArg Instr.andImm (fieldAt (by omega))) (fieldAt (by omega))) (fieldAt (by omega)))))
theorem orImm (d : Reg) (a : Reg) (i : BitVec 10) : Statement (.orImm d a i) := by
  intro cl op xw hp hwf
  obtain ⟨rfl, rfl, hxw⟩ := parts_eq (k := true) (op := 0x12) (x := d.toNat * 32768 + a.toNat * 1024 + i.toNat) rfl hp
  have hd := d.isLt
  have ha := a.isLt
  have hi := i.isLt
  refine ⟨by decide, by omega, finishAR ?_ hwf⟩
  exact (congrArg Except.ok (congrArg Decoded.plain (congr (congr (congrArg Instr.orImm (fieldAt (by omega))) (fieldAt (by omega))) (fieldAt (by omega)))))
theorem xorImm (d : Reg) (a : Reg) (i : BitVec 10) : Statement (.xorImm d a i) := by
  intro cl op xw hp hwf
  obtain ⟨rfl, rfl, hxw⟩ := parts_eq (k := true) (op := 0x13) (x := d.toNat * 32768 + a.toNat * 1024 + i.toNat) rfl hp
  have hd := d.isLt
  have ha := a.isLt
  have hi := i.isLt
  refine ⟨by decide, by omega, finishAR ?_ hwf⟩
  exact (congrArg Except.ok (congrArg Decoded.plain (congr (congr (congrArg Instr.xorImm (fieldAt (by omega))) (fieldAt (by omega))) (fieldAt (by omega)))))
theorem shlImm (d : Reg) (a : Reg) (i : BitVec 10) : Statement (.shlImm d a i) := by
  intro cl op xw hp hwf
  obtain ⟨rfl, rfl, hxw⟩ := parts_eq (k := true) (op := 0x14) (x := d.toNat * 32768 + a.toNat * 1024 + i.toNat) rfl hp
  have hd := d.isLt
  have ha := a.isLt
  have hi := i.isLt
  refine ⟨by decide, by omega, finishAR ?_ hwf⟩
  exact (congrArg Except.ok (congrArg Decoded.plain (congr (congr (congrArg Instr.shlImm (fieldAt (by omega))) (fieldAt (by omega))) (fieldAt (by omega)))))
theorem shrImm (d : Reg) (a : Reg) (i : BitVec 10) : Statement (.shrImm d a i) := by
  intro cl op xw hp hwf
  obtain ⟨rfl, rfl, hxw⟩ := parts_eq (k := true) (op := 0x15) (x := d.toNat * 32768 + a.toNat * 1024 + i.toNat) rfl hp
  have hd := d.isLt
  have ha := a.isLt
  have hi := i.isLt
  refine ⟨by decide, by omega, finishAR ?_ hwf⟩
  exact (congrArg Except.ok (congrArg Decoded.plain (congr (congr (congrArg Instr.shrImm (fieldAt (by omega))) (fieldAt (by omega))) (fieldAt (by omega)))))
theorem sraImm (d : Reg) (a : Reg) (i : BitVec 10) : Statement (.sraImm d a i) := by
  intro cl op xw hp hwf
  obtain ⟨rfl, rfl, hxw⟩ := parts_eq (k := true) (op := 0x16) (x := d.toNat * 32768 + a.toNat * 1024 + i.toNat) rfl hp
  have hd := d.isLt
  have ha := a.isLt
  have hi := i.isLt
  refine ⟨by decide, by omega, finishAR ?_ hwf⟩
  exact (congrArg Except.ok (congrArg Decoded.plain (congr (congr (congrArg Instr.sraImm (fieldAt (by omega))) (fieldAt (by omega))) (fieldAt (by omega)))))
theorem rotImm (d : Reg) (a : Reg) (i : BitVec 10) : Statement (.rotImm d a i) := by
  intro cl op xw hp hwf
  obtain ⟨rfl, rfl, hxw⟩ := parts_eq (k := true) (op := 0x17) (x := d.toNat * 32768 + a.toNat * 1024 + i.toNat) rfl hp
  have hd := d.isLt
  have ha := a.isLt
  have hi := i.isLt
  refine ⟨by decide, by omega, finishAR ?_ hwf⟩
  exact (congrArg Except.ok (congrArg Decoded.plain (congr (congr (congrArg Instr.rotImm (fieldAt (by omega))) (fieldAt (by omega))) (fieldAt (by omega)))))
theorem minImm (d : Reg) (a : Reg) (i : BitVec 10) : Statement (.minImm d a i) := by
  intro cl op xw hp hwf
  obtain ⟨rfl, rfl, hxw⟩ := parts_eq (k := true) (op := 0x18) (x := d.toNat * 32768 + a.toNat * 1024 + i.toNat) rfl hp
  have hd := d.isLt
  have ha := a.isLt
  have hi := i.isLt
  refine ⟨by decide, by omega, finishAR ?_ hwf⟩
  exact (congrArg Except.ok (congrArg Decoded.plain (congr (congr (congrArg Instr.minImm (fieldAt (by omega))) (fieldAt (by omega))) (fieldAt (by omega)))))
theorem maxImm (d : Reg) (a : Reg) (i : BitVec 10) : Statement (.maxImm d a i) := by
  intro cl op xw hp hwf
  obtain ⟨rfl, rfl, hxw⟩ := parts_eq (k := true) (op := 0x19) (x := d.toNat * 32768 + a.toNat * 1024 + i.toNat) rfl hp
  have hd := d.isLt
  have ha := a.isLt
  have hi := i.isLt
  refine ⟨by decide, by omega, finishAR ?_ hwf⟩
  exact (congrArg Except.ok (congrArg Decoded.plain (congr (congr (congrArg Instr.maxImm (fieldAt (by omega))) (fieldAt (by omega))) (fieldAt (by omega)))))
theorem mulImm (d : Reg) (a : Reg) (i : BitVec 10) : Statement (.mulImm d a i) := by
  intro cl op xw hp hwf
  obtain ⟨rfl, rfl, hxw⟩ := parts_eq (k := true) (op := 0x1A) (x := d.toNat * 32768 + a.toNat * 1024 + i.toNat) rfl hp
  have hd := d.isLt
  have ha := a.isLt
  have hi := i.isLt
  refine ⟨by decide, by omega, finishAR ?_ hwf⟩
  exact (congrArg Except.ok (congrArg Decoded.plain (congr (congr (congrArg Instr.mulImm (fieldAt (by omega))) (fieldAt (by omega))) (fieldAt (by omega)))))
theorem movi (d : Reg) (i : BitVec 15) : Statement (.movi d i) := by
  intro cl op xw hp hwf
  obtain ⟨rfl, rfl, hxw⟩ := parts_eq (k := true) (op := 0x1C) (x := d.toNat * 32768 + i.toNat) rfl hp
  have hd := d.isLt
  have hi := i.isLt
  refine ⟨by decide, by omega, finishAR ?_ hwf⟩
  exact (congrArg Except.ok (congrArg Decoded.plain (congr (congrArg Instr.movi (fieldAt (by omega))) (fieldAt (by omega)))))
theorem movh (d : Reg) (i : BitVec 15) : Statement (.movh d i) := by
  intro cl op xw hp hwf
  obtain ⟨rfl, rfl, hxw⟩ := parts_eq (k := true) (op := 0x1D) (x := d.toNat * 32768 + i.toNat) rfl hp
  have hd := d.isLt
  have hi := i.isLt
  refine ⟨by decide, by omega, finishAR ?_ hwf⟩
  exact (congrArg Except.ok (congrArg Decoded.plain (congr (congrArg Instr.movh (fieldAt (by omega))) (fieldAt (by omega)))))
theorem cmp (d : BitVec 3) (a : Reg) (b : Reg) (c : Cond) : Statement (.cmp d a b c) := by
  intro cl op xw hp hwf
  obtain ⟨rfl, rfl, hxw⟩ := parts_eq (k := true) (op := 0x20) (x := d.toNat * 32768 + a.toNat * 1024 + b.toNat * 32 + c.code) rfl hp
  have hd := d.isLt
  have ha := a.isLt
  have hb := b.isLt
  have hc := cond_lt c
  refine ⟨by decide, by omega, finishAR ?_ hwf⟩
  refine reserved_yes (code3At (v := d) (by omega)) ?_
  refine reserved_yes (condAt (c := c) (by omega)) ?_
  exact (congrArg Except.ok (congrArg Decoded.plain (congrFun (congr (congr (congrArg Instr.cmp (rfl)) (fieldAt (by omega))) (fieldAt (by omega))) _)))
theorem pand (d : BitVec 3) (a : BitVec 3) (b : BitVec 3) : Statement (.pand d a b) := by
  intro cl op xw hp hwf
  obtain ⟨rfl, rfl, hxw⟩ := parts_eq (k := true) (op := 0x21) (x := d.toNat * 32768 + a.toNat * 1024 + b.toNat * 32) rfl hp
  have hd := d.isLt
  have ha := a.isLt
  have hb := b.isLt
  refine ⟨by decide, by omega, finishAR ?_ hwf⟩
  refine minor_yes (by omega) ?_
  refine reserved_yes (code3At (v := d) (by omega)) ?_
  refine reserved_yes (code3At (v := a) (by omega)) ?_
  refine reserved_yes (code3At (v := b) (by omega)) ?_
  exact (congrArg Except.ok (congrArg Decoded.plain (congrFun (congrFun (congrArg Instr.pand (rfl)) _) _)))
theorem por (d : BitVec 3) (a : BitVec 3) (b : BitVec 3) : Statement (.por d a b) := by
  intro cl op xw hp hwf
  obtain ⟨rfl, rfl, hxw⟩ := parts_eq (k := true) (op := 0x21) (x := d.toNat * 32768 + a.toNat * 1024 + b.toNat * 32 + 1) rfl hp
  have hd := d.isLt
  have ha := a.isLt
  have hb := b.isLt
  refine ⟨by decide, by omega, finishAR ?_ hwf⟩
  have hm : xw % 32 = 1 := by omega
  refine minor_past hm (by decide) ?_
  refine minor_yes hm ?_
  refine reserved_yes (code3At (v := d) (by omega)) ?_
  refine reserved_yes (code3At (v := a) (by omega)) ?_
  refine reserved_yes (code3At (v := b) (by omega)) ?_
  exact (congrArg Except.ok (congrArg Decoded.plain (congrFun (congrFun (congrArg Instr.por (rfl)) _) _)))
theorem pxor (d : BitVec 3) (a : BitVec 3) (b : BitVec 3) : Statement (.pxor d a b) := by
  intro cl op xw hp hwf
  obtain ⟨rfl, rfl, hxw⟩ := parts_eq (k := true) (op := 0x21) (x := d.toNat * 32768 + a.toNat * 1024 + b.toNat * 32 + 2) rfl hp
  have hd := d.isLt
  have ha := a.isLt
  have hb := b.isLt
  refine ⟨by decide, by omega, finishAR ?_ hwf⟩
  have hm : xw % 32 = 2 := by omega
  refine minor_past hm (by decide) ?_
  refine minor_past hm (by decide) ?_
  refine minor_yes hm ?_
  refine reserved_yes (code3At (v := d) (by omega)) ?_
  refine reserved_yes (code3At (v := a) (by omega)) ?_
  refine reserved_yes (code3At (v := b) (by omega)) ?_
  exact (congrArg Except.ok (congrArg Decoded.plain (congrFun (congrFun (congrArg Instr.pxor (rfl)) _) _)))
theorem pnot (d : BitVec 3) (a : BitVec 3) : Statement (.pnot d a) := by
  intro cl op xw hp hwf
  obtain ⟨rfl, rfl, hxw⟩ := parts_eq (k := true) (op := 0x21) (x := d.toNat * 32768 + a.toNat * 1024 + 3) rfl hp
  have hd := d.isLt
  have ha := a.isLt
  refine ⟨by decide, by omega, finishAR ?_ hwf⟩
  have hm : xw % 32 = 3 := by omega
  refine minor_past hm (by decide) ?_
  refine minor_past hm (by decide) ?_
  refine minor_past hm (by decide) ?_
  refine minor_yes hm ?_
  refine unless3_yes (by omega) ?_
  refine reserved_yes (code3At (v := d) (by omega)) ?_
  refine reserved_yes (code3At (v := a) (by omega)) ?_
  exact (congrArg Except.ok (congrArg Decoded.plain (congrFun (congrArg Instr.pnot (rfl)) _)))
theorem pmov (d : BitVec 3) (a : BitVec 3) : Statement (.pmov d a) := by
  intro cl op xw hp hwf
  obtain ⟨rfl, rfl, hxw⟩ := parts_eq (k := true) (op := 0x21) (x := d.toNat * 32768 + a.toNat * 1024 + 4) rfl hp
  have hd := d.isLt
  have ha := a.isLt
  refine ⟨by decide, by omega, finishAR ?_ hwf⟩
  have hm : xw % 32 = 4 := by omega
  refine minor_past hm (by decide) ?_
  refine minor_past hm (by decide) ?_
  refine minor_past hm (by decide) ?_
  refine minor_past hm (by decide) ?_
  refine minor_yes hm ?_
  refine unless3_yes (by omega) ?_
  refine reserved_yes (code3At (v := d) (by omega)) ?_
  refine reserved_yes (code3At (v := a) (by omega)) ?_
  exact (congrArg Except.ok (congrArg Decoded.plain (congrFun (congrArg Instr.pmov (rfl)) _)))
theorem fadd (d : Reg) (a : Reg) (b : Reg) : Statement (.fadd d a b) := by
  intro cl op xw hp hwf
  obtain ⟨rfl, rfl, hxw⟩ := parts_eq (k := true) (op := 0x28) (x := d.toNat * 32768 + a.toNat * 1024 + b.toNat * 32) rfl hp
  obtain ⟨hb, hd, ha, hb', hm⟩ := three (d := d) (a := a) (b := b) 0 (by decide) (hxw.trans (Nat.add_zero _).symm)
  refine ⟨by decide, hb, finishAR (minor_yes hm <| ?_) hwf⟩
  exact congrArg (Except.ok ∘ Decoded.plain) (congr (congr (congrArg Instr.fadd hd) ha) hb')
theorem fsub (d : Reg) (a : Reg) (b : Reg) : Statement (.fsub d a b) := by
  intro cl op xw hp hwf
  obtain ⟨rfl, rfl, hxw⟩ := parts_eq (k := true) (op := 0x28) (x := d.toNat * 32768 + a.toNat * 1024 + b.toNat * 32 + 1) rfl hp
  obtain ⟨hb, hd, ha, hb', hm⟩ := three (d := d) (a := a) (b := b) 1 (by decide) hxw
  refine ⟨by decide, hb, finishAR (minor_past hm (by decide) <| minor_yes hm <| ?_) hwf⟩
  exact congrArg (Except.ok ∘ Decoded.plain) (congr (congr (congrArg Instr.fsub hd) ha) hb')
theorem fmul (d : Reg) (a : Reg) (b : Reg) : Statement (.fmul d a b) := by
  intro cl op xw hp hwf
  obtain ⟨rfl, rfl, hxw⟩ := parts_eq (k := true) (op := 0x28) (x := d.toNat * 32768 + a.toNat * 1024 + b.toNat * 32 + 2) rfl hp
  obtain ⟨hb, hd, ha, hb', hm⟩ := three (d := d) (a := a) (b := b) 2 (by decide) hxw
  refine ⟨by decide, hb, finishAR (minor_past hm (by decide) <| minor_past hm (by decide) <| minor_yes hm <| ?_) hwf⟩
  exact congrArg (Except.ok ∘ Decoded.plain) (congr (congr (congrArg Instr.fmul hd) ha) hb')
theorem ffma (d : Reg) (a : Reg) (b : Reg) : Statement (.ffma d a b) := by
  intro cl op xw hp hwf
  obtain ⟨rfl, rfl, hxw⟩ := parts_eq (k := true) (op := 0x28) (x := d.toNat * 32768 + a.toNat * 1024 + b.toNat * 32 + 3) rfl hp
  obtain ⟨hb, hd, ha, hb', hm⟩ := three (d := d) (a := a) (b := b) 3 (by decide) hxw
  refine ⟨by decide, hb, finishAR (minor_past hm (by decide) <| minor_past hm (by decide) <| minor_past hm (by decide) <| minor_yes hm <| ?_) hwf⟩
  exact congrArg (Except.ok ∘ Decoded.plain) (congr (congr (congrArg Instr.ffma hd) ha) hb')
theorem fmin (d : Reg) (a : Reg) (b : Reg) : Statement (.fmin d a b) := by
  intro cl op xw hp hwf
  obtain ⟨rfl, rfl, hxw⟩ := parts_eq (k := true) (op := 0x28) (x := d.toNat * 32768 + a.toNat * 1024 + b.toNat * 32 + 4) rfl hp
  obtain ⟨hb, hd, ha, hb', hm⟩ := three (d := d) (a := a) (b := b) 4 (by decide) hxw
  refine ⟨by decide, hb, finishAR (minor_past hm (by decide) <| minor_past hm (by decide) <| minor_past hm (by decide) <| minor_past hm (by decide) <| minor_yes hm <| ?_) hwf⟩
  exact congrArg (Except.ok ∘ Decoded.plain) (congr (congr (congrArg Instr.fmin hd) ha) hb')
theorem fmax (d : Reg) (a : Reg) (b : Reg) : Statement (.fmax d a b) := by
  intro cl op xw hp hwf
  obtain ⟨rfl, rfl, hxw⟩ := parts_eq (k := true) (op := 0x28) (x := d.toNat * 32768 + a.toNat * 1024 + b.toNat * 32 + 5) rfl hp
  obtain ⟨hb, hd, ha, hb', hm⟩ := three (d := d) (a := a) (b := b) 5 (by decide) hxw
  refine ⟨by decide, hb, finishAR (minor_past hm (by decide) <| minor_past hm (by decide) <| minor_past hm (by decide) <| minor_past hm (by decide) <| minor_past hm (by decide) <| minor_yes hm <| ?_) hwf⟩
  exact congrArg (Except.ok ∘ Decoded.plain) (congr (congr (congrArg Instr.fmax hd) ha) hb')
theorem fabs (d : Reg) (a : Reg) : Statement (.fabs d a) := by
  intro cl op xw hp hwf
  obtain ⟨rfl, rfl, hxw⟩ := parts_eq (k := true) (op := 0x28) (x := d.toNat * 32768 + a.toNat * 1024 + 6) rfl hp
  have hd := d.isLt
  have ha := a.isLt
  refine ⟨by decide, by omega, finishAR ?_ hwf⟩
  have hm : xw % 32 = 6 := by omega
  refine minor_past hm (by decide) ?_
  refine minor_past hm (by decide) ?_
  refine minor_past hm (by decide) ?_
  refine minor_past hm (by decide) ?_
  refine minor_past hm (by decide) ?_
  refine minor_past hm (by decide) ?_
  refine minor_yes hm ?_
  refine unless3_yes (by omega) ?_
  exact (congrArg Except.ok (congrArg Decoded.plain (congr (congrArg Instr.fabs (fieldAt (by omega))) (fieldAt (by omega)))))
theorem fneg (d : Reg) (a : Reg) : Statement (.fneg d a) := by
  intro cl op xw hp hwf
  obtain ⟨rfl, rfl, hxw⟩ := parts_eq (k := true) (op := 0x28) (x := d.toNat * 32768 + a.toNat * 1024 + 7) rfl hp
  have hd := d.isLt
  have ha := a.isLt
  refine ⟨by decide, by omega, finishAR ?_ hwf⟩
  have hm : xw % 32 = 7 := by omega
  refine minor_past hm (by decide) ?_
  refine minor_past hm (by decide) ?_
  refine minor_past hm (by decide) ?_
  refine minor_past hm (by decide) ?_
  refine minor_past hm (by decide) ?_
  refine minor_past hm (by decide) ?_
  refine minor_past hm (by decide) ?_
  refine minor_yes hm ?_
  refine unless3_yes (by omega) ?_
  exact (congrArg Except.ok (congrArg Decoded.plain (congr (congrArg Instr.fneg (fieldAt (by omega))) (fieldAt (by omega)))))
theorem fdiv (d : Reg) (a : Reg) (b : Reg) : Statement (.fdiv d a b) := by
  intro cl op xw hp hwf
  obtain ⟨rfl, rfl, hxw⟩ := parts_eq (k := true) (op := 0x28) (x := d.toNat * 32768 + a.toNat * 1024 + b.toNat * 32 + 8) rfl hp
  obtain ⟨hb, hd, ha, hb', hm⟩ := three (d := d) (a := a) (b := b) 8 (by decide) hxw
  refine ⟨by decide, hb, finishAR (minor_past hm (by decide) <| minor_past hm (by decide) <| minor_past hm (by decide) <| minor_past hm (by decide) <| minor_past hm (by decide) <| minor_past hm (by decide) <| minor_past hm (by decide) <| minor_past hm (by decide) <| minor_yes hm <| ?_) hwf⟩
  exact congrArg (Except.ok ∘ Decoded.plain) (congr (congr (congrArg Instr.fdiv hd) ha) hb')
theorem fsqrt (d : Reg) (a : Reg) : Statement (.fsqrt d a) := by
  intro cl op xw hp hwf
  obtain ⟨rfl, rfl, hxw⟩ := parts_eq (k := true) (op := 0x28) (x := d.toNat * 32768 + a.toNat * 1024 + 9) rfl hp
  have hd := d.isLt
  have ha := a.isLt
  refine ⟨by decide, by omega, finishAR ?_ hwf⟩
  have hm : xw % 32 = 9 := by omega
  refine minor_past hm (by decide) ?_
  refine minor_past hm (by decide) ?_
  refine minor_past hm (by decide) ?_
  refine minor_past hm (by decide) ?_
  refine minor_past hm (by decide) ?_
  refine minor_past hm (by decide) ?_
  refine minor_past hm (by decide) ?_
  refine minor_past hm (by decide) ?_
  refine minor_past hm (by decide) ?_
  refine minor_yes hm ?_
  refine unless3_yes (by omega) ?_
  exact (congrArg Except.ok (congrArg Decoded.plain (congr (congrArg Instr.fsqrt (fieldAt (by omega))) (fieldAt (by omega)))))
theorem fclass (d : Reg) (a : Reg) : Statement (.fclass d a) := by
  intro cl op xw hp hwf
  obtain ⟨rfl, rfl, hxw⟩ := parts_eq (k := true) (op := 0x28) (x := d.toNat * 32768 + a.toNat * 1024 + 10) rfl hp
  have hd := d.isLt
  have ha := a.isLt
  refine ⟨by decide, by omega, finishAR ?_ hwf⟩
  have hm : xw % 32 = 10 := by omega
  refine minor_past hm (by decide) ?_
  refine minor_past hm (by decide) ?_
  refine minor_past hm (by decide) ?_
  refine minor_past hm (by decide) ?_
  refine minor_past hm (by decide) ?_
  refine minor_past hm (by decide) ?_
  refine minor_past hm (by decide) ?_
  refine minor_past hm (by decide) ?_
  refine minor_past hm (by decide) ?_
  refine minor_past hm (by decide) ?_
  refine minor_yes hm ?_
  refine unless3_yes (by omega) ?_
  exact (congrArg Except.ok (congrArg Decoded.plain (congr (congrArg Instr.fclass (fieldAt (by omega))) (fieldAt (by omega)))))
theorem fcmp (d : BitVec 3) (a : Reg) (b : Reg) (c : FCond) : Statement (.fcmp d a b c) := by
  intro cl op xw hp hwf
  obtain ⟨rfl, rfl, hxw⟩ := parts_eq (k := true) (op := 0x29) (x := d.toNat * 32768 + a.toNat * 1024 + b.toNat * 32 + c.code) rfl hp
  have hd := d.isLt
  have ha := a.isLt
  have hb := b.isLt
  have hc := fcond_lt c
  refine ⟨by decide, by omega, finishAR ?_ hwf⟩
  refine reserved_yes (code3At (v := d) (by omega)) ?_
  refine reserved_yes (fcondAt (c := c) (by omega)) ?_
  exact (congrArg Except.ok (congrArg Decoded.plain (congrFun (congr (congr (congrArg Instr.fcmp (rfl)) (fieldAt (by omega))) (fieldAt (by omega))) _)))
theorem fcvt (d : Reg) (a : Reg) (x : Fmt) (c : Rnd) (r : Bool) : Statement (.fcvt d a x c r) := by
  intro cl op xw hp hwf
  obtain ⟨rfl, rfl, hxw⟩ := parts_eq (k := true) (op := 0x2A) (x := d.toNat * 32768 + a.toNat * 1024 + x.code * 32 + c.code * 4 + (if r then 1 else 0)) rfl hp
  have hd := d.isLt
  have ha := a.isLt
  have hx := fmt_lt x
  have hc := rnd_lt c
  have hr := bit_lt r
  refine ⟨by decide, by omega, finishAR ?_ hwf⟩
  refine minor_yes (by omega) ?_
  refine reserved_yes (fmtAt (c := x) (by omega)) ?_
  refine reserved_yes (rndAt (c := c) (by omega)) ?_
  exact (congrArg Except.ok (congrArg Decoded.plain (congr (congrFun (congrFun (congr (congrArg Instr.fcvt (fieldAt (by omega))) (fieldAt (by omega))) _) _) (bitAt (by omega)))))
theorem vadd (d : Reg) (a : Reg) (b : Reg) (m : BitVec 3) (e : EW) : Statement (.vadd d a b m e) := by
  intro cl op xw hp hwf
  obtain ⟨rfl, rfl, hxw⟩ := parts_eq (k := true) (op := 0x30) (x := d.toNat * 32768 + a.toNat * 1024 + b.toNat * 32 + m.toNat * 4 + e.code) rfl hp
  obtain ⟨hb, hd, ha, hb', hm, he⟩ := five hxw
  refine ⟨by decide, hb, finishAR (reserved_yes he ?_) hwf⟩
  exact congrArg (Except.ok ∘ Decoded.plain) (congrFun (congr (congr (congr (congrArg Instr.vadd hd) ha) hb') hm) _)
theorem vsub (d : Reg) (a : Reg) (b : Reg) (m : BitVec 3) (e : EW) : Statement (.vsub d a b m e) := by
  intro cl op xw hp hwf
  obtain ⟨rfl, rfl, hxw⟩ := parts_eq (k := true) (op := 0x31) (x := d.toNat * 32768 + a.toNat * 1024 + b.toNat * 32 + m.toNat * 4 + e.code) rfl hp
  obtain ⟨hb, hd, ha, hb', hm, he⟩ := five hxw
  refine ⟨by decide, hb, finishAR (reserved_yes he ?_) hwf⟩
  exact congrArg (Except.ok ∘ Decoded.plain) (congrFun (congr (congr (congr (congrArg Instr.vsub hd) ha) hb') hm) _)
theorem vmul (d : Reg) (a : Reg) (b : Reg) (m : BitVec 3) (e : EW) : Statement (.vmul d a b m e) := by
  intro cl op xw hp hwf
  obtain ⟨rfl, rfl, hxw⟩ := parts_eq (k := true) (op := 0x32) (x := d.toNat * 32768 + a.toNat * 1024 + b.toNat * 32 + m.toNat * 4 + e.code) rfl hp
  obtain ⟨hb, hd, ha, hb', hm, he⟩ := five hxw
  refine ⟨by decide, hb, finishAR (reserved_yes he ?_) hwf⟩
  exact congrArg (Except.ok ∘ Decoded.plain) (congrFun (congr (congr (congr (congrArg Instr.vmul hd) ha) hb') hm) _)
theorem vmulhI (d : Reg) (a : Reg) (b : Reg) (m : BitVec 3) (e : EW) : Statement (.vmulhI d a b m e) := by
  intro cl op xw hp hwf
  obtain ⟨rfl, rfl, hxw⟩ := parts_eq (k := true) (op := 0x33) (x := d.toNat * 32768 + a.toNat * 1024 + b.toNat * 32 + m.toNat * 4 + e.code) rfl hp
  obtain ⟨hb, hd, ha, hb', hm, he⟩ := five hxw
  refine ⟨by decide, hb, finishAR (reserved_yes he ?_) hwf⟩
  exact congrArg (Except.ok ∘ Decoded.plain) (congrFun (congr (congr (congr (congrArg Instr.vmulhI hd) ha) hb') hm) _)
theorem vmulhN (d : Reg) (a : Reg) (b : Reg) (m : BitVec 3) (e : EW) : Statement (.vmulhN d a b m e) := by
  intro cl op xw hp hwf
  obtain ⟨rfl, rfl, hxw⟩ := parts_eq (k := true) (op := 0x34) (x := d.toNat * 32768 + a.toNat * 1024 + b.toNat * 32 + m.toNat * 4 + e.code) rfl hp
  obtain ⟨hb, hd, ha, hb', hm, he⟩ := five hxw
  refine ⟨by decide, hb, finishAR (reserved_yes he ?_) hwf⟩
  exact congrArg (Except.ok ∘ Decoded.plain) (congrFun (congr (congr (congr (congrArg Instr.vmulhN hd) ha) hb') hm) _)
theorem vmacI (d : Reg) (a : Reg) (b : Reg) (m : BitVec 3) (g : BitVec 2) : Statement (.vmacI d a b m g) := by
  intro cl op xw hp hwf
  obtain ⟨rfl, rfl, hxw⟩ := parts_eq (k := true) (op := 0x35) (x := d.toNat * 32768 + a.toNat * 1024 + b.toNat * 32 + m.toNat * 4 + g.toNat) rfl hp
  have hd := d.isLt
  have ha := a.isLt
  have hb := b.isLt
  have hm := m.isLt
  have hg := g.isLt
  refine ⟨by decide, by omega, finishAR ?_ hwf⟩
  exact (congrArg Except.ok (congrArg Decoded.plain (congr (congr (congr (congr (congrArg Instr.vmacI (fieldAt (by omega))) (fieldAt (by omega))) (fieldAt (by omega))) (fieldAt (by omega))) (fieldAt (by omega)))))
theorem vmacN (d : Reg) (a : Reg) (b : Reg) (m : BitVec 3) (g : BitVec 2) : Statement (.vmacN d a b m g) := by
  intro cl op xw hp hwf
  obtain ⟨rfl, rfl, hxw⟩ := parts_eq (k := true) (op := 0x36) (x := d.toNat * 32768 + a.toNat * 1024 + b.toNat * 32 + m.toNat * 4 + g.toNat) rfl hp
  have hd := d.isLt
  have ha := a.isLt
  have hb := b.isLt
  have hm := m.isLt
  have hg := g.isLt
  refine ⟨by decide, by omega, finishAR ?_ hwf⟩
  exact (congrArg Except.ok (congrArg Decoded.plain (congr (congr (congr (congr (congrArg Instr.vmacN (fieldAt (by omega))) (fieldAt (by omega))) (fieldAt (by omega))) (fieldAt (by omega))) (fieldAt (by omega)))))
theorem vdotI (d : Reg) (a : Reg) (b : Reg) (m : BitVec 3) : Statement (.vdotI d a b m) := by
  intro cl op xw hp hwf
  obtain ⟨rfl, rfl, hxw⟩ := parts_eq (k := true) (op := 0x37) (x := d.toNat * 32768 + a.toNat * 1024 + b.toNat * 32 + m.toNat * 4 + 2) rfl hp
  have hd := d.isLt
  have ha := a.isLt
  have hb := b.isLt
  have hm := m.isLt
  refine ⟨by decide, by omega, finishAR ?_ hwf⟩
  refine unless4_yes (by omega) ?_
  exact (congrArg Except.ok (congrArg Decoded.plain (congr (congr (congr (congrArg Instr.vdotI (fieldAt (by omega))) (fieldAt (by omega))) (fieldAt (by omega))) (fieldAt (by omega)))))
theorem vdotN (d : Reg) (a : Reg) (b : Reg) (m : BitVec 3) : Statement (.vdotN d a b m) := by
  intro cl op xw hp hwf
  obtain ⟨rfl, rfl, hxw⟩ := parts_eq (k := true) (op := 0x38) (x := d.toNat * 32768 + a.toNat * 1024 + b.toNat * 32 + m.toNat * 4 + 2) rfl hp
  have hd := d.isLt
  have ha := a.isLt
  have hb := b.isLt
  have hm := m.isLt
  refine ⟨by decide, by omega, finishAR ?_ hwf⟩
  refine unless4_yes (by omega) ?_
  exact (congrArg Except.ok (congrArg Decoded.plain (congr (congr (congr (congrArg Instr.vdotN (fieldAt (by omega))) (fieldAt (by omega))) (fieldAt (by omega))) (fieldAt (by omega)))))
theorem vand (d : Reg) (a : Reg) (b : Reg) (m : BitVec 3) (e : EW) : Statement (.vand d a b m e) := by
  intro cl op xw hp hwf
  obtain ⟨rfl, rfl, hxw⟩ := parts_eq (k := true) (op := 0x39) (x := d.toNat * 32768 + a.toNat * 1024 + b.toNat * 32 + m.toNat * 4 + e.code) rfl hp
  obtain ⟨hb, hd, ha, hb', hm, he⟩ := five hxw
  refine ⟨by decide, hb, finishAR (reserved_yes he ?_) hwf⟩
  exact congrArg (Except.ok ∘ Decoded.plain) (congrFun (congr (congr (congr (congrArg Instr.vand hd) ha) hb') hm) _)
theorem vor (d : Reg) (a : Reg) (b : Reg) (m : BitVec 3) (e : EW) : Statement (.vor d a b m e) := by
  intro cl op xw hp hwf
  obtain ⟨rfl, rfl, hxw⟩ := parts_eq (k := true) (op := 0x3A) (x := d.toNat * 32768 + a.toNat * 1024 + b.toNat * 32 + m.toNat * 4 + e.code) rfl hp
  obtain ⟨hb, hd, ha, hb', hm, he⟩ := five hxw
  refine ⟨by decide, hb, finishAR (reserved_yes he ?_) hwf⟩
  exact congrArg (Except.ok ∘ Decoded.plain) (congrFun (congr (congr (congr (congrArg Instr.vor hd) ha) hb') hm) _)
theorem vxor (d : Reg) (a : Reg) (b : Reg) (m : BitVec 3) (e : EW) : Statement (.vxor d a b m e) := by
  intro cl op xw hp hwf
  obtain ⟨rfl, rfl, hxw⟩ := parts_eq (k := true) (op := 0x3B) (x := d.toNat * 32768 + a.toNat * 1024 + b.toNat * 32 + m.toNat * 4 + e.code) rfl hp
  obtain ⟨hb, hd, ha, hb', hm, he⟩ := five hxw
  refine ⟨by decide, hb, finishAR (reserved_yes he ?_) hwf⟩
  exact congrArg (Except.ok ∘ Decoded.plain) (congrFun (congr (congr (congr (congrArg Instr.vxor hd) ha) hb') hm) _)
theorem vshl (d : Reg) (a : Reg) (b : Reg) (m : BitVec 3) (e : EW) : Statement (.vshl d a b m e) := by
  intro cl op xw hp hwf
  obtain ⟨rfl, rfl, hxw⟩ := parts_eq (k := true) (op := 0x3C) (x := d.toNat * 32768 + a.toNat * 1024 + b.toNat * 32 + m.toNat * 4 + e.code) rfl hp
  obtain ⟨hb, hd, ha, hb', hm, he⟩ := five hxw
  refine ⟨by decide, hb, finishAR (reserved_yes he ?_) hwf⟩
  exact congrArg (Except.ok ∘ Decoded.plain) (congrFun (congr (congr (congr (congrArg Instr.vshl hd) ha) hb') hm) _)
theorem vshr (d : Reg) (a : Reg) (b : Reg) (m : BitVec 3) (e : EW) : Statement (.vshr d a b m e) := by
  intro cl op xw hp hwf
  obtain ⟨rfl, rfl, hxw⟩ := parts_eq (k := true) (op := 0x3D) (x := d.toNat * 32768 + a.toNat * 1024 + b.toNat * 32 + m.toNat * 4 + e.code) rfl hp
  obtain ⟨hb, hd, ha, hb', hm, he⟩ := five hxw
  refine ⟨by decide, hb, finishAR (reserved_yes he ?_) hwf⟩
  exact congrArg (Except.ok ∘ Decoded.plain) (congrFun (congr (congr (congr (congrArg Instr.vshr hd) ha) hb') hm) _)
theorem vsra (d : Reg) (a : Reg) (b : Reg) (m : BitVec 3) (e : EW) : Statement (.vsra d a b m e) := by
  intro cl op xw hp hwf
  obtain ⟨rfl, rfl, hxw⟩ := parts_eq (k := true) (op := 0x3E) (x := d.toNat * 32768 + a.toNat * 1024 + b.toNat * 32 + m.toNat * 4 + e.code) rfl hp
  obtain ⟨hb, hd, ha, hb', hm, he⟩ := five hxw
  refine ⟨by decide, hb, finishAR (reserved_yes he ?_) hwf⟩
  exact congrArg (Except.ok ∘ Decoded.plain) (congrFun (congr (congr (congr (congrArg Instr.vsra hd) ha) hb') hm) _)
theorem vminI (d : Reg) (a : Reg) (b : Reg) (m : BitVec 3) (e : EW) : Statement (.vminI d a b m e) := by
  intro cl op xw hp hwf
  obtain ⟨rfl, rfl, hxw⟩ := parts_eq (k := true) (op := 0x3F) (x := d.toNat * 32768 + a.toNat * 1024 + b.toNat * 32 + m.toNat * 4 + e.code) rfl hp
  obtain ⟨hb, hd, ha, hb', hm, he⟩ := five hxw
  refine ⟨by decide, hb, finishAR (reserved_yes he ?_) hwf⟩
  exact congrArg (Except.ok ∘ Decoded.plain) (congrFun (congr (congr (congr (congrArg Instr.vminI hd) ha) hb') hm) _)
theorem vminN (d : Reg) (a : Reg) (b : Reg) (m : BitVec 3) (e : EW) : Statement (.vminN d a b m e) := by
  intro cl op xw hp hwf
  obtain ⟨rfl, rfl, hxw⟩ := parts_eq (k := true) (op := 0x40) (x := d.toNat * 32768 + a.toNat * 1024 + b.toNat * 32 + m.toNat * 4 + e.code) rfl hp
  obtain ⟨hb, hd, ha, hb', hm, he⟩ := five hxw
  refine ⟨by decide, hb, finishAR (reserved_yes he ?_) hwf⟩
  exact congrArg (Except.ok ∘ Decoded.plain) (congrFun (congr (congr (congr (congrArg Instr.vminN hd) ha) hb') hm) _)
theorem vmaxI (d : Reg) (a : Reg) (b : Reg) (m : BitVec 3) (e : EW) : Statement (.vmaxI d a b m e) := by
  intro cl op xw hp hwf
  obtain ⟨rfl, rfl, hxw⟩ := parts_eq (k := true) (op := 0x41) (x := d.toNat * 32768 + a.toNat * 1024 + b.toNat * 32 + m.toNat * 4 + e.code) rfl hp
  obtain ⟨hb, hd, ha, hb', hm, he⟩ := five hxw
  refine ⟨by decide, hb, finishAR (reserved_yes he ?_) hwf⟩
  exact congrArg (Except.ok ∘ Decoded.plain) (congrFun (congr (congr (congr (congrArg Instr.vmaxI hd) ha) hb') hm) _)
theorem vmaxN (d : Reg) (a : Reg) (b : Reg) (m : BitVec 3) (e : EW) : Statement (.vmaxN d a b m e) := by
  intro cl op xw hp hwf
  obtain ⟨rfl, rfl, hxw⟩ := parts_eq (k := true) (op := 0x42) (x := d.toNat * 32768 + a.toNat * 1024 + b.toNat * 32 + m.toNat * 4 + e.code) rfl hp
  obtain ⟨hb, hd, ha, hb', hm, he⟩ := five hxw
  refine ⟨by decide, hb, finishAR (reserved_yes he ?_) hwf⟩
  exact congrArg (Except.ok ∘ Decoded.plain) (congrFun (congr (congr (congr (congrArg Instr.vmaxN hd) ha) hb') hm) _)
theorem vabs (d : Reg) (a : Reg) (m : BitVec 3) (e : EW) : Statement (.vabs d a m e) := by
  intro cl op xw hp hwf
  obtain ⟨rfl, rfl, hxw⟩ := parts_eq (k := true) (op := 0x43) (x := d.toNat * 32768 + a.toNat * 1024 + m.toNat * 4 + e.code) rfl hp
  have hd := d.isLt
  have ha := a.isLt
  have hm := m.isLt
  have he := ew_lt e
  refine ⟨by decide, by omega, finishAR ?_ hwf⟩
  refine unless3_yes (by omega) ?_
  refine reserved_yes (ewAt (c := e) (by omega)) ?_
  exact (congrArg Except.ok (congrArg Decoded.plain (congrFun (congr (congr (congrArg Instr.vabs (fieldAt (by omega))) (fieldAt (by omega))) (fieldAt (by omega))) _)))
theorem vaddsatI (d : Reg) (a : Reg) (b : Reg) (m : BitVec 3) (e : EW) : Statement (.vaddsatI d a b m e) := by
  intro cl op xw hp hwf
  obtain ⟨rfl, rfl, hxw⟩ := parts_eq (k := true) (op := 0x44) (x := d.toNat * 32768 + a.toNat * 1024 + b.toNat * 32 + m.toNat * 4 + e.code) rfl hp
  obtain ⟨hb, hd, ha, hb', hm, he⟩ := five hxw
  refine ⟨by decide, hb, finishAR (reserved_yes he ?_) hwf⟩
  exact congrArg (Except.ok ∘ Decoded.plain) (congrFun (congr (congr (congr (congrArg Instr.vaddsatI hd) ha) hb') hm) _)
theorem vaddsatN (d : Reg) (a : Reg) (b : Reg) (m : BitVec 3) (e : EW) : Statement (.vaddsatN d a b m e) := by
  intro cl op xw hp hwf
  obtain ⟨rfl, rfl, hxw⟩ := parts_eq (k := true) (op := 0x45) (x := d.toNat * 32768 + a.toNat * 1024 + b.toNat * 32 + m.toNat * 4 + e.code) rfl hp
  obtain ⟨hb, hd, ha, hb', hm, he⟩ := five hxw
  refine ⟨by decide, hb, finishAR (reserved_yes he ?_) hwf⟩
  exact congrArg (Except.ok ∘ Decoded.plain) (congrFun (congr (congr (congr (congrArg Instr.vaddsatN hd) ha) hb') hm) _)
theorem vsubsatI (d : Reg) (a : Reg) (b : Reg) (m : BitVec 3) (e : EW) : Statement (.vsubsatI d a b m e) := by
  intro cl op xw hp hwf
  obtain ⟨rfl, rfl, hxw⟩ := parts_eq (k := true) (op := 0x46) (x := d.toNat * 32768 + a.toNat * 1024 + b.toNat * 32 + m.toNat * 4 + e.code) rfl hp
  obtain ⟨hb, hd, ha, hb', hm, he⟩ := five hxw
  refine ⟨by decide, hb, finishAR (reserved_yes he ?_) hwf⟩
  exact congrArg (Except.ok ∘ Decoded.plain) (congrFun (congr (congr (congr (congrArg Instr.vsubsatI hd) ha) hb') hm) _)
theorem vsubsatN (d : Reg) (a : Reg) (b : Reg) (m : BitVec 3) (e : EW) : Statement (.vsubsatN d a b m e) := by
  intro cl op xw hp hwf
  obtain ⟨rfl, rfl, hxw⟩ := parts_eq (k := true) (op := 0x47) (x := d.toNat * 32768 + a.toNat * 1024 + b.toNat * 32 + m.toNat * 4 + e.code) rfl hp
  obtain ⟨hb, hd, ha, hb', hm, he⟩ := five hxw
  refine ⟨by decide, hb, finishAR (reserved_yes he ?_) hwf⟩
  exact congrArg (Except.ok ∘ Decoded.plain) (congrFun (congr (congr (congr (congrArg Instr.vsubsatN hd) ha) hb') hm) _)
theorem vrshrI (d : Reg) (a : Reg) (b : Reg) (m : BitVec 3) (e : EW) : Statement (.vrshrI d a b m e) := by
  intro cl op xw hp hwf
  obtain ⟨rfl, rfl, hxw⟩ := parts_eq (k := true) (op := 0x48) (x := d.toNat * 32768 + a.toNat * 1024 + b.toNat * 32 + m.toNat * 4 + e.code) rfl hp
  obtain ⟨hb, hd, ha, hb', hm, he⟩ := five hxw
  refine ⟨by decide, hb, finishAR (reserved_yes he ?_) hwf⟩
  exact congrArg (Except.ok ∘ Decoded.plain) (congrFun (congr (congr (congr (congrArg Instr.vrshrI hd) ha) hb') hm) _)
theorem vrshrN (d : Reg) (a : Reg) (b : Reg) (m : BitVec 3) (e : EW) : Statement (.vrshrN d a b m e) := by
  intro cl op xw hp hwf
  obtain ⟨rfl, rfl, hxw⟩ := parts_eq (k := true) (op := 0x49) (x := d.toNat * 32768 + a.toNat * 1024 + b.toNat * 32 + m.toNat * 4 + e.code) rfl hp
  obtain ⟨hb, hd, ha, hb', hm, he⟩ := five hxw
  refine ⟨by decide, hb, finishAR (reserved_yes he ?_) hwf⟩
  exact congrArg (Except.ok ∘ Decoded.plain) (congrFun (congr (congr (congr (congrArg Instr.vrshrN hd) ha) hb') hm) _)
theorem vclampI (d : Reg) (a : Reg) (b : Reg) (m : BitVec 3) (e : EW) : Statement (.vclampI d a b m e) := by
  intro cl op xw hp hwf
  obtain ⟨rfl, rfl, hxw⟩ := parts_eq (k := true) (op := 0x4A) (x := d.toNat * 32768 + a.toNat * 1024 + b.toNat * 32 + m.toNat * 4 + e.code) rfl hp
  obtain ⟨hb, hd, ha, hb', hm, he⟩ := five hxw
  refine ⟨by decide, hb, finishAR (reserved_yes he ?_) hwf⟩
  exact congrArg (Except.ok ∘ Decoded.plain) (congrFun (congr (congr (congr (congrArg Instr.vclampI hd) ha) hb') hm) _)
theorem vclampN (d : Reg) (a : Reg) (b : Reg) (m : BitVec 3) (e : EW) : Statement (.vclampN d a b m e) := by
  intro cl op xw hp hwf
  obtain ⟨rfl, rfl, hxw⟩ := parts_eq (k := true) (op := 0x4B) (x := d.toNat * 32768 + a.toNat * 1024 + b.toNat * 32 + m.toNat * 4 + e.code) rfl hp
  obtain ⟨hb, hd, ha, hb', hm, he⟩ := five hxw
  refine ⟨by decide, hb, finishAR (reserved_yes he ?_) hwf⟩
  exact congrArg (Except.ok ∘ Decoded.plain) (congrFun (congr (congr (congr (congrArg Instr.vclampN hd) ha) hb') hm) _)
theorem vcmpI (d : BitVec 3) (a : Reg) (x : Reg) (c : VCond) (e : EW) : Statement (.vcmpI d a x c e) := by
  intro cl op xw hp hwf
  obtain ⟨rfl, rfl, hxw⟩ := parts_eq (k := true) (op := 0x4C) (x := d.toNat * 32768 + a.toNat * 1024 + x.toNat * 32 + c.code * 4 + e.code) rfl hp
  have hd := d.isLt
  have ha := a.isLt
  have hx := x.isLt
  have hc := vcond_lt c
  have he := ew_lt e
  refine ⟨by decide, by omega, finishAR ?_ hwf⟩
  refine reserved_yes (code3At (v := d) (by omega)) ?_
  refine reserved_yes (vcondAt (c := c) (by omega)) ?_
  refine reserved_yes (ewAt (c := e) (by omega)) ?_
  exact (congrArg Except.ok (congrArg Decoded.plain (congrFun (congrFun (congr (congr (congrArg Instr.vcmpI (rfl)) (fieldAt (by omega))) (fieldAt (by omega))) _) _)))
theorem vcmpN (d : BitVec 3) (a : Reg) (x : Reg) (c : VCond) (e : EW) : Statement (.vcmpN d a x c e) := by
  intro cl op xw hp hwf
  obtain ⟨rfl, rfl, hxw⟩ := parts_eq (k := true) (op := 0x4D) (x := d.toNat * 32768 + a.toNat * 1024 + x.toNat * 32 + c.code * 4 + e.code) rfl hp
  have hd := d.isLt
  have ha := a.isLt
  have hx := x.isLt
  have hc := vcond_lt c
  have he := ew_lt e
  refine ⟨by decide, by omega, finishAR ?_ hwf⟩
  refine reserved_yes (code3At (v := d) (by omega)) ?_
  refine reserved_yes (vcondAt (c := c) (by omega)) ?_
  refine reserved_yes (ewAt (c := e) (by omega)) ?_
  exact (congrArg Except.ok (congrArg Decoded.plain (congrFun (congrFun (congr (congr (congrArg Instr.vcmpN (rfl)) (fieldAt (by omega))) (fieldAt (by omega))) _) _)))
theorem vfadd (d : Reg) (a : Reg) (b : Reg) (m : BitVec 3) : Statement (.vfadd d a b m) := by
  intro cl op xw hp hwf
  obtain ⟨rfl, rfl, hxw⟩ := parts_eq (k := true) (op := 0x50) (x := d.toNat * 32768 + a.toNat * 1024 + b.toNat * 32 + m.toNat * 4) rfl hp
  have hd := d.isLt
  have ha := a.isLt
  have hb := b.isLt
  have hm := m.isLt
  refine ⟨by decide, by omega, finishAR ?_ hwf⟩
  refine unless4_yes (by omega) ?_
  exact (congrArg Except.ok (congrArg Decoded.plain (congr (congr (congr (congrArg Instr.vfadd (fieldAt (by omega))) (fieldAt (by omega))) (fieldAt (by omega))) (fieldAt (by omega)))))
theorem vfsub (d : Reg) (a : Reg) (b : Reg) (m : BitVec 3) : Statement (.vfsub d a b m) := by
  intro cl op xw hp hwf
  obtain ⟨rfl, rfl, hxw⟩ := parts_eq (k := true) (op := 0x51) (x := d.toNat * 32768 + a.toNat * 1024 + b.toNat * 32 + m.toNat * 4) rfl hp
  have hd := d.isLt
  have ha := a.isLt
  have hb := b.isLt
  have hm := m.isLt
  refine ⟨by decide, by omega, finishAR ?_ hwf⟩
  refine unless4_yes (by omega) ?_
  exact (congrArg Except.ok (congrArg Decoded.plain (congr (congr (congr (congrArg Instr.vfsub (fieldAt (by omega))) (fieldAt (by omega))) (fieldAt (by omega))) (fieldAt (by omega)))))
theorem vfmul (d : Reg) (a : Reg) (b : Reg) (m : BitVec 3) : Statement (.vfmul d a b m) := by
  intro cl op xw hp hwf
  obtain ⟨rfl, rfl, hxw⟩ := parts_eq (k := true) (op := 0x52) (x := d.toNat * 32768 + a.toNat * 1024 + b.toNat * 32 + m.toNat * 4) rfl hp
  have hd := d.isLt
  have ha := a.isLt
  have hb := b.isLt
  have hm := m.isLt
  refine ⟨by decide, by omega, finishAR ?_ hwf⟩
  refine unless4_yes (by omega) ?_
  exact (congrArg Except.ok (congrArg Decoded.plain (congr (congr (congr (congrArg Instr.vfmul (fieldAt (by omega))) (fieldAt (by omega))) (fieldAt (by omega))) (fieldAt (by omega)))))
theorem vffma (d : Reg) (a : Reg) (b : Reg) (m : BitVec 3) : Statement (.vffma d a b m) := by
  intro cl op xw hp hwf
  obtain ⟨rfl, rfl, hxw⟩ := parts_eq (k := true) (op := 0x53) (x := d.toNat * 32768 + a.toNat * 1024 + b.toNat * 32 + m.toNat * 4) rfl hp
  have hd := d.isLt
  have ha := a.isLt
  have hb := b.isLt
  have hm := m.isLt
  refine ⟨by decide, by omega, finishAR ?_ hwf⟩
  refine unless4_yes (by omega) ?_
  exact (congrArg Except.ok (congrArg Decoded.plain (congr (congr (congr (congrArg Instr.vffma (fieldAt (by omega))) (fieldAt (by omega))) (fieldAt (by omega))) (fieldAt (by omega)))))
theorem vfmin (d : Reg) (a : Reg) (b : Reg) (m : BitVec 3) : Statement (.vfmin d a b m) := by
  intro cl op xw hp hwf
  obtain ⟨rfl, rfl, hxw⟩ := parts_eq (k := true) (op := 0x54) (x := d.toNat * 32768 + a.toNat * 1024 + b.toNat * 32 + m.toNat * 4) rfl hp
  have hd := d.isLt
  have ha := a.isLt
  have hb := b.isLt
  have hm := m.isLt
  refine ⟨by decide, by omega, finishAR ?_ hwf⟩
  refine unless4_yes (by omega) ?_
  exact (congrArg Except.ok (congrArg Decoded.plain (congr (congr (congr (congrArg Instr.vfmin (fieldAt (by omega))) (fieldAt (by omega))) (fieldAt (by omega))) (fieldAt (by omega)))))
theorem vfmax (d : Reg) (a : Reg) (b : Reg) (m : BitVec 3) : Statement (.vfmax d a b m) := by
  intro cl op xw hp hwf
  obtain ⟨rfl, rfl, hxw⟩ := parts_eq (k := true) (op := 0x55) (x := d.toNat * 32768 + a.toNat * 1024 + b.toNat * 32 + m.toNat * 4) rfl hp
  have hd := d.isLt
  have ha := a.isLt
  have hb := b.isLt
  have hm := m.isLt
  refine ⟨by decide, by omega, finishAR ?_ hwf⟩
  refine unless4_yes (by omega) ?_
  exact (congrArg Except.ok (congrArg Decoded.plain (congr (congr (congr (congrArg Instr.vfmax (fieldAt (by omega))) (fieldAt (by omega))) (fieldAt (by omega))) (fieldAt (by omega)))))
theorem vfexp2 (d : Reg) (a : Reg) (m : BitVec 3) : Statement (.vfexp2 d a m) := by
  intro cl op xw hp hwf
  obtain ⟨rfl, rfl, hxw⟩ := parts_eq (k := true) (op := 0x56) (x := d.toNat * 32768 + a.toNat * 1024 + m.toNat * 4) rfl hp
  have hd := d.isLt
  have ha := a.isLt
  have hm := m.isLt
  refine ⟨by decide, by omega, finishAR ?_ hwf⟩
  refine unless3_yes (by omega) ?_
  refine unless4_yes (by omega) ?_
  exact (congrArg Except.ok (congrArg Decoded.plain (congr (congr (congrArg Instr.vfexp2 (fieldAt (by omega))) (fieldAt (by omega))) (fieldAt (by omega)))))
theorem vflog2 (d : Reg) (a : Reg) (m : BitVec 3) : Statement (.vflog2 d a m) := by
  intro cl op xw hp hwf
  obtain ⟨rfl, rfl, hxw⟩ := parts_eq (k := true) (op := 0x57) (x := d.toNat * 32768 + a.toNat * 1024 + m.toNat * 4) rfl hp
  have hd := d.isLt
  have ha := a.isLt
  have hm := m.isLt
  refine ⟨by decide, by omega, finishAR ?_ hwf⟩
  refine unless3_yes (by omega) ?_
  refine unless4_yes (by omega) ?_
  exact (congrArg Except.ok (congrArg Decoded.plain (congr (congr (congrArg Instr.vflog2 (fieldAt (by omega))) (fieldAt (by omega))) (fieldAt (by omega)))))
theorem vfrcp (d : Reg) (a : Reg) (m : BitVec 3) : Statement (.vfrcp d a m) := by
  intro cl op xw hp hwf
  obtain ⟨rfl, rfl, hxw⟩ := parts_eq (k := true) (op := 0x58) (x := d.toNat * 32768 + a.toNat * 1024 + m.toNat * 4) rfl hp
  have hd := d.isLt
  have ha := a.isLt
  have hm := m.isLt
  refine ⟨by decide, by omega, finishAR ?_ hwf⟩
  refine unless3_yes (by omega) ?_
  refine unless4_yes (by omega) ?_
  exact (congrArg Except.ok (congrArg Decoded.plain (congr (congr (congrArg Instr.vfrcp (fieldAt (by omega))) (fieldAt (by omega))) (fieldAt (by omega)))))
theorem vfrsq (d : Reg) (a : Reg) (m : BitVec 3) : Statement (.vfrsq d a m) := by
  intro cl op xw hp hwf
  obtain ⟨rfl, rfl, hxw⟩ := parts_eq (k := true) (op := 0x59) (x := d.toNat * 32768 + a.toNat * 1024 + m.toNat * 4) rfl hp
  have hd := d.isLt
  have ha := a.isLt
  have hm := m.isLt
  refine ⟨by decide, by omega, finishAR ?_ hwf⟩
  refine unless3_yes (by omega) ?_
  refine unless4_yes (by omega) ?_
  exact (congrArg Except.ok (congrArg Decoded.plain (congr (congr (congrArg Instr.vfrsq (fieldAt (by omega))) (fieldAt (by omega))) (fieldAt (by omega)))))
theorem vmov (d : Reg) (a : Reg) (m : BitVec 3) : Statement (.vmov d a m) := by
  intro cl op xw hp hwf
  obtain ⟨rfl, rfl, hxw⟩ := parts_eq (k := true) (op := 0x60) (x := d.toNat * 32768 + a.toNat * 1024 + m.toNat * 4) rfl hp
  have hd := d.isLt
  have ha := a.isLt
  have hm := m.isLt
  refine ⟨by decide, by omega, finishAR ?_ hwf⟩
  refine unless3_yes (by omega) ?_
  exact (congrArg Except.ok (congrArg Decoded.plain (congr (congr (congrArg Instr.vmov (fieldAt (by omega))) (fieldAt (by omega))) (fieldAt (by omega)))))
theorem vsplat (d : Reg) (a : Reg) (m : BitVec 3) (e : EW) : Statement (.vsplat d a m e) := by
  intro cl op xw hp hwf
  obtain ⟨rfl, rfl, hxw⟩ := parts_eq (k := true) (op := 0x61) (x := d.toNat * 32768 + a.toNat * 1024 + m.toNat * 4 + e.code) rfl hp
  have hd := d.isLt
  have ha := a.isLt
  have hm := m.isLt
  have he := ew_lt e
  refine ⟨by decide, by omega, finishAR ?_ hwf⟩
  refine unless3_yes (by omega) ?_
  refine reserved_yes (ewAt (c := e) (by omega)) ?_
  exact (congrArg Except.ok (congrArg Decoded.plain (congrFun (congr (congr (congrArg Instr.vsplat (fieldAt (by omega))) (fieldAt (by omega))) (fieldAt (by omega))) _)))
theorem vext (d : Reg) (a : Reg) (b : Reg) (e : EW) : Statement (.vext d a b e) := by
  intro cl op xw hp hwf
  obtain ⟨rfl, rfl, hxw⟩ := parts_eq (k := true) (op := 0x62) (x := d.toNat * 32768 + a.toNat * 1024 + b.toNat * 32 + e.code) rfl hp
  have hd := d.isLt
  have ha := a.isLt
  have hb := b.isLt
  have he := ew_lt e
  refine ⟨by decide, by omega, finishAR ?_ hwf⟩
  refine unless3_yes (by omega) ?_
  refine reserved_yes (ewAt (c := e) (by omega)) ?_
  exact (congrArg Except.ok (congrArg Decoded.plain (congrFun (congr (congr (congrArg Instr.vext (fieldAt (by omega))) (fieldAt (by omega))) (fieldAt (by omega))) _)))
theorem vins (d : Reg) (a : Reg) (b : Reg) (m : BitVec 3) (e : EW) : Statement (.vins d a b m e) := by
  intro cl op xw hp hwf
  obtain ⟨rfl, rfl, hxw⟩ := parts_eq (k := true) (op := 0x63) (x := d.toNat * 32768 + a.toNat * 1024 + b.toNat * 32 + m.toNat * 4 + e.code) rfl hp
  obtain ⟨hb, hd, ha, hb', hm, he⟩ := five hxw
  refine ⟨by decide, hb, finishAR (reserved_yes he ?_) hwf⟩
  exact congrArg (Except.ok ∘ Decoded.plain) (congrFun (congr (congr (congr (congrArg Instr.vins hd) ha) hb') hm) _)
theorem viota (d : Reg) (a : Reg) (m : BitVec 3) (e : EW) : Statement (.viota d a m e) := by
  intro cl op xw hp hwf
  obtain ⟨rfl, rfl, hxw⟩ := parts_eq (k := true) (op := 0x64) (x := d.toNat * 32768 + a.toNat * 1024 + m.toNat * 4 + e.code) rfl hp
  have hd := d.isLt
  have ha := a.isLt
  have hm := m.isLt
  have he := ew_lt e
  refine ⟨by decide, by omega, finishAR ?_ hwf⟩
  refine unless3_yes (by omega) ?_
  refine reserved_yes (ewAt (c := e) (by omega)) ?_
  exact (congrArg Except.ok (congrArg Decoded.plain (congrFun (congr (congr (congrArg Instr.viota (fieldAt (by omega))) (fieldAt (by omega))) (fieldAt (by omega))) _)))
theorem vperm (d : Reg) (a : Reg) (b : Reg) (m : BitVec 3) (e : EW) : Statement (.vperm d a b m e) := by
  intro cl op xw hp hwf
  obtain ⟨rfl, rfl, hxw⟩ := parts_eq (k := true) (op := 0x65) (x := d.toNat * 32768 + a.toNat * 1024 + b.toNat * 32 + m.toNat * 4 + e.code) rfl hp
  obtain ⟨hb, hd, ha, hb', hm, he⟩ := five hxw
  refine ⟨by decide, hb, finishAR (reserved_yes he ?_) hwf⟩
  exact congrArg (Except.ok ∘ Decoded.plain) (congrFun (congr (congr (congr (congrArg Instr.vperm hd) ha) hb') hm) _)
theorem vrot (d : Reg) (a : Reg) (b : Reg) (m : BitVec 3) (e : EW) : Statement (.vrot d a b m e) := by
  intro cl op xw hp hwf
  obtain ⟨rfl, rfl, hxw⟩ := parts_eq (k := true) (op := 0x66) (x := d.toNat * 32768 + a.toNat * 1024 + b.toNat * 32 + m.toNat * 4 + e.code) rfl hp
  obtain ⟨hb, hd, ha, hb', hm, he⟩ := five hxw
  refine ⟨by decide, hb, finishAR (reserved_yes he ?_) hwf⟩
  exact congrArg (Except.ok ∘ Decoded.plain) (congrFun (congr (congr (congr (congrArg Instr.vrot hd) ha) hb') hm) _)
theorem vslide (d : Reg) (a : Reg) (b : Reg) (m : BitVec 3) (e : EW) : Statement (.vslide d a b m e) := by
  intro cl op xw hp hwf
  obtain ⟨rfl, rfl, hxw⟩ := parts_eq (k := true) (op := 0x67) (x := d.toNat * 32768 + a.toNat * 1024 + b.toNat * 32 + m.toNat * 4 + e.code) rfl hp
  obtain ⟨hb, hd, ha, hb', hm, he⟩ := five hxw
  refine ⟨by decide, hb, finishAR (reserved_yes he ?_) hwf⟩
  exact congrArg (Except.ok ∘ Decoded.plain) (congrFun (congr (congr (congr (congrArg Instr.vslide hd) ha) hb') hm) _)
theorem vpack (d : Reg) (a : Reg) (b : Reg) (m : BitVec 3) (e : EW) : Statement (.vpack d a b m e) := by
  intro cl op xw hp hwf
  obtain ⟨rfl, rfl, hxw⟩ := parts_eq (k := true) (op := 0x68) (x := d.toNat * 32768 + a.toNat * 1024 + b.toNat * 32 + m.toNat * 4 + e.code) rfl hp
  obtain ⟨hb, hd, ha, hb', hm, he⟩ := five hxw
  refine ⟨by decide, hb, finishAR (reserved_yes he ?_) hwf⟩
  exact congrArg (Except.ok ∘ Decoded.plain) (congrFun (congr (congr (congr (congrArg Instr.vpack hd) ha) hb') hm) _)
theorem vunpk (d : Reg) (a : Reg) (u : Bool) (h : Bool) (m : BitVec 3) (e : EW) : Statement (.vunpk d a u h m e) := by
  intro cl op xw hp hwf
  obtain ⟨rfl, rfl, hxw⟩ := parts_eq (k := true) (op := 0x69) (x := d.toNat * 32768 + a.toNat * 1024 + (if u then 1 else 0) * 64 + (if h then 1 else 0) * 32 + m.toNat * 4 + e.code) rfl hp
  have hd := d.isLt
  have ha := a.isLt
  have hu := bit_lt u
  have hh := bit_lt h
  have hm := m.isLt
  have he := ew_lt e
  refine ⟨by decide, by omega, finishAR ?_ hwf⟩
  refine unless4_yes (by omega) ?_
  refine reserved_yes (ewAt (c := e) (by omega)) ?_
  exact (congrArg Except.ok (congrArg Decoded.plain (congrFun (congr (congr (congr (congr (congrArg Instr.vunpk (fieldAt (by omega))) (fieldAt (by omega))) (bitAt (by omega))) (bitAt (by omega))) (fieldAt (by omega))) _)))
theorem vred (d : Reg) (a : Reg) (o : Reg) (m : BitVec 3) (e : EW) : Statement (.vred d a o m e) := by
  intro cl op xw hp hwf
  obtain ⟨rfl, rfl, hxw⟩ := parts_eq (k := true) (op := 0x6A) (x := d.toNat * 32768 + a.toNat * 1024 + o.toNat * 32 + m.toNat * 4 + e.code) rfl hp
  have hd := d.isLt
  have ha := a.isLt
  have ho := o.isLt
  have hm := m.isLt
  have he := ew_lt e
  refine ⟨by decide, by omega, finishAR ?_ hwf⟩
  refine reserved_yes (ewAt (c := e) (by omega)) ?_
  exact (congrArg Except.ok (congrArg Decoded.plain (congrFun (congr (congr (congr (congrArg Instr.vred (fieldAt (by omega))) (fieldAt (by omega))) (fieldAt (by omega))) (fieldAt (by omega))) _)))
theorem vsel (d : Reg) (a : Reg) (b : Reg) (m : BitVec 3) : Statement (.vsel d a b m) := by
  intro cl op xw hp hwf
  obtain ⟨rfl, rfl, hxw⟩ := parts_eq (k := true) (op := 0x6B) (x := d.toNat * 32768 + a.toNat * 1024 + b.toNat * 32 + m.toNat * 4) rfl hp
  have hd := d.isLt
  have ha := a.isLt
  have hb := b.isLt
  have hm := m.isLt
  refine ⟨by decide, by omega, finishAR ?_ hwf⟩
  refine unless3_yes (by omega) ?_
  exact (congrArg Except.ok (congrArg Decoded.plain (congr (congr (congr (congrArg Instr.vsel (fieldAt (by omega))) (fieldAt (by omega))) (fieldAt (by omega))) (fieldAt (by omega)))))
theorem mand (d : BitVec 3) (a : BitVec 3) (b : BitVec 3) : Statement (.mand d a b) := by
  intro cl op xw hp hwf
  obtain ⟨rfl, rfl, hxw⟩ := parts_eq (k := true) (op := 0x6C) (x := d.toNat * 32768 + a.toNat * 1024 + b.toNat * 32) rfl hp
  have hd := d.isLt
  have ha := a.isLt
  have hb := b.isLt
  refine ⟨by decide, by omega, finishAR ?_ hwf⟩
  refine unless3_yes (by omega) ?_
  refine reserved_yes (code3At (v := d) (by omega)) ?_
  refine reserved_yes (code3At (v := a) (by omega)) ?_
  refine reserved_yes (code3At (v := b) (by omega)) ?_
  exact (congrArg Except.ok (congrArg Decoded.plain (congrFun (congrFun (congrArg Instr.mand (rfl)) _) _)))
theorem mor (d : BitVec 3) (a : BitVec 3) (b : BitVec 3) : Statement (.mor d a b) := by
  intro cl op xw hp hwf
  obtain ⟨rfl, rfl, hxw⟩ := parts_eq (k := true) (op := 0x6D) (x := d.toNat * 32768 + a.toNat * 1024 + b.toNat * 32) rfl hp
  have hd := d.isLt
  have ha := a.isLt
  have hb := b.isLt
  refine ⟨by decide, by omega, finishAR ?_ hwf⟩
  refine unless3_yes (by omega) ?_
  refine reserved_yes (code3At (v := d) (by omega)) ?_
  refine reserved_yes (code3At (v := a) (by omega)) ?_
  refine reserved_yes (code3At (v := b) (by omega)) ?_
  exact (congrArg Except.ok (congrArg Decoded.plain (congrFun (congrFun (congrArg Instr.mor (rfl)) _) _)))
theorem mxor (d : BitVec 3) (a : BitVec 3) (b : BitVec 3) : Statement (.mxor d a b) := by
  intro cl op xw hp hwf
  obtain ⟨rfl, rfl, hxw⟩ := parts_eq (k := true) (op := 0x6E) (x := d.toNat * 32768 + a.toNat * 1024 + b.toNat * 32) rfl hp
  have hd := d.isLt
  have ha := a.isLt
  have hb := b.isLt
  refine ⟨by decide, by omega, finishAR ?_ hwf⟩
  refine unless3_yes (by omega) ?_
  refine reserved_yes (code3At (v := d) (by omega)) ?_
  refine reserved_yes (code3At (v := a) (by omega)) ?_
  refine reserved_yes (code3At (v := b) (by omega)) ?_
  exact (congrArg Except.ok (congrArg Decoded.plain (congrFun (congrFun (congrArg Instr.mxor (rfl)) _) _)))
theorem mnot (d : BitVec 3) (a : BitVec 3) : Statement (.mnot d a) := by
  intro cl op xw hp hwf
  obtain ⟨rfl, rfl, hxw⟩ := parts_eq (k := true) (op := 0x6F) (x := d.toNat * 32768 + a.toNat * 1024) rfl hp
  have hd := d.isLt
  have ha := a.isLt
  refine ⟨by decide, by omega, finishAR ?_ hwf⟩
  refine unless3_yes (by omega) ?_
  refine reserved_yes (code3At (v := d) (by omega)) ?_
  refine reserved_yes (code3At (v := a) (by omega)) ?_
  exact (congrArg Except.ok (congrArg Decoded.plain (congrFun (congrArg Instr.mnot (rfl)) _)))
theorem mpop (d : Reg) (a : BitVec 3) : Statement (.mpop d a) := by
  intro cl op xw hp hwf
  obtain ⟨rfl, rfl, hxw⟩ := parts_eq (k := true) (op := 0x70) (x := d.toNat * 32768 + a.toNat * 1024) rfl hp
  have hd := d.isLt
  have ha := a.isLt
  refine ⟨by decide, by omega, finishAR ?_ hwf⟩
  refine unless3_yes (by omega) ?_
  refine reserved_yes (code3At (v := a) (by omega)) ?_
  exact (congrArg Except.ok (congrArg Decoded.plain (congrFun (congrArg Instr.mpop (fieldAt (by omega))) _)))
theorem vcvt (d : Reg) (a : Reg) (x : Fmt) (c : Rnd) (w : Bool) (r : Bool) : Statement (.vcvt d a x c w r) := by
  intro cl op xw hp hwf
  obtain ⟨rfl, rfl, hxw⟩ := parts_eq (k := true) (op := 0x74) (x := d.toNat * 32768 + a.toNat * 1024 + x.code * 32 + c.code * 4 + (if w then 1 else 0) * 2 + (if r then 1 else 0)) rfl hp
  have hd := d.isLt
  have ha := a.isLt
  have hx := fmt_lt x
  have hc := rnd_lt c
  have hw := bit_lt w
  have hr := bit_lt r
  refine ⟨by decide, by omega, finishAR ?_ hwf⟩
  refine reserved_yes (fmtAt (c := x) (by omega)) ?_
  refine reserved_yes (rndAt (c := c) (by omega)) ?_
  exact (congrArg Except.ok (congrArg Decoded.plain (congr (congr (congrFun (congrFun (congr (congrArg Instr.vcvt (fieldAt (by omega))) (fieldAt (by omega))) _) _) (bitAt (by omega))) (bitAt (by omega)))))
theorem vcvts (d : Reg) (a : Reg) (x : Fmt) (c : Rnd) (r : Bool) : Statement (.vcvts d a x c r) := by
  intro cl op xw hp hwf
  obtain ⟨rfl, rfl, hxw⟩ := parts_eq (k := true) (op := 0x75) (x := d.toNat * 32768 + a.toNat * 1024 + x.code * 32 + c.code * 4 + (if r then 1 else 0)) rfl hp
  have hd := d.isLt
  have ha := a.isLt
  have hx := fmt_lt x
  have hc := rnd_lt c
  have hr := bit_lt r
  refine ⟨by decide, by omega, finishAR ?_ hwf⟩
  refine minor_yes (by omega) ?_
  refine reserved_yes (fmtAt (c := x) (by omega)) ?_
  refine reserved_yes (rndAt (c := c) (by omega)) ?_
  exact (congrArg Except.ok (congrArg Decoded.plain (congr (congrFun (congrFun (congr (congrArg Instr.vcvts (fieldAt (by omega))) (fieldAt (by omega))) _) _) (bitAt (by omega)))))
theorem accz (d : BitVec 3) : Statement (.accz d) := by
  intro cl op xw hp hwf
  obtain ⟨rfl, rfl, hxw⟩ := parts_eq (k := true) (op := 0x78) (x := d.toNat * 32768) rfl hp
  have hd := d.isLt
  refine ⟨by decide, by omega, finishAR ?_ hwf⟩
  refine minor_yes (by omega) ?_
  refine unless3_yes (by omega) ?_
  refine reserved_yes (code3At (v := d) (by omega)) ?_
  exact (congrArg Except.ok (congrArg Decoded.plain (congrArg Instr.accz (rfl))))
theorem accw (d : BitVec 3) (a : Reg) (n : Bool) : Statement (.accw d a n) := by
  intro cl op xw hp hwf
  obtain ⟨rfl, rfl, hxw⟩ := parts_eq (k := true) (op := 0x79) (x := d.toNat * 32768 + a.toNat * 1024 + (if n then 1 else 0) * 2) rfl hp
  have hd := d.isLt
  have ha := a.isLt
  have hn := bit_lt n
  refine ⟨by decide, by omega, finishAR ?_ hwf⟩
  refine minor_yes (by omega) ?_
  refine unless3_yes (by omega) ?_
  refine reserved_yes (code3At (v := d) (by omega)) ?_
  exact (congrArg Except.ok (congrArg Decoded.plain (congr (congr (congrArg Instr.accw (rfl)) (fieldAt (by omega))) (bitAt (by omega)))))
theorem accwMul (d : BitVec 3) (a : Reg) (x : Reg) (n : Bool) : Statement (.accwMul d a x n) := by
  intro cl op xw hp hwf
  obtain ⟨rfl, rfl, hxw⟩ := parts_eq (k := true) (op := 0x79) (x := d.toNat * 32768 + a.toNat * 1024 + x.toNat * 32 + (if n then 1 else 0) * 2 + 1) rfl hp
  have hd := d.isLt
  have ha := a.isLt
  have hx := x.isLt
  have hn := bit_lt n
  refine ⟨by decide, by omega, finishAR ?_ hwf⟩
  have hm : xw % 2 = 1 := by omega
  refine minor_past hm (by decide) ?_
  refine minor_yes hm ?_
  refine unless3_yes (by omega) ?_
  refine reserved_yes (code3At (v := d) (by omega)) ?_
  exact (congrArg Except.ok (congrArg Decoded.plain (congr (congr (congr (congrArg Instr.accwMul (rfl)) (fieldAt (by omega))) (fieldAt (by omega))) (bitAt (by omega)))))
theorem accwv (d : BitVec 3) (a : Reg) (n : Bool) : Statement (.accwv d a n) := by
  intro cl op xw hp hwf
  obtain ⟨rfl, rfl, hxw⟩ := parts_eq (k := true) (op := 0x7A) (x := d.toNat * 32768 + a.toNat * 1024 + (if n then 1 else 0) * 2) rfl hp
  have hd := d.isLt
  have ha := a.isLt
  have hn := bit_lt n
  refine ⟨by decide, by omega, finishAR ?_ hwf⟩
  refine minor_yes (by omega) ?_
  refine unless3_yes (by omega) ?_
  refine reserved_yes (code3At (v := d) (by omega)) ?_
  exact (congrArg Except.ok (congrArg Decoded.plain (congr (congr (congrArg Instr.accwv (rfl)) (fieldAt (by omega))) (bitAt (by omega)))))
theorem accwvMul (d : BitVec 3) (a : Reg) (x : Reg) (n : Bool) : Statement (.accwvMul d a x n) := by
  intro cl op xw hp hwf
  obtain ⟨rfl, rfl, hxw⟩ := parts_eq (k := true) (op := 0x7A) (x := d.toNat * 32768 + a.toNat * 1024 + x.toNat * 32 + (if n then 1 else 0) * 2 + 1) rfl hp
  have hd := d.isLt
  have ha := a.isLt
  have hx := x.isLt
  have hn := bit_lt n
  refine ⟨by decide, by omega, finishAR ?_ hwf⟩
  have hm : xw % 2 = 1 := by omega
  refine minor_past hm (by decide) ?_
  refine minor_yes hm ?_
  refine unless3_yes (by omega) ?_
  refine reserved_yes (code3At (v := d) (by omega)) ?_
  exact (congrArg Except.ok (congrArg Decoded.plain (congr (congr (congr (congrArg Instr.accwvMul (rfl)) (fieldAt (by omega))) (fieldAt (by omega))) (bitAt (by omega)))))
theorem accrd (d : Reg) (a : BitVec 3) (c : Rnd) : Statement (.accrd d a c) := by
  intro cl op xw hp hwf
  obtain ⟨rfl, rfl, hxw⟩ := parts_eq (k := true) (op := 0x7B) (x := d.toNat * 32768 + a.toNat * 1024 + c.code * 4) rfl hp
  have hd := d.isLt
  have ha := a.isLt
  have hc := rnd_lt c
  refine ⟨by decide, by omega, finishAR ?_ hwf⟩
  refine minor_yes (by omega) ?_
  refine unless3_yes (by omega) ?_
  refine reserved_yes (code3At (v := a) (by omega)) ?_
  refine reserved_yes (rndAt (c := c) (by omega)) ?_
  exact (congrArg Except.ok (congrArg Decoded.plain (congrFun (congrFun (congrArg Instr.accrd (fieldAt (by omega))) _) _)))
theorem accrw (d : Reg) (a : BitVec 3) (j : Reg) : Statement (.accrw d a j) := by
  intro cl op xw hp hwf
  obtain ⟨rfl, rfl, hxw⟩ := parts_eq (k := true) (op := 0x7C) (x := d.toNat * 32768 + a.toNat * 1024 + j.toNat * 32) rfl hp
  have hd := d.isLt
  have ha := a.isLt
  have hj := j.isLt
  refine ⟨by decide, by omega, finishAR ?_ hwf⟩
  refine minor_yes (by omega) ?_
  refine unless3_yes (by omega) ?_
  refine reserved_yes (code3At (v := a) (by omega)) ?_
  exact (congrArg Except.ok (congrArg Decoded.plain (congr (congrFun (congrArg Instr.accrw (fieldAt (by omega))) _) (fieldAt (by omega)))))
theorem accrwX (d : Reg) (a : BitVec 3) : Statement (.accrwX d a) := by
  intro cl op xw hp hwf
  obtain ⟨rfl, rfl, hxw⟩ := parts_eq (k := true) (op := 0x7C) (x := d.toNat * 32768 + a.toNat * 1024 + 1) rfl hp
  have hd := d.isLt
  have ha := a.isLt
  refine ⟨by decide, by omega, finishAR ?_ hwf⟩
  have hm : xw % 4 = 1 := by omega
  refine minor_past hm (by decide) ?_
  refine minor_yes hm ?_
  refine unless3_yes (by omega) ?_
  refine reserved_yes (code3At (v := a) (by omega)) ?_
  exact (congrArg Except.ok (congrArg Decoded.plain (congrFun (congrArg Instr.accrwX (fieldAt (by omega))) _)))
theorem accrwSt (t : Reg) (a : BitVec 3) (j : Reg) : Statement (.accrwSt t a j) := by
  intro cl op xw hp hwf
  obtain ⟨rfl, rfl, hxw⟩ := parts_eq (k := true) (op := 0x7C) (x := t.toNat * 32768 + a.toNat * 1024 + j.toNat * 32 + 2) rfl hp
  have ht := t.isLt
  have ha := a.isLt
  have hj := j.isLt
  refine ⟨by decide, by omega, finishAR ?_ hwf⟩
  have hm : xw % 4 = 2 := by omega
  refine minor_past hm (by decide) ?_
  refine minor_past hm (by decide) ?_
  refine minor_yes hm ?_
  refine unless3_yes (by omega) ?_
  refine reserved_yes (code3At (v := a) (by omega)) ?_
  exact (congrArg Except.ok (congrArg Decoded.plain (congr (congrFun (congrArg Instr.accrwSt (fieldAt (by omega))) _) (fieldAt (by omega)))))
theorem accrwStx (t : Reg) (a : BitVec 3) : Statement (.accrwStx t a) := by
  intro cl op xw hp hwf
  obtain ⟨rfl, rfl, hxw⟩ := parts_eq (k := true) (op := 0x7C) (x := t.toNat * 32768 + a.toNat * 1024 + 3) rfl hp
  have ht := t.isLt
  have ha := a.isLt
  refine ⟨by decide, by omega, finishAR ?_ hwf⟩
  have hm : xw % 4 = 3 := by omega
  refine minor_past hm (by decide) ?_
  refine minor_past hm (by decide) ?_
  refine minor_past hm (by decide) ?_
  refine minor_yes hm ?_
  refine unless3_yes (by omega) ?_
  refine reserved_yes (code3At (v := a) (by omega)) ?_
  exact (congrArg Except.ok (congrArg Decoded.plain (congrFun (congrArg Instr.accrwStx (fieldAt (by omega))) _)))
theorem nop : Statement .nop := by
  intro cl op xw hp hwf
  obtain ⟨rfl, rfl, hxw⟩ := parts_eq (k := false) (op := 0x01) (x := 0) rfl hp
  refine ⟨by decide, by omega, finishCM ?_ hwf⟩
  refine minor_yes (by omega) ?_
  refine unless3_yes (by omega) ?_
  rfl
theorem done : Statement .done := by
  intro cl op xw hp hwf
  obtain ⟨rfl, rfl, hxw⟩ := parts_eq (k := false) (op := 0x0C) (x := 0) rfl hp
  refine ⟨by decide, by omega, finishCM ?_ hwf⟩
  refine minor_yes (by omega) ?_
  refine unless3_yes (by omega) ?_
  rfl
theorem openAct : Statement .openAct := by
  intro cl op xw hp hwf
  obtain ⟨rfl, rfl, hxw⟩ := parts_eq (k := false) (op := 0x18) (x := 0) rfl hp
  refine ⟨by decide, by omega, finishCM ?_ hwf⟩
  refine minor_yes (by omega) ?_
  refine unless3_yes (by omega) ?_
  rfl
theorem hrevoke : Statement .hrevoke := by
  intro cl op xw hp hwf
  obtain ⟨rfl, rfl, hxw⟩ := parts_eq (k := false) (op := 0x4C) (x := 0) rfl hp
  refine ⟨by decide, by omega, finishCM ?_ hwf⟩
  refine minor_yes (by omega) ?_
  refine unless3_yes (by omega) ?_
  rfl
theorem mset : Statement .mset := by
  intro cl op xw hp hwf
  obtain ⟨rfl, rfl, hxw⟩ := parts_eq (k := false) (op := 0x58) (x := 0) rfl hp
  refine ⟨by decide, by omega, finishCM ?_ hwf⟩
  refine minor_yes (by omega) ?_
  refine unless3_yes (by omega) ?_
  rfl
theorem eret : Statement .eret := by
  intro cl op xw hp hwf
  obtain ⟨rfl, rfl, hxw⟩ := parts_eq (k := false) (op := 0x76) (x := 0) rfl hp
  refine ⟨by decide, by omega, finishCM ?_ hwf⟩
  refine minor_yes (by omega) ?_
  refine unless3_yes (by omega) ?_
  rfl
theorem trarmOff : Statement .trarmOff := by
  intro cl op xw hp hwf
  obtain ⟨rfl, rfl, hxw⟩ := parts_eq (k := false) (op := 0x7D) (x := 1) rfl hp
  refine ⟨by decide, by omega, finishCM ?_ hwf⟩
  have hm : xw % 8 = 1 := by omega
  refine minor_past hm (by decide) ?_
  refine minor_yes hm ?_
  refine unless3_yes (by omega) ?_
  rfl
theorem trarmStop : Statement .trarmStop := by
  intro cl op xw hp hwf
  obtain ⟨rfl, rfl, hxw⟩ := parts_eq (k := false) (op := 0x7D) (x := 2) rfl hp
  refine ⟨by decide, by omega, finishCM ?_ hwf⟩
  have hm : xw % 8 = 2 := by omega
  refine minor_past hm (by decide) ?_
  refine minor_past hm (by decide) ?_
  refine minor_yes hm ?_
  refine unless3_yes (by omega) ?_
  rfl
theorem amoAdd (d : Reg) (a : Reg) (b : Reg) (c : Scope) : Statement (.amoAdd d a b c) := by
  intro cl op xw hp hwf
  obtain ⟨rfl, rfl, hxw⟩ := parts_eq (k := false) (op := 0x30) (x := d.toNat * 32768 + a.toNat * 1024 + b.toNat * 32 + c.code) rfl hp
  have hd := d.isLt
  have ha := a.isLt
  have hb := b.isLt
  have hc := scope_lt c
  refine ⟨by decide, by omega, finishLateCM (l := (.amoAdd d a b c)) ?_⟩
  refine minor_yes (by omega) ?_
  exact (congrArg Except.ok (congrArg Decoded.late (congr (congr (congr (congrArg Late.amoAdd (fieldAt (by omega))) (fieldAt (by omega))) (fieldAt (by omega))) (scopeAt (by omega)))))
theorem amoAnd (d : Reg) (a : Reg) (b : Reg) (c : Scope) : Statement (.amoAnd d a b c) := by
  intro cl op xw hp hwf
  obtain ⟨rfl, rfl, hxw⟩ := parts_eq (k := false) (op := 0x30) (x := d.toNat * 32768 + a.toNat * 1024 + b.toNat * 32 + c.code + 4) rfl hp
  have hd := d.isLt
  have ha := a.isLt
  have hb := b.isLt
  have hc := scope_lt c
  refine ⟨by decide, by omega, finishLateCM (l := (.amoAnd d a b c)) ?_⟩
  have hm : xw / 4 % 8 = 1 := by omega
  refine minor_past hm (by decide) ?_
  refine minor_yes hm ?_
  exact (congrArg Except.ok (congrArg Decoded.late (congr (congr (congr (congrArg Late.amoAnd (fieldAt (by omega))) (fieldAt (by omega))) (fieldAt (by omega))) (scopeAt (by omega)))))
theorem amoOr (d : Reg) (a : Reg) (b : Reg) (c : Scope) : Statement (.amoOr d a b c) := by
  intro cl op xw hp hwf
  obtain ⟨rfl, rfl, hxw⟩ := parts_eq (k := false) (op := 0x30) (x := d.toNat * 32768 + a.toNat * 1024 + b.toNat * 32 + c.code + 8) rfl hp
  have hd := d.isLt
  have ha := a.isLt
  have hb := b.isLt
  have hc := scope_lt c
  refine ⟨by decide, by omega, finishLateCM (l := (.amoOr d a b c)) ?_⟩
  have hm : xw / 4 % 8 = 2 := by omega
  refine minor_past hm (by decide) ?_
  refine minor_past hm (by decide) ?_
  refine minor_yes hm ?_
  exact (congrArg Except.ok (congrArg Decoded.late (congr (congr (congr (congrArg Late.amoOr (fieldAt (by omega))) (fieldAt (by omega))) (fieldAt (by omega))) (scopeAt (by omega)))))
theorem amoXor (d : Reg) (a : Reg) (b : Reg) (c : Scope) : Statement (.amoXor d a b c) := by
  intro cl op xw hp hwf
  obtain ⟨rfl, rfl, hxw⟩ := parts_eq (k := false) (op := 0x30) (x := d.toNat * 32768 + a.toNat * 1024 + b.toNat * 32 + c.code + 12) rfl hp
  have hd := d.isLt
  have ha := a.isLt
  have hb := b.isLt
  have hc := scope_lt c
  refine ⟨by decide, by omega, finishLateCM (l := (.amoXor d a b c)) ?_⟩
  have hm : xw / 4 % 8 = 3 := by omega
  refine minor_past hm (by decide) ?_
  refine minor_past hm (by decide) ?_
  refine minor_past hm (by decide) ?_
  refine minor_yes hm ?_
  exact (congrArg Except.ok (congrArg Decoded.late (congr (congr (congr (congrArg Late.amoXor (fieldAt (by omega))) (fieldAt (by omega))) (fieldAt (by omega))) (scopeAt (by omega)))))
theorem amoMin (d : Reg) (a : Reg) (b : Reg) (c : Scope) : Statement (.amoMin d a b c) := by
  intro cl op xw hp hwf
  obtain ⟨rfl, rfl, hxw⟩ := parts_eq (k := false) (op := 0x30) (x := d.toNat * 32768 + a.toNat * 1024 + b.toNat * 32 + c.code + 16) rfl hp
  have hd := d.isLt
  have ha := a.isLt
  have hb := b.isLt
  have hc := scope_lt c
  refine ⟨by decide, by omega, finishLateCM (l := (.amoMin d a b c)) ?_⟩
  have hm : xw / 4 % 8 = 4 := by omega
  refine minor_past hm (by decide) ?_
  refine minor_past hm (by decide) ?_
  refine minor_past hm (by decide) ?_
  refine minor_past hm (by decide) ?_
  refine minor_yes hm ?_
  exact (congrArg Except.ok (congrArg Decoded.late (congr (congr (congr (congrArg Late.amoMin (fieldAt (by omega))) (fieldAt (by omega))) (fieldAt (by omega))) (scopeAt (by omega)))))
theorem amoMax (d : Reg) (a : Reg) (b : Reg) (c : Scope) : Statement (.amoMax d a b c) := by
  intro cl op xw hp hwf
  obtain ⟨rfl, rfl, hxw⟩ := parts_eq (k := false) (op := 0x30) (x := d.toNat * 32768 + a.toNat * 1024 + b.toNat * 32 + c.code + 20) rfl hp
  have hd := d.isLt
  have ha := a.isLt
  have hb := b.isLt
  have hc := scope_lt c
  refine ⟨by decide, by omega, finishLateCM (l := (.amoMax d a b c)) ?_⟩
  have hm : xw / 4 % 8 = 5 := by omega
  refine minor_past hm (by decide) ?_
  refine minor_past hm (by decide) ?_
  refine minor_past hm (by decide) ?_
  refine minor_past hm (by decide) ?_
  refine minor_past hm (by decide) ?_
  refine minor_yes hm ?_
  exact (congrArg Except.ok (congrArg Decoded.late (congr (congr (congr (congrArg Late.amoMax (fieldAt (by omega))) (fieldAt (by omega))) (fieldAt (by omega))) (scopeAt (by omega)))))
theorem amoMinu (d : Reg) (a : Reg) (b : Reg) (c : Scope) : Statement (.amoMinu d a b c) := by
  intro cl op xw hp hwf
  obtain ⟨rfl, rfl, hxw⟩ := parts_eq (k := false) (op := 0x30) (x := d.toNat * 32768 + a.toNat * 1024 + b.toNat * 32 + c.code + 24) rfl hp
  have hd := d.isLt
  have ha := a.isLt
  have hb := b.isLt
  have hc := scope_lt c
  refine ⟨by decide, by omega, finishLateCM (l := (.amoMinu d a b c)) ?_⟩
  have hm : xw / 4 % 8 = 6 := by omega
  refine minor_past hm (by decide) ?_
  refine minor_past hm (by decide) ?_
  refine minor_past hm (by decide) ?_
  refine minor_past hm (by decide) ?_
  refine minor_past hm (by decide) ?_
  refine minor_past hm (by decide) ?_
  refine minor_yes hm ?_
  exact (congrArg Except.ok (congrArg Decoded.late (congr (congr (congr (congrArg Late.amoMinu (fieldAt (by omega))) (fieldAt (by omega))) (fieldAt (by omega))) (scopeAt (by omega)))))
theorem amoMaxu (d : Reg) (a : Reg) (b : Reg) (c : Scope) : Statement (.amoMaxu d a b c) := by
  intro cl op xw hp hwf
  obtain ⟨rfl, rfl, hxw⟩ := parts_eq (k := false) (op := 0x30) (x := d.toNat * 32768 + a.toNat * 1024 + b.toNat * 32 + c.code + 28) rfl hp
  have hd := d.isLt
  have ha := a.isLt
  have hb := b.isLt
  have hc := scope_lt c
  refine ⟨by decide, by omega, finishLateCM (l := (.amoMaxu d a b c)) ?_⟩
  have hm : xw / 4 % 8 = 7 := by omega
  refine minor_past hm (by decide) ?_
  refine minor_past hm (by decide) ?_
  refine minor_past hm (by decide) ?_
  refine minor_past hm (by decide) ?_
  refine minor_past hm (by decide) ?_
  refine minor_past hm (by decide) ?_
  refine minor_past hm (by decide) ?_
  refine minor_yes hm ?_
  exact (congrArg Except.ok (congrArg Decoded.late (congr (congr (congr (congrArg Late.amoMaxu (fieldAt (by omega))) (fieldAt (by omega))) (fieldAt (by omega))) (scopeAt (by omega)))))
theorem cas (d : Reg) (a : Reg) (b : Reg) (c : Scope) : Statement (.cas d a b c) := by
  intro cl op xw hp hwf
  obtain ⟨rfl, rfl, hxw⟩ := parts_eq (k := false) (op := 0x31) (x := d.toNat * 32768 + a.toNat * 1024 + b.toNat * 32 + c.code) rfl hp
  have hd := d.isLt
  have ha := a.isLt
  have hb := b.isLt
  have hc := scope_lt c
  refine ⟨by decide, by omega, finishLateCM (l := (.cas d a b c)) ?_⟩
  refine minor_yes (by omega) ?_
  refine unless3_yes (by omega) ?_
  exact (congrArg Except.ok (congrArg Decoded.late (congr (congr (congr (congrArg Late.cas (fieldAt (by omega))) (fieldAt (by omega))) (fieldAt (by omega))) (scopeAt (by omega)))))
theorem casXchg (d : Reg) (a : Reg) (b : Reg) (c : Scope) : Statement (.casXchg d a b c) := by
  intro cl op xw hp hwf
  obtain ⟨rfl, rfl, hxw⟩ := parts_eq (k := false) (op := 0x31) (x := d.toNat * 32768 + a.toNat * 1024 + b.toNat * 32 + c.code + 4) rfl hp
  have hd := d.isLt
  have ha := a.isLt
  have hb := b.isLt
  have hc := scope_lt c
  refine ⟨by decide, by omega, finishLateCM (l := (.casXchg d a b c)) ?_⟩
  have hm : xw / 4 % 2 = 1 := by omega
  refine minor_past hm (by decide) ?_
  refine minor_yes hm ?_
  refine unless3_yes (by omega) ?_
  exact (congrArg Except.ok (congrArg Decoded.late (congr (congr (congr (congrArg Late.casXchg (fieldAt (by omega))) (fieldAt (by omega))) (fieldAt (by omega))) (scopeAt (by omega)))))
theorem famoFadd (d : Reg) (a : Reg) (b : Reg) (c : Scope) : Statement (.famoFadd d a b c) := by
  intro cl op xw hp hwf
  obtain ⟨rfl, rfl, hxw⟩ := parts_eq (k := false) (op := 0x32) (x := d.toNat * 32768 + a.toNat * 1024 + b.toNat * 32 + c.code) rfl hp
  have hd := d.isLt
  have ha := a.isLt
  have hb := b.isLt
  have hc := scope_lt c
  refine ⟨by decide, by omega, finishLateCM (l := (.famoFadd d a b c)) ?_⟩
  refine minor_yes (by omega) ?_
  exact (congrArg Except.ok (congrArg Decoded.late (congr (congr (congr (congrArg Late.famoFadd (fieldAt (by omega))) (fieldAt (by omega))) (fieldAt (by omega))) (scopeAt (by omega)))))
theorem famoFmin (d : Reg) (a : Reg) (b : Reg) (c : Scope) : Statement (.famoFmin d a b c) := by
  intro cl op xw hp hwf
  obtain ⟨rfl, rfl, hxw⟩ := parts_eq (k := false) (op := 0x32) (x := d.toNat * 32768 + a.toNat * 1024 + b.toNat * 32 + c.code + 4) rfl hp
  have hd := d.isLt
  have ha := a.isLt
  have hb := b.isLt
  have hc := scope_lt c
  refine ⟨by decide, by omega, finishLateCM (l := (.famoFmin d a b c)) ?_⟩
  have hm : xw / 4 % 8 = 1 := by omega
  refine minor_past hm (by decide) ?_
  refine minor_yes hm ?_
  exact (congrArg Except.ok (congrArg Decoded.late (congr (congr (congr (congrArg Late.famoFmin (fieldAt (by omega))) (fieldAt (by omega))) (fieldAt (by omega))) (scopeAt (by omega)))))
theorem famoFmax (d : Reg) (a : Reg) (b : Reg) (c : Scope) : Statement (.famoFmax d a b c) := by
  intro cl op xw hp hwf
  obtain ⟨rfl, rfl, hxw⟩ := parts_eq (k := false) (op := 0x32) (x := d.toNat * 32768 + a.toNat * 1024 + b.toNat * 32 + c.code + 8) rfl hp
  have hd := d.isLt
  have ha := a.isLt
  have hb := b.isLt
  have hc := scope_lt c
  refine ⟨by decide, by omega, finishLateCM (l := (.famoFmax d a b c)) ?_⟩
  have hm : xw / 4 % 8 = 2 := by omega
  refine minor_past hm (by decide) ?_
  refine minor_past hm (by decide) ?_
  refine minor_yes hm ?_
  exact (congrArg Except.ok (congrArg Decoded.late (congr (congr (congr (congrArg Late.famoFmax (fieldAt (by omega))) (fieldAt (by omega))) (fieldAt (by omega))) (scopeAt (by omega)))))
theorem rrot (d : Reg) (a : Reg) (b : Reg) : Statement (.rrot d a b) := by
  intro cl op xw hp hwf
  obtain ⟨rfl, rfl, hxw⟩ := parts_eq (k := false) (op := 0x48) (x := d.toNat * 32768 + a.toNat * 1024 + b.toNat * 32) rfl hp
  have hd := d.isLt
  have ha := a.isLt
  have hb := b.isLt
  refine ⟨by decide, by omega, finishLateCM (l := (.rrot d a b)) ?_⟩
  refine minor_yes (by omega) ?_
  exact (congrArg Except.ok (congrArg Decoded.late (congr (congr (congrArg Late.rrot (fieldAt (by omega))) (fieldAt (by omega))) (fieldAt (by omega)))))
theorem grprd (d : Reg) (a : Reg) : Statement (.grprd d a) := by
  intro cl op xw hp hwf
  obtain ⟨rfl, rfl, hxw⟩ := parts_eq (k := false) (op := 0x4A) (x := d.toNat * 32768 + a.toNat * 1024) rfl hp
  have hd := d.isLt
  have ha := a.isLt
  refine ⟨by decide, by omega, finishLateCM (l := (.grprd d a)) ?_⟩
  refine minor_yes (by omega) ?_
  refine unless3_yes (by omega) ?_
  exact (congrArg Except.ok (congrArg Decoded.late (congr (congrArg Late.grprd (fieldAt (by omega))) (fieldAt (by omega)))))
theorem task (a : Reg) (b : Reg) : Statement (.task a b) := by
  intro cl op xw hp hwf
  obtain ⟨rfl, rfl, hxw⟩ := parts_eq (k := false) (op := 0x6C) (x := a.toNat * 1024 + b.toNat * 32) rfl hp
  have ha := a.isLt
  have hb := b.isLt
  refine ⟨by decide, by omega, finishLateCM (l := (.task a b)) ?_⟩
  refine minor_yes (by omega) ?_
  refine unless3_yes (by omega) ?_
  exact (congrArg Except.ok (congrArg Decoded.late (congr (congrArg Late.task (fieldAt (by omega))) (fieldAt (by omega)))))
theorem glaunch (d : Reg) (a : Reg) : Statement (.glaunch d a) := by
  intro cl op xw hp hwf
  obtain ⟨rfl, rfl, hxw⟩ := parts_eq (k := false) (op := 0x6E) (x := d.toNat * 32768 + a.toNat * 1024) rfl hp
  have hd := d.isLt
  have ha := a.isLt
  refine ⟨by decide, by omega, finishLateCM (l := (.glaunch d a)) ?_⟩
  refine minor_yes (by omega) ?_
  refine unless3_yes (by omega) ?_
  exact (congrArg Except.ok (congrArg Decoded.late (congr (congrArg Late.glaunch (fieldAt (by omega))) (fieldAt (by omega)))))
theorem gdone (a : Reg) : Statement (.gdone a) := by
  intro cl op xw hp hwf
  obtain ⟨rfl, rfl, hxw⟩ := parts_eq (k := false) (op := 0x6F) (x := a.toNat * 1024) rfl hp
  have ha := a.isLt
  refine ⟨by decide, by omega, finishLateCM (l := (.gdone a)) ?_⟩
  refine minor_yes (by omega) ?_
  refine unless3_yes (by omega) ?_
  exact (congrArg Except.ok (congrArg Decoded.late (congrArg Late.gdone (fieldAt (by omega)))))
theorem boot : Statement .boot := fun _ _ _ h => nomatch h
theorem attestation : Statement .attestation := fun _ _ _ h => nomatch h
theorem launchRecord : Statement .launchRecord := fun _ _ _ h => nomatch h
theorem launchStart : Statement .launchStart := fun _ _ _ h => nomatch h
theorem wake : Statement .wake := fun _ _ _ h => nomatch h
theorem launchEnd : Statement .launchEnd := fun _ _ _ h => nomatch h
theorem commitHorizon : Statement .commitHorizon := fun _ _ _ h => nomatch h
theorem messageAccept : Statement .messageAccept := fun _ _ _ h => nomatch h
theorem sendRetry : Statement .sendRetry := fun _ _ _ h => nomatch h
theorem helperBinding : Statement .helperBinding := fun _ _ _ h => nomatch h
theorem controlBinding : Statement .controlBinding := fun _ _ _ h => nomatch h
theorem spawnBounce : Statement .spawnBounce := fun _ _ _ h => nomatch h
theorem fill : Statement .fill := fun _ _ _ h => nomatch h
theorem deposit : Statement .deposit := fun _ _ _ h => nomatch h
theorem arrivingAccess : Statement .arrivingAccess := fun _ _ _ h => nomatch h
theorem atomicExecution : Statement .atomicExecution := fun _ _ _ h => nomatch h
theorem release : Statement .release := fun _ _ _ h => nomatch h
theorem scopeMiss : Statement .scopeMiss := fun _ _ _ h => nomatch h
theorem towpathDelivery : Statement .towpathDelivery := fun _ _ _ h => nomatch h
theorem trackShift : Statement .trackShift := fun _ _ _ h => nomatch h
theorem reverify : Statement .reverify := fun _ _ _ h => nomatch h
theorem autoRealign : Statement .autoRealign := fun _ _ _ h => nomatch h
theorem weirStep : Statement .weirStep := fun _ _ _ h => nomatch h
theorem checkpoint : Statement .checkpoint := fun _ _ _ h => nomatch h
theorem abort : Statement .abort := fun _ _ _ h => nomatch h
theorem commit : Statement .commit := fun _ _ _ h => nomatch h
theorem trackedRead : Statement .trackedRead := fun _ _ _ h => nomatch h
theorem trapDelivery : Statement .trapDelivery := fun _ _ _ h => nomatch h
theorem impreciseEffectFault : Statement .impreciseEffectFault := fun _ _ _ h => nomatch h
theorem launchFault : Statement .launchFault := fun _ _ _ h => nomatch h
theorem copyStart : Statement .copyStart := fun _ _ _ h => nomatch h
theorem rangeLockRegister : Statement .rangeLockRegister := fun _ _ _ h => nomatch h
theorem copyRequest : Statement .copyRequest := fun _ _ _ h => nomatch h
theorem copyWrite : Statement .copyWrite := fun _ _ _ h => nomatch h
theorem copyCompletion : Statement .copyCompletion := fun _ _ _ h => nomatch h
theorem leaseGrant : Statement .leaseGrant := fun _ _ _ h => nomatch h
theorem leaseTimeout : Statement .leaseTimeout := fun _ _ _ h => nomatch h
theorem resultDiscard : Statement .resultDiscard := fun _ _ _ h => nomatch h
theorem arrayPush : Statement .arrayPush := fun _ _ _ h => nomatch h
theorem msetAtArray : Statement .msetAtArray := fun _ _ _ h => nomatch h
theorem mfreeAtArray : Statement .mfreeAtArray := fun _ _ _ h => nomatch h
theorem commandStart : Statement .commandStart := fun _ _ _ h => nomatch h
theorem chunkRow : Statement .chunkRow := fun _ _ _ h => nomatch h
theorem resultVector : Statement .resultVector := fun _ _ _ h => nomatch h
theorem rotation : Statement .rotation := fun _ _ _ h => nomatch h
theorem rotationEnd : Statement .rotationEnd := fun _ _ _ h => nomatch h
theorem translation : Statement .translation := fun _ _ _ h => nomatch h
theorem walk : Statement .walk := fun _ _ _ h => nomatch h
theorem taskEntry : Statement .taskEntry := fun _ _ _ h => nomatch h
theorem cancelNotice : Statement .cancelNotice := fun _ _ _ h => nomatch h
theorem releaseNotice : Statement .releaseNotice := fun _ _ _ h => nomatch h
theorem graphInstance : Statement .graphInstance := fun _ _ _ h => nomatch h
theorem nodeDone : Statement .nodeDone := fun _ _ _ h => nomatch h
theorem preEmption : Statement .preEmption := fun _ _ _ h => nomatch h
theorem restore : Statement .restore := fun _ _ _ h => nomatch h
theorem revocation : Statement .revocation := fun _ _ _ h => nomatch h
theorem harvestBinding : Statement .harvestBinding := fun _ _ _ h => nomatch h
theorem invocationPacket : Statement .invocationPacket := fun _ _ _ h => nomatch h
theorem packetDrain : Statement .packetDrain := fun _ _ _ h => nomatch h
theorem invocationReply : Statement .invocationReply := fun _ _ _ h => nomatch h
theorem nack : Statement .nack := fun _ _ _ h => nomatch h
theorem replyTimeout : Statement .replyTimeout := fun _ _ _ h => nomatch h
theorem retryWait : Statement .retryWait := fun _ _ _ h => nomatch h
theorem heartbeat : Statement .heartbeat := fun _ _ _ h => nomatch h
theorem heartbeatArrival : Statement .heartbeatArrival := fun _ _ _ h => nomatch h
theorem suspect : Statement .suspect := fun _ _ _ h => nomatch h
theorem failed : Statement .failed := fun _ _ _ h => nomatch h
theorem remap : Statement .remap := fun _ _ _ h => nomatch h
theorem remapApply : Statement .remapApply := fun _ _ _ h => nomatch h
theorem frame : Statement .frame := fun _ _ _ h => nomatch h
theorem hostInvocation : Statement .hostInvocation := fun _ _ _ h => nomatch h
theorem rdmaWrite : Statement .rdmaWrite := fun _ _ _ h => nomatch h
theorem rdmaRead : Statement .rdmaRead := fun _ _ _ h => nomatch h
theorem managementMessage : Statement .managementMessage := fun _ _ _ h => nomatch h
theorem powerStepCommand : Statement .powerStepCommand := fun _ _ _ h => nomatch h
theorem preemptCommand : Statement .preemptCommand := fun _ _ _ h => nomatch h
theorem tenantTableWrite : Statement .tenantTableWrite := fun _ _ _ h => nomatch h
theorem invocationTableWrite : Statement .invocationTableWrite := fun _ _ _ h => nomatch h
theorem rankMapWrite : Statement .rankMapWrite := fun _ _ _ h => nomatch h
theorem groupTableWrite : Statement .groupTableWrite := fun _ _ _ h => nomatch h
theorem statusRead : Statement .statusRead := fun _ _ _ h => nomatch h
theorem firmwareStaging : Statement .firmwareStaging := fun _ _ _ h => nomatch h
theorem breakpointWrite : Statement .breakpointWrite := fun _ _ _ h => nomatch h
theorem dump : Statement .dump := fun _ _ _ h => nomatch h
theorem launchRestore : Statement .launchRestore := fun _ _ _ h => nomatch h
theorem weirCap : Statement .weirCap := fun _ _ _ h => nomatch h
theorem rampRate : Statement .rampRate := fun _ _ _ h => nomatch h
theorem pstepSample : Statement .pstepSample := fun _ _ _ h => nomatch h
theorem powerEstimate : Statement .powerEstimate := fun _ _ _ h => nomatch h
theorem weirPeriod : Statement .weirPeriod := fun _ _ _ h => nomatch h
theorem pfail : Statement .pfail := fun _ _ _ h => nomatch h
theorem drain : Statement .drain := fun _ _ _ h => nomatch h
theorem deviceRecord : Statement .deviceRecord := fun _ _ _ h => nomatch h
theorem powerDown : Statement .powerDown := fun _ _ _ h => nomatch h
theorem traceTrigger : Statement .traceTrigger := fun _ _ _ h => nomatch h
theorem traceDump : Statement .traceDump := fun _ _ _ h => nomatch h
theorem thyme : Statement .thyme := fun _ _ _ h => nomatch h
theorem haltRequest : Statement .haltRequest := fun _ _ _ h => nomatch h
theorem halted : Statement .halted := fun _ _ _ h => nomatch h
theorem ageRaise : Statement .ageRaise := fun _ _ _ h => nomatch h
theorem yieldExpiry : Statement .yieldExpiry := fun _ _ _ h => nomatch h
theorem scanComplete : Statement .scanComplete := fun _ _ _ h => nomatch h
theorem perfqResult : Statement .perfqResult := fun _ _ _ h => nomatch h
theorem illegalEncoding : Statement .illegalEncoding := fun _ _ _ h => nomatch h
theorem fetchFault : Statement .fetchFault := fun _ _ _ h => nomatch h
theorem powerReturn : Statement .powerReturn := fun _ _ _ h => nomatch h
theorem patrolScrub : Statement .patrolScrub := fun _ _ _ h => nomatch h
theorem serdesRetraining : Statement .serdesRetraining := fun _ _ _ h => nomatch h

end Sys2Proof.Laws.RoundTrip
end

