-- ==== Sys2Proof/Laws/Write.lean ====
section
/-!
SUPPORT. Writes: what `Change.write`, `Change.putWord`, `Change.setTag` and the writers of results do to each byte and each tag.
-/

namespace Sys2Proof.Machine

/-! ## One operation at the end of a change -/

theorem State.apply_op (s : State) (c : Change) (o : StoreOp) :
    s.apply (c.op o) = { s.apply c with mem := o.onMem (s.apply c).mem, tags := o.onTags (s.apply c).tags
                                        bad := o.onBad (s.apply c).bad, soft := o.onSoft (s.apply c).soft } := by
  simp only [State.apply, Change.op, applyMem, applyTags, applyBad, applySoft, List.foldl_append, List.foldl_cons, List.foldl_nil]

theorem State.apply_ops_dev (s : State) (c : Change) (d : Dev) :
    s.apply { c with dev := d } = { s.apply c with dev := d } := rfl

/-- A change that only changes the units leaves storage as the change before it does. -/
theorem State.apply_byte_dev (s : State) (c : Change) (d : Dev) (a : Nat) :
    (s.apply { c with dev := d }).byte a = (s.apply c).byte a := rfl

/-! ## Words that a run of bytes touches -/

theorem mem_touched (k n w : Nat) (hn : 0 < n) :
    w ∈ (List.range ((k + n + 7) / 8 - k / 8)).map (k / 8 + ·) ↔ w * 8 < k + n ∧ k < w * 8 + 8 := by
  simp only [List.mem_map, List.mem_range]
  constructor
  · rintro ⟨i, hi, rfl⟩; omega
  · intro h; exact ⟨w - k / 8, by omega, by omega⟩

/-! ## Tags -/

theorem applyTags_tags (t : Tag) (ws : List Nat) : ∀ (m : List (Nat × Tag)), kwf Tag.full m → ∀ w,
    kget Tag.full (applyTags (ws.map fun w => StoreOp.tag w t) m) w = if w ∈ ws then t else kget Tag.full m w := by
  induction ws with
  | nil => intro m _ w; simp [applyTags]
  | cons x ws ih =>
    intro m hm w
    have e : applyTags ((x :: ws).map fun w => StoreOp.tag w t) m =
        applyTags (ws.map fun w => StoreOp.tag w t) (kput Tag.full m x t) := rfl
    rw [e, ih _ (kwf_kput _ m x t hm)]
    by_cases h1 : w ∈ ws
    · simp [h1]
    · by_cases h2 : w = x
      · subst h2; simp [kget_kput_self _ m w t hm]
      · simp [h1, h2, kget_kput_ne _ m x t h2]

theorem applyTags_bads (f : Nat → StoreOp) (hf : ∀ w, ∃ b, f w = StoreOp.bad w b) (ws : List Nat) :
    ∀ m : List (Nat × Tag), applyTags (ws.map f) m = m := by
  induction ws with
  | nil => exact fun m => rfl
  | cons x ws ih =>
    intro m
    obtain ⟨b, hb⟩ := hf x
    have e : applyTags ((x :: ws).map f) m = applyTags (ws.map f) ((f x).onTags m) := rfl
    rw [e, hb]; exact ih m

/-! ## Change.write -/

/-- A byte after a write: the byte written there, else the byte as the change before it leaves it. -/
theorem State.apply_write_byte (s : State) (c : Change) (k : Nat) (bs : List Byte) (a : Nat) (h : Memory.wf s) :
    (s.apply (c.write k bs)).byte a = if k ≤ a ∧ a < k + bs.length then bs.getD (a - k) 0 else (s.apply c).byte a := by
  unfold Change.write
  by_cases he : bs.isEmpty = true
  · simp only [he, if_true]
    have : bs = [] := by simpa using he
    subst this
    simp <;> (intro h1 h2; omega)
  · simp only [he]
    have hw := (s.apply_wf c h).1
    have key : ∀ l : List StoreOp, (∀ o ∈ l, ∀ a, ¬o.covers a) → ∀ m : List Host.Cell, kwf (0 : Byte) m →
        kget 0 (applyMem l m) a = kget 0 m a :=
      fun l hl m hm => applyMem_other l a m hm fun o ho => hl o ho a
    simp only [State.byte, State.apply, Bool.false_eq_true, if_false]
    rw [applyMem_append, applyMem_append, key]
    · split
      · rw [show ∀ l, StoreOp.bytes k bs :: l = [StoreOp.bytes k bs] ++ l from fun l => rfl, applyMem_append, key]
        · exact kget_putBytes bs _ k a hw
        · intro o ho; simp only [List.mem_map] at ho; obtain ⟨w, -, rfl⟩ := ho; exact fun _ h => h
        · exact applyMem_wf _ _ hw
      · exact kget_putBytes bs _ k a hw
    · intro o ho; simp only [List.mem_map] at ho; obtain ⟨w, -, rfl⟩ := ho; exact fun _ h => h
    · exact applyMem_wf _ _ hw

/-- A tag after a write: FULL for the words of tagged storage that it touches. -/
theorem State.apply_write_tag (s : State) (c : Change) (k : Nat) (bs : List Byte) (w : Nat) (h : Memory.wf s) :
    (s.apply (c.write k bs)).tagOf w =
      if bs ≠ [] ∧ tagged k = true ∧ w * 8 < k + bs.length ∧ k < w * 8 + 8 then .full else (s.apply c).tagOf w := by
  unfold Change.write
  by_cases he : bs.isEmpty = true
  · have : bs = [] := by simpa using he
    subst this; simp
  · have hne : bs ≠ [] := by simpa using he
    have hpos : 0 < bs.length := List.length_pos_iff.2 hne
    have hw := (s.apply_wf c h).2
    simp only [he, State.tagOf, State.apply, Bool.false_eq_true, if_false]
    rw [applyTags_append, applyTags_append, applyTags_bads _ fun w => ⟨false, rfl⟩]
    by_cases ht : tagged k = true
    · simp only [ht, if_true]
      rw [show ∀ l, StoreOp.bytes k bs :: l = [StoreOp.bytes k bs] ++ l from fun l => rfl, applyTags_append]
      have e : applyTags [StoreOp.bytes k bs] (applyTags c.ops s.tags) = applyTags c.ops s.tags := rfl
      rw [e, applyTags_tags .full _ (applyTags c.ops s.tags) hw]
      simp only [mem_touched k bs.length w hpos, hne, ne_eq, not_false_eq_true, true_and]
    · simp only [ht]
      simp
      rfl

@[simp] theorem State.note_byte (s : State) (c : Change) (l : Last) (a : Nat) : (s.note c l).byte a = (s.apply c).byte a := rfl
@[simp] theorem State.note_tagOf (s : State) (c : Change) (l : Last) (w : Nat) : (s.note c l).tagOf w = (s.apply c).tagOf w := rfl

/-! ## A word read back -/

/-- A word whose eight bytes are those of `v` reads as `v`. -/
theorem State.wordAt_of_bytes (s : State) (k : Nat) (v : Word) (h : ∀ i < 8, s.byte (k + i) = (wordBytes v).getD i 0) :
    s.wordAt k = v := by
  have : s.bytesAt k 8 = wordBytes v := by
    apply List.ext_getElem
    · simp [State.bytesAt, wordBytes, natBytes_length]
    · intro i h1 h2
      have hi : i < 8 := by simpa [State.bytesAt] using h1
      simp only [State.bytesAt, List.getElem_map, List.getElem_range, h i hi]
      simp [List.getD_eq_getElem?_getD, h2]
  rw [State.wordAt, this, bytesWord_wordBytes]

theorem State.apply_write_word (s : State) (c : Change) (k : Nat) (v : Word) (h : Memory.wf s) :
    (s.apply (c.write k (wordBytes v))).wordAt k = v := by
  apply State.wordAt_of_bytes
  intro i hi
  rw [s.apply_write_byte _ _ _ _ h, if_pos]
  · simp
  · simp [wordBytes, natBytes_length]; omega

end Sys2Proof.Machine
end

