-- ==== Sys2Proof/Tests/Slice0.lean ====
section
/-!
SUPPORT. Tests: ill-formed terms that the check refuses, words that the decoder reads, witnesses for the hypotheses of the
statements, and single instructions on small states.
-/

namespace Sys2Proof.Tests

open Sys2Proof Sys2Proof.Machine Sys2Proof.Claims

/-! ## Ill-formed terms, one for each check -/

theorem smoke_range :
    ∀ i ∈ [Instr.shlImm 1 2 64, .shrImm 1 2 64, .sraImm 1 2 64, .rotImm 1 2 64], i.rangeOk = false ∧ i.wellFormed = false := by decide

theorem smoke_channels_and_numbers :
    ∀ i ∈ [Instr.send 15 0 0, .sendv 3 0 0, .recv 1 15, .recv 1 64, .recvv 16 16, .recvv 1 64, .hset 1 2, .hmaskOn 64, .hmaskOff 2, .ste 1 2 .g 0,
      .bread 3 1 2 .g, .bread 4 1 2 .l, .qst 1 4, .mlease 1 8 1, .mlease 1 0 0, .mlease 1 0 17, .mfree 8, .bars 128, .barw 128, .bari 1 128,
      .specq 1 128, .csave 1 15, .crest 1 15, .ctxkStop 15, .ctxkGo 15, .ctxkKill 15, .stinvPage 1 128, .stinvPid 1 128, .stinvAll 128,
      .keyld 1 1024, .keyldClr 1024, .widx 1 2 6, .accrw 1 0 10, .accrwSt 1 0 10], i.codesOk = false ∧ i.wellFormed = false := by decide

theorem smoke_matrix_pairs :
    ∀ i ∈ [Instr.mma 1 9 10, .mma 1 10 9, .mma 1 13 14, .mma 1 14 10], i.codesOk = false ∧ i.wellFormed = false := by decide

theorem smoke_control_registers :
    ∀ i ∈ [Instr.mtc 1 7, .mtc 1 10, .mtc 1 13, .mtc 1 0x14, .mtc 1 0x22, .mtc 1 0x4C, .mfc 1 7, .mfc 1 10, .mfc 1 0xF, .mfc 1 0x3F],
      i.codesOk = false ∧ i.wellFormed = false := by decide

theorem smoke_sizes_and_formats :
    ∀ i ∈ [Instr.sext 1 2 .w, .zext 1 2 .w, .fcvt 1 2 .lut1 .rne false, .fcvt 1 2 .lut2 .rne true, .vcvt 1 2 .i32 .rne true false,
      .vcvt 1 2 .lut1 .rne false false, .vcvt 19 2 .f16 .rne false false, .vcvts 1 2 .f32 .rne false, .vcvts 1 16 .e4m3 .rne false,
      .vcvts 19 2 .e4m3 .rne false, .vcvts 16 2 .e4m3 .rne true, .vpack 1 2 3 0 .w32, .vunpk 1 2 false false 0 .w32, .vred 1 2 12 0 .w32,
      .vred 1 2 9 0 .w16], i.codesOk = false ∧ i.wellFormed = false := by decide

theorem smoke_vector_registers :
    ∀ i ∈ [Instr.vld 16 1 .l 0, .vst 16 1 .l 0, .vlds 16 1 2 .w .l, .vsts 16 1 2 .w .l, .vldx 16 1 2 .w .l, .vldx 1 1 16 .w .l, .vldx 1 1 2 .b .l,
      .vstx 1 1 2 .h .l, .trd 16 1 true, .twr 16 1 true, .trds 16 1 0 true, .twrs 16 1 0 true, .qwv 16 1, .qrv 16, .vmacI 16 1 2 0 0,
      .vmacN 16 1 2 0 0, .vclampI 16 1 2 0 .w8, .vclampN 16 1 2 0 .w8, .vdotI 16 1 2 0, .vdotN 16 1 2 0, .vffma 16 1 2 0],
      i.codesOk = false ∧ i.wellFormed = false := by decide

theorem smoke_vector_destinations :
    ∀ i ∈ [Instr.vadd 19 1 2 0 .w32, .vsub 19 1 2 0 .w32, .vmul 19 1 2 0 .w32, .vmulhI 19 1 2 0 .w32, .vmulhN 19 1 2 0 .w32, .vand 19 1 2 0 .w32,
      .vor 19 1 2 0 .w32, .vxor 19 1 2 0 .w32, .vshl 19 1 2 0 .w32, .vshr 19 1 2 0 .w32, .vsra 19 1 2 0 .w32, .vminI 19 1 2 0 .w32,
      .vminN 19 1 2 0 .w32, .vmaxI 19 1 2 0 .w32, .vmaxN 19 1 2 0 .w32, .vaddsatI 19 1 2 0 .w32, .vaddsatN 19 1 2 0 .w32, .vsubsatI 19 1 2 0 .w32,
      .vsubsatN 19 1 2 0 .w32, .vrshrI 19 1 2 0 .w32, .vrshrN 19 1 2 0 .w32, .vins 19 1 2 0 .w32, .vperm 19 1 2 0 .w32, .vrot 19 1 2 0 .w32,
      .vslide 19 1 2 0 .w32, .vabs 19 1 0 .w32, .vfadd 19 1 2 0, .vfsub 19 1 2 0, .vfmul 19 1 2 0, .vfmin 19 1 2 0, .vfmax 19 1 2 0,
      .vsplat 19 1 0 .w32, .viota 19 1 0 .w32, .vsel 19 1 2 0, .vfexp2 19 1 0, .vflog2 19 1 0, .vfrcp 19 1 0, .vfrsq 19 1 0, .vmov 19 1 0,
      .vpack 19 1 2 0 .w16, .vunpk 19 1 false false 0 .w16], i.codesOk = false ∧ i.wellFormed = false := by decide

theorem smoke_well_formed : ∀ i ∈ [Instr.add 3 4 5, .vadd 18 1 2 0 .w32, .mma 1 10 15, .mtc 1 0x4B, .mlease 1 7 16], i.wellFormed = true := by decide

/-! ## Words, written out from the encodings of the manual (R18, R19, R33 to R48) and the opcode table -/

/-- The decoder reads this word as this instruction. -/
def reads (w : Nat) (i : Instr) : Prop := decodeTableWord 32 w = some i

theorem test_words_control :
    reads 0x80205A3C (.br 23100) ∧ reads 0x8031DA3C (.brp 3 23100) ∧ reads 0x8044DA3C (.brz 9 23100) ∧
    reads 0x8054DA3C (.bnz 9 23100) ∧ reads 0x80602400 (.bri 9) ∧ reads 0x8074DA3C (.call 9 23100) ∧
    reads 0x80862400 (.calli 12 9) ∧ reads 0x80902400 (.ret 9) ∧ reads 0x80A4DA3C (.loop 9 23100) ∧
    reads 0x80B05A3C (.lexit 23100) ∧ reads 0x80D055A8 (.yield 2741) ∧ reads 0x80E624C5 (.start 12 9 6 5) ∧
    reads 0x80F02400 (.join 9) ∧ reads 0x810624C0 (.spawn 12 9 6) ∧ reads 0x811055A8 (.trap 2741) ∧
    reads 0x812055A8 (.bkpt 2741) ∧ reads 0x81360000 (.evrd 12) ∧ reads 0x81360001 (.evrdPeek 12) ∧
    reads 0x8144A4C1 (.send 41 9 6) ∧ reads 0x8152A4C1 (.sendv 37 9 6) ∧ reads 0x81660128 (.recv 12 37) ∧
    reads 0x81760128 (.recvv 12 37) ∧ reads 0x81960128 (.hset 12 37) ∧ reads 0x81A00128 (.hmaskOn 37) ∧
    reads 0x81A00129 (.hmaskOff 37) ∧ reads 0x80100000 .nop ∧ reads 0x80C00000 .done ∧
    reads 0x81800000 .openAct :=
  ⟨rfl, rfl, rfl, rfl, rfl, rfl, rfl, rfl, rfl, rfl, rfl, rfl, rfl, rfl, rfl, rfl, rfl, rfl, rfl, rfl, rfl, rfl, rfl, rfl, rfl, rfl, rfl, rfl⟩

theorem test_words_memory :
    reads 0x820626AB (.ld 12 9 .ci .s 43) ∧ reads 0x821626AB (.ldSx 12 9 .ci .s 43) ∧
    reads 0x822626AB (.st 12 9 .ci .s 43) ∧ reads 0x823626EB (.vld 12 9 .ci 43) ∧
    reads 0x824626EB (.vst 12 9 .ci 43) ∧ reads 0x825624CA (.vlds 12 9 6 .s .ci) ∧
    reads 0x826624CA (.vsts 12 9 6 .s .ci) ∧ reads 0x827624CA (.vldx 12 9 6 .s .ci) ∧
    reads 0x828624CA (.vstx 12 9 6 .s .ci) ∧ reads 0x8296242B (.ldfTake 12 9 43) ∧
    reads 0x8296246B (.ldfKeep 12 9 43) ∧ reads 0x82A625EB (.ste 12 9 .cd 43) ∧
    reads 0x82B024C0 (.tags 9 6) ∧ reads 0x82B024C1 (.tagsV 9 6) ∧ reads 0x82C62400 (.tagr 12 9) ∧
    reads 0x82C62401 (.tagrV 12 9) ∧ reads 0x82D4A4C5 (.bread 41 9 6 .ci) ∧ reads 0x83300002 (.fence .dev) ∧
    reads 0x83400002 (.rel .dev) ∧ reads 0x83500002 (.acq .dev) ∧ reads 0x830624C2 (.amoAdd 12 9 6 .dev) ∧
    reads 0x830624C6 (.amoAnd 12 9 6 .dev) ∧ reads 0x830624CA (.amoOr 12 9 6 .dev) ∧
    reads 0x830624CE (.amoXor 12 9 6 .dev) ∧ reads 0x830624D2 (.amoMin 12 9 6 .dev) ∧
    reads 0x830624D6 (.amoMax 12 9 6 .dev) ∧ reads 0x830624DA (.amoMinu 12 9 6 .dev) ∧
    reads 0x830624DE (.amoMaxu 12 9 6 .dev) ∧ reads 0x831624C2 (.cas 12 9 6 .dev) ∧
    reads 0x831624C6 (.casXchg 12 9 6 .dev) ∧ reads 0x832624C2 (.famoFadd 12 9 6 .dev) ∧
    reads 0x832624C6 (.famoFmin 12 9 6 .dev) ∧ reads 0x832624CA (.famoFmax 12 9 6 .dev) :=
  ⟨rfl, rfl, rfl, rfl, rfl, rfl, rfl, rfl, rfl, rfl, rfl, rfl, rfl, rfl, rfl, rfl, rfl, rfl, rfl, rfl, rfl, rfl, rfl, rfl, rfl, rfl, rfl, rfl, rfl, rfl, rfl, rfl, rfl⟩

theorem test_words_tracksAndFabric :
    reads 0x83804C00 (.town 19) ∧ reads 0x83804C01 (.townKeep 19) ∧ reads 0x83904C00 (.tfree 19) ∧
    reads 0x83A04ED4 (.tseek 19 181) ∧ reads 0x83A4CC01 (.tseekReg 9 19) ∧ reads 0x83B04ED4 (.tstep 19 181) ∧
    reads 0x83B4CC01 (.tstepReg 9 19) ∧ reads 0x83C04C00 (.trew 19) ∧ reads 0x83D64C01 (.trd 12 19 true) ∧
    reads 0x83E64ED5 (.trds 12 19 181 true) ∧ reads 0x83F64C01 (.twr 12 19 true) ∧
    reads 0x84064ED5 (.twrs 12 19 181 true) ∧ reads 0x84104C00 (.twait 19) ∧
    reads 0x84264C00 (.thead 12 19) ∧ reads 0x84304C00 (.talign 19) ∧ reads 0x84404C00 (.tshare 19) ∧
    reads 0x84404C01 (.tshareOff 19) ∧ reads 0x849624C2 (.invoke 12 9 6 2) ∧
    reads 0x849624C6 (.invokeRetry 12 9 6 2) ∧ reads 0x84B02400 (.hgrant 9) ∧ reads 0x84C00000 .hrevoke ∧
    reads 0x848624C0 (.rrot 12 9 6) ∧ reads 0x84A62400 (.grprd 12 9) :=
  ⟨rfl, rfl, rfl, rfl, rfl, rfl, rfl, rfl, rfl, rfl, rfl, rfl, rfl, rfl, rfl, rfl, rfl, rfl, rfl, rfl, rfl, rfl, rfl⟩

theorem test_words_units :
    reads 0x85060000 (.qw 12) ∧ reads 0x85160408 (.qwv 12 2) ∧ reads 0x85260C00 (.qr 12) ∧
    reads 0x85360800 (.qrv 12) ∧ reads 0x85460800 (.qst 12 2) ∧ reads 0x8556142C (.mlease 12 5 11) ∧
    reads 0x85601400 (.mfree 5) ∧ reads 0x85760418 (.mma 12 8 3) ∧ reads 0x86002400 (.xld 9) ∧
    reads 0x86162400 (.xwait 12 9) ∧ reads 0x86202400 (.xcan 9) ∧ reads 0x86302400 (.xst 9) ∧
    reads 0x86800134 (.bars 77) ∧ reads 0x86900134 (.barw 77) ∧ reads 0x86A48134 (.bari 9 77) ∧
    reads 0x86B60134 (.specq 12 77) ∧ reads 0x86B60001 (.specqSelf 12) ∧ reads 0x86D60000 (.tsnow 12) ∧
    reads 0x86D60001 (.tsnowHz 12) ∧ reads 0x85800000 .mset ∧ reads 0x86C024C0 (.task 9 6) ∧
    reads 0x86E62400 (.glaunch 12 9) ∧ reads 0x86F02400 (.gdone 9) :=
  ⟨rfl, rfl, rfl, rfl, rfl, rfl, rfl, rfl, rfl, rfl, rfl, rfl, rfl, rfl, rfl, rfl, rfl, rfl, rfl, rfl, rfl, rfl, rfl⟩

theorem test_words_system :
    reads 0x87060228 (.mtc 12 69) ∧ reads 0x87160108 (.mfc 12 33) ∧ reads 0x87160050 (.xgo 12) ∧
    reads 0x87248000 (.setwp 9) ∧ reads 0x87348068 (.csave 9 13) ∧ reads 0x87448068 (.crest 9 13) ∧
    reads 0x87500068 (.ctxkStop 13) ∧ reads 0x87500069 (.ctxkGo 13) ∧ reads 0x8750006A (.ctxkKill 13) ∧
    reads 0x87710000 (.halt 2) ∧ reads 0x87710001 (.haltBounce 2) ∧ reads 0x87710002 (.haltOff 2) ∧
    reads 0x87860000 (.scan 12) ∧ reads 0x87948000 (.cmap 9) ∧ reads 0x87A48328 (.stinvPage 9 101) ∧
    reads 0x87A48329 (.stinvPid 9 101) ∧ reads 0x87A0032A (.stinvAll 101) ∧ reads 0x87B49728 (.keyld 9 741) ∧
    reads 0x87B01729 (.keyldClr 741) ∧ reads 0x87C60528 (.perfqSum 12 2 37) ∧
    reads 0x87C60529 (.perfqMin 12 2 37) ∧ reads 0x87C6052A (.perfqMax 12 2 37) ∧
    reads 0x87D48000 (.trarm 9) ∧ reads 0x87600000 .eret ∧ reads 0x87D00001 .trarmOff ∧
    reads 0x87D00002 .trarmStop :=
  ⟨rfl, rfl, rfl, rfl, rfl, rfl, rfl, rfl, rfl, rfl, rfl, rfl, rfl, rfl, rfl, rfl, rfl, rfl, rfl, rfl, rfl, rfl, rfl, rfl, rfl, rfl⟩

theorem test_words_scalar1 :
    reads 0xC01624C0 (.add 12 9 6) ∧ reads 0xC01624C1 (.sub 12 9 6) ∧ reads 0xC01624C2 (.and 12 9 6) ∧
    reads 0xC01624C3 (.or 12 9 6) ∧ reads 0xC01624C4 (.xor 12 9 6) ∧ reads 0xC01624C5 (.andn 12 9 6) ∧
    reads 0xC01624C6 (.shl 12 9 6) ∧ reads 0xC01624C7 (.shr 12 9 6) ∧ reads 0xC01624C8 (.sra 12 9 6) ∧
    reads 0xC01624C9 (.rot 12 9 6) ∧ reads 0xC01624CA (.min 12 9 6) ∧ reads 0xC01624CB (.max 12 9 6) ∧
    reads 0xC01624CC (.minu 12 9 6) ∧ reads 0xC01624CD (.maxu 12 9 6) ∧ reads 0xC01624CE (.addsat 12 9 6) ∧
    reads 0xC01624CF (.subsat 12 9 6) ∧ reads 0xC0262400 (.mov 12 9) ∧ reads 0xC0262401 (.abs 12 9) ∧
    reads 0xC0262402 (.clz 12 9) ∧ reads 0xC0262403 (.ctz 12 9) ∧ reads 0xC0262404 (.popc 12 9) ∧
    reads 0xC0262445 (.sext 12 9 .s) ∧ reads 0xC0262446 (.zext 12 9 .s) ∧ reads 0xC03624C0 (.mul 12 9 6) ∧
    reads 0xC03624C1 (.mulh 12 9 6) ∧ reads 0xC03624C2 (.mulhu 12 9 6) ∧ reads 0xC03624C3 (.div 12 9 6) ∧
    reads 0xC03624C4 (.divu 12 9 6) :=
  ⟨rfl, rfl, rfl, rfl, rfl, rfl, rfl, rfl, rfl, rfl, rfl, rfl, rfl, rfl, rfl, rfl, rfl, rfl, rfl, rfl, rfl, rfl, rfl, rfl, rfl, rfl, rfl, rfl⟩

theorem test_words_scalar2 :
    reads 0xC03624C5 (.rem 12 9 6) ∧ reads 0xC03624C6 (.remu 12 9 6) ∧ reads 0xC04624C5 (.sel 12 9 6 5) ∧
    reads 0xC05624C0 (.bfx 12 9 6) ∧ reads 0xC05624C1 (.bfxSx 12 9 6) ∧ reads 0xC06624C0 (.bfi 12 9 6) ∧
    reads 0xC07624C6 (.adds 12 9 6 6) ∧ reads 0xC0862404 (.widx 12 9 4) ∧
    reads 0xC10626C5 (.addImm 12 9 709) ∧ reads 0xC11626C5 (.andImm 12 9 709) ∧
    reads 0xC12626C5 (.orImm 12 9 709) ∧ reads 0xC13626C5 (.xorImm 12 9 709) ∧
    reads 0xC146242D (.shlImm 12 9 45) ∧ reads 0xC156242D (.shrImm 12 9 45) ∧
    reads 0xC166242D (.sraImm 12 9 45) ∧ reads 0xC176242D (.rotImm 12 9 45) ∧
    reads 0xC18626C5 (.minImm 12 9 709) ∧ reads 0xC19626C5 (.maxImm 12 9 709) ∧
    reads 0xC1A626C5 (.mulImm 12 9 709) ∧ reads 0xC1C65A3C (.movi 12 23100) ∧
    reads 0xC1D65A3C (.movh 12 23100) ∧ reads 0xC20324C7 (.cmp 6 9 6 .gt) ∧ reads 0xC2130CA0 (.pand 6 3 5) ∧
    reads 0xC2130CA1 (.por 6 3 5) ∧ reads 0xC2130CA2 (.pxor 6 3 5) ∧ reads 0xC2130C03 (.pnot 6 3) ∧
    reads 0xC2130C04 (.pmov 6 3) :=
  ⟨rfl, rfl, rfl, rfl, rfl, rfl, rfl, rfl, rfl, rfl, rfl, rfl, rfl, rfl, rfl, rfl, rfl, rfl, rfl, rfl, rfl, rfl, rfl, rfl, rfl, rfl, rfl⟩

theorem test_words_floats :
    reads 0xC28624C0 (.fadd 12 9 6) ∧ reads 0xC28624C1 (.fsub 12 9 6) ∧ reads 0xC28624C2 (.fmul 12 9 6) ∧
    reads 0xC28624C3 (.ffma 12 9 6) ∧ reads 0xC28624C4 (.fmin 12 9 6) ∧ reads 0xC28624C5 (.fmax 12 9 6) ∧
    reads 0xC2862406 (.fabs 12 9) ∧ reads 0xC2862407 (.fneg 12 9) ∧ reads 0xC28624C8 (.fdiv 12 9 6) ∧
    reads 0xC2862409 (.fsqrt 12 9) ∧ reads 0xC286240A (.fclass 12 9) ∧ reads 0xC29324C5 (.fcmp 6 9 6 .ge) ∧
    reads 0xC2A6248D (.fcvt 12 9 .e5m2 .rd true) :=
  ⟨rfl, rfl, rfl, rfl, rfl, rfl, rfl, rfl, rfl, rfl, rfl, rfl, rfl⟩

theorem test_words_vector1 :
    reads 0xC30624D5 (.vadd 12 9 6 5 .w16) ∧ reads 0xC31624D5 (.vsub 12 9 6 5 .w16) ∧
    reads 0xC32624D5 (.vmul 12 9 6 5 .w16) ∧ reads 0xC33624D5 (.vmulhI 12 9 6 5 .w16) ∧
    reads 0xC34624D5 (.vmulhN 12 9 6 5 .w16) ∧ reads 0xC35624D6 (.vmacI 12 9 6 5 2) ∧
    reads 0xC36624D6 (.vmacN 12 9 6 5 2) ∧ reads 0xC37624D6 (.vdotI 12 9 6 5) ∧
    reads 0xC38624D6 (.vdotN 12 9 6 5) ∧ reads 0xC39624D5 (.vand 12 9 6 5 .w16) ∧
    reads 0xC3A624D5 (.vor 12 9 6 5 .w16) ∧ reads 0xC3B624D5 (.vxor 12 9 6 5 .w16) ∧
    reads 0xC3C624D5 (.vshl 12 9 6 5 .w16) ∧ reads 0xC3D624D5 (.vshr 12 9 6 5 .w16) ∧
    reads 0xC3E624D5 (.vsra 12 9 6 5 .w16) ∧ reads 0xC3F624D5 (.vminI 12 9 6 5 .w16) ∧
    reads 0xC40624D5 (.vminN 12 9 6 5 .w16) ∧ reads 0xC41624D5 (.vmaxI 12 9 6 5 .w16) ∧
    reads 0xC42624D5 (.vmaxN 12 9 6 5 .w16) ∧ reads 0xC4362415 (.vabs 12 9 5 .w16) :=
  ⟨rfl, rfl, rfl, rfl, rfl, rfl, rfl, rfl, rfl, rfl, rfl, rfl, rfl, rfl, rfl, rfl, rfl, rfl, rfl, rfl⟩

theorem test_words_vector2 :
    reads 0xC44624D5 (.vaddsatI 12 9 6 5 .w16) ∧ reads 0xC45624D5 (.vaddsatN 12 9 6 5 .w16) ∧
    reads 0xC46624D5 (.vsubsatI 12 9 6 5 .w16) ∧ reads 0xC47624D5 (.vsubsatN 12 9 6 5 .w16) ∧
    reads 0xC48624D5 (.vrshrI 12 9 6 5 .w16) ∧ reads 0xC49624D5 (.vrshrN 12 9 6 5 .w16) ∧
    reads 0xC4A624D5 (.vclampI 12 9 6 5 .w16) ∧ reads 0xC4B624D5 (.vclampN 12 9 6 5 .w16) ∧
    reads 0xC4C32571 (.vcmpI 6 9 11 .gt .w16) ∧ reads 0xC4D32571 (.vcmpN 6 9 11 .gt .w16) ∧
    reads 0xC50624D4 (.vfadd 12 9 6 5) ∧ reads 0xC51624D4 (.vfsub 12 9 6 5) ∧
    reads 0xC52624D4 (.vfmul 12 9 6 5) ∧ reads 0xC53624D4 (.vffma 12 9 6 5) ∧
    reads 0xC54624D4 (.vfmin 12 9 6 5) ∧ reads 0xC55624D4 (.vfmax 12 9 6 5) ∧
    reads 0xC5662414 (.vfexp2 12 9 5) ∧ reads 0xC5762414 (.vflog2 12 9 5) ∧
    reads 0xC5862414 (.vfrcp 12 9 5) ∧ reads 0xC5962414 (.vfrsq 12 9 5) :=
  ⟨rfl, rfl, rfl, rfl, rfl, rfl, rfl, rfl, rfl, rfl, rfl, rfl, rfl, rfl, rfl, rfl, rfl, rfl, rfl, rfl⟩

theorem test_words_moves :
    reads 0xC6062414 (.vmov 12 9 5) ∧ reads 0xC6162415 (.vsplat 12 9 5 .w16) ∧
    reads 0xC62624C1 (.vext 12 9 6 .w16) ∧ reads 0xC63624D5 (.vins 12 9 6 5 .w16) ∧
    reads 0xC6462415 (.viota 12 9 5 .w16) ∧ reads 0xC65624D5 (.vperm 12 9 6 5 .w16) ∧
    reads 0xC66624D5 (.vrot 12 9 6 5 .w16) ∧ reads 0xC67624D5 (.vslide 12 9 6 5 .w16) ∧
    reads 0xC68624D5 (.vpack 12 9 6 5 .w16) ∧ reads 0xC6962475 (.vunpk 12 9 true true 5 .w16) ∧
    reads 0xC6A624D5 (.vred 12 9 6 5 .w16) ∧ reads 0xC6B624D4 (.vsel 12 9 6 5) ∧
    reads 0xC6C30CA0 (.mand 6 3 5) ∧ reads 0xC6D30CA0 (.mor 6 3 5) ∧ reads 0xC6E30CA0 (.mxor 6 3 5) ∧
    reads 0xC6F30C00 (.mnot 6 3) ∧ reads 0xC7060C00 (.mpop 12 3) :=
  ⟨rfl, rfl, rfl, rfl, rfl, rfl, rfl, rfl, rfl, rfl, rfl, rfl, rfl, rfl, rfl, rfl, rfl⟩

theorem test_words_wide :
    reads 0xC746248F (.vcvt 12 9 .e5m2 .rd true true) ∧ reads 0xC756248D (.vcvts 12 9 .e5m2 .rd true) ∧
    reads 0xC7830000 (.accz 6) ∧ reads 0xC7932402 (.accw 6 9 true) ∧
    reads 0xC7932563 (.accwMul 6 9 11 true) ∧ reads 0xC7A32402 (.accwv 6 9 true) ∧
    reads 0xC7A32563 (.accwvMul 6 9 11 true) ∧ reads 0xC7B60C0C (.accrd 12 3 .rd) ∧
    reads 0xC7C60CC0 (.accrw 12 3 6) ∧ reads 0xC7C60C01 (.accrwX 12 3) ∧ reads 0xC7CB0CC2 (.accrwSt 22 3 6) ∧
    reads 0xC7CB0C03 (.accrwStx 22 3) :=
  ⟨rfl, rfl, rfl, rfl, rfl, rfl, rfl, rfl, rfl, rfl, rfl, rfl⟩

/-! ## Small states -/

/-- Words of core 0's near SRAM as memory holds them: pairs of an offset and a word, offsets rising. -/
def near (ws : List (Nat × Word)) : List Host.Cell :=
  ws.flatMap fun e => ((wordBytes e.2).zipIdx.filter fun b => decide (b.1 ≠ 0)).map fun b => (nearKey 0 (e.1 + b.2), b.1)

/-- Core 0 with a live context in slot `sl`, whose group is at address 0, words in near SRAM, and nothing under way. -/
def at_ (sl : Nat) (ws : List (Nat × Word) := []) (x : Ctx := {}) (k : Core := {}) (d : Dev := {}) : State :=
  { mem := near ws
    dev := { d with booted := true, cur := { slot := sl },
                    cores := (0, { k with ctxs := (sl, { x with live := true, wp := 0x32800 }) :: k.ctxs }) :: d.cores } }

/-- Slot 0 of core 0 with values in w1 and w2. -/
def two (a b : Word) (x : Ctx := {}) (k : Core := {}) (d : Dev := {}) : State := at_ 0 [(0x32808, a), (0x32810, b)] x k d

/-- A state without tags, fills, pending results and errors is ready for every group. -/
theorem quiet (s : State) (fp : Foot) (h : s.view.tags = [] ∧ s.dev.fills = [] ∧ s.board = [] ∧ s.bad = [] ∧ s.soft = []) : Ready s fp :=
  ready_of_quiet s fp h.1 h.2.1 h.2.2.1 h.2.2.2.1 h.2.2.2.2

/-! ## Witnesses: scalar instructions -/

theorem witness_RegisterWritesAreExact : Safe (two 5 9) ∧ (two 5 9).snap = none ∧ tagged ((two 5 9).wKey 31) = true := by decide

/-- A machine at the end of a cycle, with one pending result that is readable from the next, and nothing else due. -/
def landing : State :=
  at_ 0 [] { pipe := [{ due := 1, words := [nearKey 0 0x32808 / 8], bytes := [(nearKey 0 0x32808, wordBytes 7)] }] } {} { turn := [.land] }

theorem witness_LongerResultsWaitAndLand :
    Safe landing ∧ landing.dev.turn = .land :: [] ∧ (∀ r ∈ (landing.core 0).recent, r.1 ≠ landing.dev.now) ∧ (∀ r ∈ (landing.core 0).tagged, r.1 ≠ landing.dev.now) ∧
    (landing.ctx 0 0).pipe = [{ due := landing.dev.now + 1, words := [nearKey 0 0x32808 / 8], bytes := [(nearKey 0 0x32808, wordBytes 7)] }] ∧
    (∀ c ∈ landing.dev.cores, ∀ x ∈ c.2.ctxs, (c.1 = 0 ∧ x.1 = 0 ∧ c.2 = landing.core 0 ∧ x.2 = landing.ctx 0 0) ∨
      ∀ e ∈ x.2.pipe, landing.dev.now + 1 < e.due) := by decide

theorem witness_LongerResultsWaitAndLand_step : ∃ t, step landing = .next t := ⟨_, rfl⟩

theorem witness_ScalarTwoOperandResults : Ready (two 5 9) { src := (two 5 9).srcW 1 ++ (two 5 9).srcW 2, dst := (two 5 9).srcW 3 } :=
  quiet _ _ (by decide)

theorem witness_ScalarOneOperandResults :
    Ready (two 12 0) { src := (two 12 0).srcW 1, dst := (two 12 0).srcW 3 } ∧
    (2 ^ 3 ≤ ((two 12 0).w 1).toNat ∧ ((two 12 0).w 1).toNat < 2 ^ 4 ∧ ((two 12 0).w 1).toNat = 2 ^ 2 * (2 * 1 + 1)) ∧
    (two 12 0).w 2 = 0 := ⟨quiet _ _ (by decide), by decide, by decide⟩

/-! ## Single instructions -/

/-- The state after an instruction. -/
def after (i : Instr) (s : State) : State := match exec i s with
  | .next t => t
  | _ => s
/-- Words of a vector register: pairs of a word's number and its value, rising. -/
def vec (v : Nat) (ws : List (Nat × Word)) : List (Nat × Word) := ws.map fun l => (0x32A00 + 256 * v + 8 * l.1, l.2)
/-- The word number `n` of the result that an instruction has started, as a number. -/
def result (i : Instr) (s : State) (n : Nat) : List Nat := (after i s).me.pipe.map fun p => leNat ((p.bytes.getD n (0, [])).2)

/-- R111: a sum wraps modulo 2^64 (by hand). -/
theorem test_add_wraps : (after (.add 3 1 2) (two (BitVec.allOnes 64) 1)).w 3 = 0 ∧ (after (.add 3 1 2) (two (BitVec.allOnes 64) 3)).w 3 = 2 := by decide
/-- R116: the high word of −1 × 1 is −1 (by hand). -/
theorem test_mulh_sign : result (.mulh 3 1 2) (two (BitVec.allOnes 64) 1) 0 = [2 ^ 64 - 1] := by decide
/-- R138, the manual's example: `VRED.fadd` of 1, 2^24, 1, −2^24 is 1.0. -/
theorem test_vred_fadd : result (.vred 5 2 9 0 .w32) (at_ 0 (vec 2 [(0, 0x4B8000003F800000), (1, 0xCB8000003F800000)])) 0 = [0x3F800000] := by decide +kernel
/-- R131, the manual's example: `VRSHR.i8` by 3 of 1,000, −1,004 and 2,000 gives 125, −125 and 127. -/
theorem test_vrshr_saturates :
    let r := result (.vrshrI 3 1 2 0 .w8) (at_ 0 (vec 1 [(0, 0xFFFFFC14000003E8), (1, 2000)] ++ vec 2 [(0, 0x0000000300000003), (1, 3)]))
    r 0 = [0xFFFFFF830000007D] ∧ r 1 = [127] := by decide +kernel
/-- R141, the manual's example: 40.0 in lane 50 under a scale of 2^3 becomes the code 0x6 in byte 25; and back, 32.0. -/
theorem test_vcvts_ties_to_even :
    result (.vcvts 6 4 .e2m1 .rne true) (at_ 0 (vec 4 [(25, 0x42200000)] ++ vec 6 [(31, 0x8200)])) 3 = [0x600] := by decide +kernel
theorem test_vcvts_scales_in : result (.vcvts 7 6 .e2m1 .rne false) (at_ 0 (vec 6 [(3, 0x600), (31, 0x8200)])) 25 = [0x42000000] := by decide +kernel
/-- R353: AES, FIPS 197's examples: the substitution of 0x53, and the 256-bit key 00 01 … 1f on the block 00 11 … ff. -/
theorem test_aes_substitution : subByte 0x53 = 0xED ∧ unsubByte 0xED = 0x53 := by decide
theorem test_aes_block :
    leNat ((aesBlock (roundKeys (natBytes 32 0x1F1E1D1C1B1A191817161514131211100F0E0D0C0B0A09080706050403020100))
      (natBytes 16 0xFFEEDDCCBBAA99887766554433221100)).take 4) = 0xCAB7A28E := by decide +kernel
/-- R391, R433: SHA-256 and SHA-384 of "abc" (FIPS 180-4's examples), and HMAC-SHA-256 (RFC 4231, case 2). -/
theorem test_sha256 : beNat ((sha256.hash [0x61, 0x62, 0x63]).take 8) = 0xBA7816BF8F01CFEA := by decide +kernel
theorem test_sha384 : beNat ((sha384.hash [0x61, 0x62, 0x63]).take 8) = 0xCB00753F45A35E8B := by decide +kernel
theorem test_hmac :
    beNat ((sha256.hmac (natBytes 4 0x6566654A) (natBytes 28 0x3F676E6968746F6E20726F6620746E6177206179206F642074616877)).take 8)
      = 0x5BDCC146BF60754E := by decide +kernel
/-- R65, R96: an MTC of LCNT in the last group of a body: the body repeats under the old count, and the written count stands. -/
theorem test_mtc_lcnt_at_the_end_of_a_body :
    let t := after (.mtc 1 4) (two 5 0 { lcnt := 3 * 2 ^ 32, lbeg := 64 * 2 ^ 32, lend := 0 })
    t.me.next = some 64 ∧ t.me.lcnt = 5 := by decide


theorem witness_MultiplyInsertSelectMove :
    Ready (two 5 9) { src := (two 5 9).srcW 1 ++ (two 5 9).srcW 2 ++ (two 5 9).srcW 3, dst := (two 5 9).srcW 3 } ∧
    Ready (two 5 9) { src := (two 5 9).srcP 7 ++ (two 5 9).srcW 1 ++ (two 5 9).srcW 2, dst := (two 5 9).srcW 0 } :=
  ⟨quiet _ _ (by decide), quiet _ _ (by decide)⟩

/-- A work ID whose six fields have the widths 3, 0, 4, 1, 2 and 6. -/
def ids : State := two 0x5A5A 0 {} { widths := [3, 0, 4, 1, 2, 6] }

theorem witness_ImmediateAndWorkIdResults :
    Ready ids { src := ids.srcW 1, dst := ids.srcW 31 } ∧ (63 : BitVec 10).toNat ≤ 63 ∧
    (ids.my.widths = [] ++ 3 :: [0, 4, 1, 2, 6] ∧ ([] : List Nat).length = (0 : BitVec 10).toNat) ∧
    (ids.my.widths = [3, 0, 4, 1, 2] ++ 6 :: [] ∧ [3, 0, 4, 1, 2].length = (5 : BitVec 10).toNat) :=
  ⟨quiet _ _ (by decide), by decide, by decide, by decide⟩

theorem witness_DivisionFills :
    ((two 5 0).my.divUntil ≤ (two 5 0).dev.now ∧ Ready (two 5 0) { src := (two 5 0).srcW 1 ++ (two 5 0).srcW 2, dst := (two 5 0).srcW 3 }) ∧
    ((two 5 9 {} { divUntil := 1 }).dev.now < (two 5 9 {} { divUntil := 1 }).my.divUntil ∧
      Ready (two 5 9 {} { divUntil := 1 }) { src := (two 5 9 {} { divUntil := 1 }).srcW 1 ++ (two 5 9 {} { divUntil := 1 }).srcW 2, dst := [] } ∧
      Ready (two 5 9 {} { divUntil := 1 }) { src := (two 5 9 {} { divUntil := 1 }).srcW 1, dst := (two 5 9 {} { divUntil := 1 }).srcW 3 }) :=
  ⟨⟨by decide, quiet _ _ (by decide)⟩, by decide, quiet _ _ (by decide), quiet _ _ (by decide)⟩

theorem witness_ComparesAndPredicates :
    Ready (two 5 9) { src := (two 5 9).srcW 1 ++ (two 5 9).srcW 2, part := (two 5 9).srcP 7 } ∧
    Ready (two 5 9) { src := (two 5 9).srcP 1 ++ (two 5 9).srcP 2, part := (two 5 9).srcP 0 } :=
  ⟨quiet _ _ (by decide), quiet _ _ (by decide)⟩

/-- FP32 operands: a NaN, the two zeros, and 1. -/
theorem witness_FloatResultsAndClasses :
    decodeNum false .f32 0x7FC00001 = .nan ∧
    ((decodeNum false .f32 0x80000000).cmp (decodeNum false .f32 0) = some .eq ∧ decodeNum false .f32 0 ≠ .nan) ∧
    (decodeNum false .f32 0).cmp (decodeNum false .f32 0x3F800000) = some .lt ∧
    Ready (two 0x7FC00001 0x80000000) { src := (two 0x7FC00001 0x80000000).srcW 1 ++ (two 0x7FC00001 0x80000000).srcW 2,
                                        dst := (two 0x7FC00001 0x80000000).srcW 3 } ∧
    ((two 0x7FC00001 0x80000000).w 1 = 0x7FC00001 ∧ (two 0x7FC00001 0x80000000).w 2 = 0x80000000) :=
  ⟨by decide, by decide, by decide, quiet _ _ (by decide), by decide⟩

/-! ## Witnesses: memory -/

/-- The last byte of near SRAM, the first address behind it, the ends of the windows, and misaligned bases. -/
theorem witness_AddressChecksAndMisalignment :
    ((two 0 0).harvest = false ∧ (two 0 0).myCluster < 96) ∧
    ((0x3FFF8 + 8 ≤ 0x40000 ∧ 0x40000 < 0x240000) ∧ (199 * 8388608 + 8388600) / 8388608 ≤ 199 ∧ 191 * 8388608 % 8388608 + 8 ≤ 0x40000) ∧
    (two 0 0).retired (logicalAt (two 0 0).myCluster 191) = false ∧
    (two 0 0 {} {} { coreMap := [(0, (0, true))] }).retired (logicalAt (two 0 0 {} {} { coreMap := [(0, (0, true))] }).myCluster 0) = true ∧
    ((two 3 0).loadRoom = none ∧ (two 3 0).speculative = false ∧ (addr (two 3 0) 1 0 8).toNat % Size.bytes .w ≠ 0 ∧
      (addr (two 3 0) 1 0 256).toNat % 8 ≠ 0) ∧
    ((two 3 0).noRoom 272 = none ∧ (two 3 0).overflow 272 = none) ∧
    Ready (two 3 0) { src := (two 3 0).srcW 1 ++ (two 3 0).srcV 2, dst := (two 3 0).srcW 2 } :=
  ⟨by decide, by decide, by decide, by decide, by decide, by decide, quiet _ _ (by decide)⟩

/-- Vectors that start in a region and run past its end, as the cases after R261 have them; and `.ci` accesses that pass, that pass the
window, and that meet a retired core. -/
theorem witness_AddressChecksAndMisalignment_edges :
    (0x3FF08 < 0x40000 ∧ 0x40000 < 0x3FF08 + 256) ∧ (2 ^ 57 - 8 < 2 ^ 57 ∧ 2 ^ 57 < 2 ^ 57 - 8 + 256) ∧
    (0x3FF80 / 8388608 < 192 ∧ 0x3FF80 % 8388608 < 0x40000 ∧ 0x40000 < 0x3FF80 % 8388608 + 256 ∧ (two 0 0).retired (logicalAt (two 0 0).myCluster 0) = false) ∧
    (let a := 199 * 8388608 + 0x7FFF80; (two 0 0).myCluster < 96 ∧ 192 ≤ a / 8388608 ∧ a / 8388608 ≤ 199 ∧ 8388608 < a % 8388608 + 256) ∧
    ((∀ j < 32, (two 0 0).retired (logicalAt (two 0 0).myCluster ((0x2FFFF00 / 8 + j) % 192)) = false) ∧ 0x2FFFF00 + 256 ≤ 0x3000000) ∧
    ((∀ j < 32, (two 0 0).retired (logicalAt (two 0 0).myCluster ((0x2FFFF80 / 8 + j) % 192)) = false) ∧ 0x2FFFF80 < 0x3000000 ∧
      0x3000000 < 0x2FFFF80 + 256) ∧
    (let s := two 0 0 {} {} { coreMap := [(1, (1, true))] }
     8 * 1 < 256 ∧ 0 + 8 * 1 < 0x3000000 ∧ s.retired (logicalAt s.myCluster ((0 / 8 + 1) % 192)) = true ∧
       ∀ i < 1, s.retired (logicalAt s.myCluster ((0 / 8 + i) % 192)) = false) := by decide

/-- A local access of 8 bytes at the last word of near SRAM, and of 256 bytes at address 8. -/
theorem witness_LocalLoadResults :
    ((two 0x3FFF8 0).localTrap (addr (two 0x3FFF8 0) 1 0 8) 8 8 false = none ∧ (two 0x3FFF8 0).regsReady ((two 0x3FFF8 0).srcW 1) = true ∧
      (two 0x3FFF8 0).bankWait 0x3FFF8 8 = none ∧ (two 0x3FFF8 0).trackWait (nearKey 0 0x3FFF8) 8 = none) ∧
    ((two 8 0).localTrap (addr (two 8 0) 1 0 256) 256 8 false = none ∧ (two 8 0).bankWait 8 256 = none ∧
      (two 8 0).trackWait (nearKey 0 8) 256 = none) ∧
    Ready (two 8 0) { src := (two 8 0).srcW 1, dst := (two 8 0).srcV 15, mem := (two 8 0).readWords 8 256 ((two 8 0).forwards .l 8 256) } :=
  ⟨by decide, by decide, quiet _ _ (by decide)⟩

theorem witness_RemoteLoadsFillLater :
    Safe (two 8 0) ∧ AddrMode.g ≠ .l ∧ (two 8 0).loadRoom = none ∧
    ((two 8 0).checkAccess .g (addr (two 8 0) 1 0 8) 8 8 false = none ∧ (two 8 0).checkAccess .cd (addr (two 8 0) 1 0 256) 256 8 false = none) ∧
    Ready (two 8 0) { src := (two 8 0).srcW 1, dst := (two 8 0).srcV 15 } := ⟨by decide, by decide, by decide, by decide, quiet _ _ (by decide)⟩

theorem witness_LocalStoresWriteTheirBytes :
    Safe (two 0x3FFF8 0) ∧ (two 0x3FFF8 0).speculative = false ∧
    ((two 0x3FFF8 0).localTrap (addr (two 0x3FFF8 0) 1 0 8) 8 8 true = none ∧
      (two 0x3FFF8 0).regsReady ((two 0x3FFF8 0).srcW 1 ++ (two 0x3FFF8 0).srcW 2) = true ∧ (two 0x3FFF8 0).bankWait 0x3FFF8 8 = none) ∧
    ((two 8 0).localTrap (addr (two 8 0) 1 0 256) 256 8 true = none ∧ (two 8 0).regsReady ((two 8 0).srcW 1 ++ (two 8 0).srcV 2) = true) ∧
    Ready (two 8 0) { src := (two 8 0).srcW 1 ++ (two 8 0).srcV 2, memPart := (two 8 0).partOf 8 256 } :=
  ⟨by decide, by decide, by decide, by decide, quiet _ _ (by decide)⟩

/-- A contained activation with room in the hold buffer, and an open one. -/
theorem witness_RemoteStoresAreEffects :
    ((two 8 0).checkAccess .g (addr (two 8 0) 1 0 8) 8 8 true = none ∧ (two 8 0).noRoom 16 = none ∧ (two 8 0).overflow 16 = none) ∧
    ((two 8 0).checkAccess .ci (addr (two 8 0) 1 0 256) 256 8 true = none ∧ (two 8 0).noRoom 264 = none ∧ (two 8 0).overflow 264 = none) ∧
    ((two 8 0).speculative = false ∧ (two 8 0).noBstore .cd (addr (two 8 0) 1 0 8) 8 = none) ∧
    Ready (two 8 0) { src := (two 8 0).srcW 1 ++ (two 8 0).srcV 2 } := ⟨by decide, by decide, by decide, quiet _ _ (by decide)⟩

theorem witness_EffectsAreHeldThenReleased :
    First (two 0 0) ∧ First (two 0 0 { act := { open_ := true } }) ∧ (two 0 0).holding = true ∧ (two 0 0).speculative = false ∧ (two 0 0).act.open_ = false ∧
    ((two 0 0 { act := { open_ := true } }).holding = false ∧ (∀ h ∈ (two 0 0 { act := { open_ := true } }).my.relq,
      h.org.act ≠ (two 0 0 { act := { open_ := true } }).act.num) ∧ (two 0 0 { act := { open_ := true } }).act.mark = none) :=
  ⟨rfl, rfl, by decide, by decide, by decide, by decide⟩

/-- A speculative context. -/
def shadow : Shadow :=
  { image := [], tags := [], pc := 0, mode := 0, stallcnt := 0, srseed := 1, status := 0, lcnt := 0, lbeg := 0, lend := 0, xw := [],
    targets := [], barrier := 0, ts := 1 }
def speculating (a b : Word) : State := two a b { shadow := some shadow }

/-- Elements of 8 bytes at strides 1, 8 and 0 from 0x800. -/
theorem witness_GathersAndScattersBegin :
    Safe (two 0x800 1) ∧
    (∀ k < 32, (two 0x800 8).checkAccess .l ((two 0x800 8).w 1 + BitVec.ofNat 64 k * (two 0x800 8).w 2) 8 8 false = none) ∧
    (∀ k < 32, (two 0x800 0).lockTrap ((two 0x800 0).w 1 + BitVec.ofNat 64 k * (two 0x800 0).w 2).toNat 8 true = none ∧
      (two 0x800 0).localBehind ((two 0x800 0).w 1 + BitVec.ofNat 64 k * (two 0x800 0).w 2).toNat 8 = false) ∧
    ((speculating 0x800 8).speculative = true ∧ (speculating 0x800 8).linesFull (((((List.range 32).map fun k =>
      (speculating 0x800 8).w 1 + BitVec.ofNat 64 k * (speculating 0x800 8).w 2).filter fun e =>
        !(((speculating 0x800 8).forwards .l e.toNat 8).all Option.isSome)).flatMap fun e => linesOf (nearKey 0 e.toNat) 8).eraseDups) = false) ∧
    (two 0x800 1).regsReady ((two 0x800 1).srcW 1 ++ (two 0x800 1).srcW 2 ++ (two 0x800 1).srcV 15) = true ∧
    ((∀ k < 32, (two 0x800 8).checkAccess .g ((two 0x800 8).w 1 + BitVec.ofNat 64 k * (two 0x800 8).w 2) 8 8 true = none) ∧
      (two 0x800 8).noRoom (32 * 16) = none ∧ (two 0x800 8).overflow (32 * 16) = none) ∧
    Ready (two 0x800 1) { src := (two 0x800 1).srcW 1 ++ (two 0x800 1).srcV 2, dst := (two 0x800 1).srcV 15 } :=
  ⟨by decide, by decide, by decide, by decide, by decide, by decide, quiet _ _ (by decide)⟩

/-- An EMPTY word at address 8 of near SRAM, for a waiting load and for a store. -/
def hole : State := { two 8 7 with tags := [(nearKey 0 8 / 8, .empty)] }

theorem witness_FullEmptyAccesses :
    (speculating 8 7).speculative = true ∧ Safe hole ∧
    (hole.speculative = false ∧ hole.localTrap (addr hole 1 0 8) 8 8 false = none ∧ hole.regsReady (hole.srcW 1) = true ∧
      hole.view.tagOf (nearKey 0 8 / 8) = .empty) ∧
    (hole.localTrap (addr hole 1 0 8) 8 8 true = none ∧ hole.regsReady (hole.srcW 1 ++ hole.srcW 2) = true ∧ hole.bankWait 8 8 = none) ∧
    ((two 8 7).view.tagOf (nearKey 0 8 / 8) = .full ∧ (two 8 7).bankWait 8 8 = none) ∧
    Ready hole { src := hole.srcW 1 ++ hole.srcW 2, memPart := [nearKey 0 8 / 8] } ∧
    Ready (two 8 7) { src := (two 8 7).srcW 1, dst := (two 8 7).srcW 3, mem := [nearKey 0 8 / 8] } :=
  ⟨by decide, by decide, by decide, by decide, by decide, by unfold Ready; decide, quiet _ _ (by decide)⟩

theorem witness_TagAccesses :
    Safe (two 0x800 7) ∧ (two 0x800 7).checkAccess .l ((two 0x800 7).w 1) 8 8 true = none ∧
    (two 0x800 7).regsReady ((two 0x800 7).srcW 1 ++ (two 0x800 7).srcW 2) = true ∧
    (∃ j < 1, ((two 0x800 7).w 2).toNat / 4 ^ j % 4 = 3) ∧
    ((∀ j < 32, ((two 0x800 0).w 2).toNat / 4 ^ j % 4 ≠ 3) ∧ (two 0x800 6).lockTrap 0x800 256 true = none ∧
      (two 0x800 6).bankWait 0x800 256 = none ∧ (two 0x800 6).checkAccess .l ((two 0x800 6).w 1) 256 8 true = none) ∧
    ((two 0x800 6).localTrap ((two 0x800 6).w 1) 256 8 false = none ∧ (two 0x800 6).trackWait (nearKey 0 0x800) 256 = none) ∧
    Ready (two 0x800 7) { src := (two 0x800 7).srcW 1 ++ (two 0x800 7).srcW 2, dst := [] } :=
  ⟨by decide, by decide, by decide, by decide,
   ⟨fun j _ => by rw [show ((two 0x800 0).w 2).toNat = 0 by decide, Nat.zero_div]; decide, by decide, by decide, by decide⟩, by decide,
   quiet _ _ (by decide)⟩

theorem witness_BlockReadsRequestTheirWords :
    (two 0x800 4096).harvest = false ∧
    (((two 0x800 4096).w 1).toNat % 8 = 0 ∧ 8 ≤ ((two 0x800 4096).w 2).toNat ∧ ((two 0x800 4096).w 2).toNat ≤ 4096 ∧ ((two 0x800 4096).w 2).toNat % 256 = 0) ∧
    (two 0x800 256).checkAccess .g ((two 0x800 256).w 1) 256 8 false = none ∧
    (¬((two 0x800 4104).w 2).toNat ≤ 4096 ∧ ¬8 ≤ ((two 0x800 0).w 2).toNat) ∧
    Ready (two 0x800 4096) { src := (two 0x800 4096).srcW 1 ++ (two 0x800 4096).srcW 2 } :=
  ⟨by decide, by decide, by decide, by decide, quiet _ _ (by decide)⟩

theorem witness_AtomicsActAsTheirTables :
    (two 0x800 5).speculative = false ∧ (two 0x800 5).noBstore .g ((two 0x800 5).w 1) 8 = none ∧
    ((two 0x800 5).noRoom 16 = none ∧ (two 0x800 5).overflow 16 = none) ∧
    ((two 0x800 5).localTrap ((two 0x800 5).w 1) 8 8 true = none ∧
      (two 0x800 5).regsReady ((two 0x800 5).srcW 1 ++ (two 0x800 5).srcW 2 ++ []) = true ∧ (two 0x800 5).bankWait 0x800 8 = none) ∧
    (let w := nearKey 0 0x800 / 8
     (two 0x800 5).tagOf w = .full ∧ w ≠ (two 0x800 5).wKey 3 / 8 ∧ (two 0x800 5).sramBad w = false ∧ (two 0x800 5).sramSoft w = false ∧ (two 0x800 5).atomicAhead (nearKey 0 0x800) = false) ∧
    Ready (two 0x800 5) { src := (two 0x800 5).srcW 1 ++ (two 0x800 5).srcW 2 ++ [], dst := (two 0x800 5).srcW 3,
                          mem := (two 0x800 5).nearWords 0x800 8 } :=
  ⟨by decide, by decide, by decide, by decide, by decide, quiet _ _ (by decide)⟩


/-! ## Witnesses: control flow, activations, messages, graphs, barriers -/

/-- A context in one loop level, or in two, with 1 and 2 iterations left. -/
def outer : State := two 3 0 { lcnt := 1 }
def inner : State := two 3 0 { lcnt := 0x200000001 }

theorem witness_BranchCallAndLoopResults :
    (outer.p 0 = true ∧ outer.p 1 = false ∧ outer.w 2 = 0 ∧ outer.w 1 ≠ 0) ∧
    ((outer.dev.cur.addr.toNat + 4 * (0 : BitVec 15).toInt < 4) ∧ 2 ^ 32 ≤ ((two 0x100000000 0).w 1).toNat) ∧
    ((4 : Int) ≤ outer.dev.cur.addr.toNat + 4 * (1 : BitVec 15).toInt ∧ 0 < (outer.w 1).toNat ∧ (outer.w 1).toNat < 2 ^ 32) ∧
    (two 3 0).me.lcnt.toNat % 2 ^ 32 = 0 ∧ (outer.me.lcnt.toNat % 2 ^ 32 ≠ 0 ∧ outer.me.lcnt.toNat / 2 ^ 32 = 0) ∧
    (inner.me.lcnt.toNat % 2 ^ 32 ≠ 0 ∧ inner.me.lcnt.toNat / 2 ^ 32 ≠ 0) ∧
    ((outer.w 2).toNat = 0 ∧ outer.dev.cur.addr.toNat + 4 * (16383 : BitVec 15).toInt + 4 ≤ 0x40000) ∧
    Ready outer { src := outer.srcW 1, dst := outer.srcW 3 } :=
  ⟨by decide, by decide, by decide, by decide, by decide, by decide, by decide, quiet _ _ (by decide)⟩

theorem witness_GroupCompletionAndLoopBack :
    (outer.ctx 0 0).live = true ∧ (outer.ctx 0 0).next = none ∧ (two 0 0 { next := some 8 }).me.next = some 8 ∧
    (let x := inner.me; x.lcnt.toNat / 2 ^ 32 ≠ 0 ∧ x.lend.toNat / 2 ^ 32 = inner.dev.cur.addr.toNat ∧ x.lcnt.toNat / 2 ^ 32 ≠ 1) ∧
    (let x := outer.me; x.lcnt.toNat % 2 ^ 32 = 1 ∧ x.lend.toNat % 2 ^ 32 = outer.dev.cur.addr.toNat ∧ x.lcnt.toNat / 2 ^ 32 = 0) := by decide

/-- A state with a fill pending for the running context. -/
def filling : State := two 0 0 {} {} { fills := [(0, { core := 0, slot := 0, act := 0, dst := none, left := 1 })] }

theorem witness_NopYieldAndDone :
    (First filling ∧ First (at_ 15) ∧ First (speculating 0 0)) ∧ filling.anyFill filling.here filling.slot = true ∧
    ((at_ 15).anyFill (at_ 15).here (at_ 15).slot = false ∧ (at_ 15).slot = 15) ∧
    ((speculating 0 0).anyFill (speculating 0 0).here (speculating 0 0).slot = false ∧ (speculating 0 0).slot ≠ 15 ∧ (speculating 0 0).speculative = true) ∧
    ((two 0 0).anyFill (two 0 0).here (two 0 0).slot = false ∧ (two 0 0).slot ≠ 15 ∧ (two 0 0).speculative = false) :=
  ⟨⟨rfl, rfl, rfl⟩, by decide, by decide, by decide, by decide⟩

/-- All helper slots are live; and a helper in slot 10 whose binding count is 3. -/
def crowded : State := two 0 0 {} { ctxs := ((List.range 10).map fun i => (i + 1, { live := true })) }
def helped (token : Word) : State := two token 0 {} { ctxs := [(10, { live := true })], bindCount := [(10, 3)] }

theorem witness_HelpersStartAndJoin :
    Safe (two 0x100 9) ∧ (two 0x100 9).speculative = false ∧ crowded.freeHelper = none ∧ (two 0x100 9).freeHelper = some 1 ∧
    ((at_ 5).freeHelper = some 1 ∧ (at_ 5).slot ≠ 0) ∧ (two 0x100 9).slot = 0 ∧
    ((helped 0x3000A).harvest = false ∧ (let t := ((helped 0x3000A).w 1).toNat
      1 ≤ t % 16 ∧ t % 16 ≤ 10 ∧ t / 16 % 4096 = 0 ∧ t / 2 ^ 48 = 0 ∧ t % 16 ≠ (helped 0x3000A).slot)) ∧
    (((helped 0x3000A).my.ctx 10).live = true ∧ (helped 0x3000A).my.bindCount.get 0 10 = 3) ∧
    (First (helped 0x2000A) ∧ (helped 0x2000A).my.bindCount.get 0 10 ≠ ((helped 0x2000A).w 1).toNat / 65536 % 2 ^ 32 ∧ ¬((helped 0xB).w 1).toNat % 16 ≤ 10) ∧
    Ready (two 0x100 9) { src := (two 0x100 9).srcW 1 ++ (two 0x100 9).srcW 2, dst := (two 0x100 9).srcW 3 } :=
  ⟨by decide, by decide, by decide, by decide, by decide, by decide, by decide, by decide, ⟨rfl, by decide, by decide⟩, quiet _ _ (by decide)⟩

theorem witness_HandlersEventsAndProgramTraps :
    ((at_ 11).speculative = false ∧ (at_ 11).harvest = true) ∧ (two 0x80400100 0).harvest = false ∧
    (((two 0x100000000 0).w 1).toNat / 2 ^ 32 ≠ 0 ∧ ((two 0x3 0).w 1).toNat % 4 ≠ 0) ∧
    (let v := ((two 0x80400100 0).w 1).toNat; v / 2 ^ 32 = 0 ∧ v / 2 ^ 18 % 16 = 0 ∧ v / 2 ^ 29 % 8 = 4 ∧ v % 4 = 0) ∧
    ((two 0 0).my.events.filter (fun e => e.1 == (two 0 0).me.tenant) = []) ∧
    ((two 0 0 {} { events := [(5, 1), (0, 7), (0, 8)] }).my.events.filter (fun e => e.1 == (two 0 0).me.tenant) = (0, 7) :: [(0, 8)]) ∧
    Ready (at_ 11) { src := (at_ 11).srcW 1 } ∧ Ready (two 0x80400100 0) { dst := (two 0x80400100 0).srcW 3 } :=
  ⟨by decide, by decide, by decide, by decide, by decide, by decide, quiet _ _ (by decide), quiet _ _ (by decide)⟩

/-- A core in a launch whose sub-mesh is cluster 0, with w1, w2, and the words of a block at address 0x800. -/
def launched (a b : Word) (blk : List Word := []) (x : Ctx := {}) (d : Dev := {}) : State :=
  at_ 0 ((blk.zipIdx.map fun e => (0x800 + 8 * e.2, e.1)) ++ [(0x32808, a), (0x32810, b)]) x { launch := some 1 }
    { d with launches := [(1, { phase := .running })] }
/-- A block for SPAWN of entry 0x100 with two arguments. -/
def spawning (t : Word) : State := launched t 0x800 [0x100, 2, 11, 12]

theorem witness_SpawnOffersAChild :
    (spawning 1).harvest = false ∧ (spawning 1).speculative = false ∧
    (spawning 1).regsReady ((spawning 1).srcW 1 ++ (spawning 1).srcW 2) = true ∧
    (((two 1 4).w 2).toNat % 8 ≠ 0 ∧ 0x40000 ≤ ((two 1 0x40000).w 2).toNat ∧ 0x40000 < ((two 1 0x3FFF8).w 2).toNat + 48) ∧
    ((spawning 1).lockTrap 0x800 48 false = none ∧ (spawning 1).bankWait 0x800 48 = none) ∧
    (bytesWord ((spawning 1).readBytes 0x800 8 ((spawning 1).forwards .l 0x800 8)) = 0x100 ∧
      bytesWord ((spawning 1).readBytes 0x808 8 ((spawning 1).forwards .l 0x808 8)) = 2) ∧
    ((spawning 12).inMesh ((spawning 12).w 1).toNat = true ∧ (spawning 12).retired ((spawning 12).w 1).toNat = false) ∧
    (spawning 192).inMesh 18431 = false ∧
    Ready (spawning 1) { src := (spawning 1).srcW 1 ++ (spawning 1).srcW 2, dst := (spawning 1).srcW 3,
                         mem := (spawning 1).readWords 0x800 48 ((spawning 1).forwards .l 0x800 48) } :=
  ⟨by decide, by decide, by decide, by decide, by decide, by decide, by decide, by decide, quiet _ _ (by decide)⟩

theorem witness_SpawnOffersAChild_retired :
    (launched 12 0x800 [0x100, 4] {} { coreMap := [(12, (12, true))] }).inMesh 12 = true ∧
    (launched 12 0x800 [0x100, 4] {} { coreMap := [(12, (12, true))] }).retired 12 = true := by decide

/-- A contained activation has room for the effect; the vector stands in a register, or on channel 4. -/
def posting : State := launched 12 5 [] {} {}
theorem witness_SendsAreEffects :
    (∀ n ∈ [(0 : Nat), 63], ∀ v, (let e := Effect.send 12 n (if v then List.replicate 32 0 else [0]) v
      posting.noRoom e.cost = none ∧ posting.overflow e.cost = none)) ∧
    (posting.inMesh 12 = true ∧ posting.retired 12 = false) ∧ ((at_ 11).harvest = true ∧ (at_ 11).noRoom 272 = none) ∧
    (posting.queueWait [15] none = none ∧ posting.srcTrap [15] none = none) ∧
    (let s := two 12 5 {} { chans := [(4, [{ words := List.replicate 32 (7, false) }])] }
     s.queueWait [16] none = none ∧ s.srcTrap [16] none = none) ∧
    Ready posting { src := posting.srcW 1 ++ (posting.vsrc 15).words } :=
  ⟨by decide, by decide, by decide, by decide, by decide, quiet _ _ (by decide)⟩

/-- Channel 20 of a core holds two words of two messages. -/
def mailed : State := two 0 0 {} { chans := [(20, [{ words := [(7, false)] }, { words := [(8, true), (9, false)], taken := 1 }])] }

theorem witness_ReceivesTakeWords :
    mailed.harvest = false ∧ mailed.speculative = false ∧
    (((mailed.my.chans.get [] 21).map fun m => (m.words.drop m.taken).length).sum < 1) ∧
    takeWords 1 (mailed.my.chans.get [] 20) =
      some ([{ words := [(7, false)] }], [{ words := [(8, true), (9, false)], taken := 1 }], [(7, false)]) ∧
    [({ words := [(7, false)] } : Msg)].findSome? mailed.fsxTrap = none ∧ Ready mailed { dst := mailed.srcW 3 } :=
  ⟨by decide, by decide, by decide, by decide, by decide, quiet _ _ (by decide)⟩

theorem witness_ReceivesTakeWords_fsx :
    ([({ org := { fsx := true }, words := [(7, false)] } : Msg)].findSome? mailed.fsxTrap).isSome = true := by decide

theorem witness_FencesReleasesAcquires :
    First (two 0 0 { act := { open_ := true } }) ∧ ((two 0 0 { act := { open_ := true } }).holding = false ∧ (two 0 0 { act := { open_ := true } }).speculative = false) ∧
    ((two 0 0).holding = true ∧ (two 0 0).noRoom 8 = none ∧ (two 0 0).overflow 8 = none) ∧ (speculating 0 0).speculative = true :=
  ⟨rfl, by decide, by decide, by decide⟩

/-- A launch that a graph has made; and a task block at address 0x800 with a timestamp of 5. -/
def graphed (a : Word) : State := two a 0 {} { launch := some 1 } { launches := [(1, { phase := .running, producer := 2 })] }

theorem witness_TaskAndGraphResults :
    (two 0x800 0).harvest = false ∧ (two 0x800 0).speculative = false ∧
    ((graphed 65535).noRoom 16 = none ∧ (graphed 65535).overflow 16 = none ∧ (graphed 65535).graphLaunch 0 = true ∧ ((graphed 65535).w 1).toNat < 65536) ∧
    ((two 5 0).graphLaunch 0 = false ∧ 65536 ≤ ((graphed 65536).w 1).toNat) ∧
    (let s := launched 12 0x800 [0x100, 5, 1, 2]
     s.localTrap (s.w 2) 32 1 false = none ∧ s.regsReady (s.srcW 1 ++ s.srcW 2) = true ∧ s.bankWait 0x800 32 = none ∧
     s.trackWait (nearKey 0 0x800) 32 = none ∧ s.noRoom 48 = none ∧ s.overflow 48 = none ∧ (s.w 2).toNat % 8 = 0) ∧
    (let s := launched 12 0x800 [0x100, 5, 1, 2]
     let w := (chunks 8 4 (s.readBytes 0x800 32 (s.forwards .l 0x800 32))).map bytesWord
     w = [0x100, 5, 1, 2] ∧ s.act.ts ≤ 5 ∧ s.inMesh 12 = true ∧ s.retired 12 = false) ∧
    (launched 12 0x800 [0x100, 5] { act := { ts := 6 } }).act.ts = 6 ∧
    Ready (graphed 5) { src := (graphed 5).srcW 1, dst := (graphed 5).srcW 3 } :=
  ⟨by decide, by decide, by decide, by decide, by decide, by decide, by decide, quiet _ _ (by decide)⟩

/-- A barrier of cluster 0 with 2 parties, of which `n` have arrived, in epoch `e`, and an activation that may go ahead. -/
def barred (n e : Nat) : State :=
  two 65535 0 { act := { maySpec := true } } {} { clusters := [(0, { barriers := [(3, { parties := 2, arrived := n, epoch := e })] })] }

theorem witness_BarrierInstructionResults :
    (First (barred 0 4) ∧ First (barred 1 4)) ∧ ((barred 0 4).harvest = false ∧ (barred 0 4).speculative = false ∧ (barred 0 4).anyFill 0 0 = false ∧ (barred 0 4).me.pipe = []) ∧
    ((barred 0 4).barrier 0 2).parties = 0 ∧ ((barred 0 4294967295).barrier 0 3).epoch = 2 ^ 32 - 1 ∧
    (((barred 0 4).barrier 0 3).parties ≠ 0 ∧ ((barred 0 4).barrier 0 3).epoch ≠ 2 ^ 32 - 1) ∧
    (launched 0 0).launchOf 0 ≠ none ∧
    (((barred 1 4).barrier 0 3).arrived + 1 = ((barred 1 4).barrier 0 3).parties) ∧
    (((barred 0 4).barrier 0 3).arrived + 1 ≠ ((barred 0 4).barrier 0 3).parties ∧ (barred 0 4).goesAhead 4 = true ∧ (two 0 0).goesAhead 4 = false) ∧
    (1 ≤ ((barred 0 4).w 1).toNat ∧ ((barred 0 4).w 1).toNat < 65536 ∧ ((barred 0 4).barrier 0 3).arrived = 0) ∧
    (((barred 1 4).barrier 0 3).arrived ≠ 0 ∧ ((barred 1 4).w 2).toNat = 0) ∧
    Ready (barred 0 4) { src := (barred 0 4).srcW 1 } :=
  ⟨⟨rfl, rfl⟩, by decide, by decide, by decide, by decide, by decide, by decide, by decide, by decide, by decide, quiet _ _ (by decide)⟩


/-! ## Witnesses: vectors and wide accumulators -/

theorem witness_VectorWritesActiveBytes :
    Safe (two 0 0) ∧ (15 : Reg).toNat < 16 ∧ (∀ c ∈ [(15 : Reg), 0], c.toNat < 16) ∧
    (two 0 0 {} { chans := [(4, [{ words := [(7, false)] }]), (15, [{}, {}])] }).my.chans.get [] ((16 : Reg).toNat - 12) = { words := [(7, false)] } :: [] ∧
    (two 0 0 {} { chans := [(4, [{ words := [(7, false)] }]), (15, [{}, {}])] }).my.chans.get [] ((27 : Reg).toNat - 12) = {} :: [{}] := by decide

set_option maxRecDepth 20000 in
/-- The two Towpath queues and the results of an array, each with one vector ready. -/
theorem witness_VectorWritesActiveBytes_queues :
    (let t : Tow := { id := 3, v := 7, ready := true }
     let s := two 0 0 {} { fromWest := [t], fromEast := [t, t] }
     t.ready = true ∧ s.my.fromWest = t :: [] ∧ s.my.fromEast = t :: [t]) ∧
    (let v : ResultVec := { due := 0, words := [], entered := true }
     let s := two 0 0 { lease := { held := true, left := 1, serial := 4, array := 2 } } {} { now := 1, arrays := [(2, { holder := some (0, 0, 0), q2 := [v] })] }
     (s.arr s.myArray).q2 = v :: [] ∧ s.ownsResults = true ∧ s.heldPush = false ∧ v.entered = true ∧ v.due < s.dev.now) := by decide

/-- Vector registers 1, 2 and 3 under m0; and a source and a destination that are queues. -/
theorem vecReady (s : State) (d : Reg) (srcs : List Reg) (words : List Nat) (act : Nat → Bool) (old : Bool)
    (h : s.queueWait srcs (some d) = none ∧ s.srcTrap srcs (some d) = none)
    (q : s.view.tags = [] ∧ s.dev.fills = [] ∧ s.board = [] ∧ s.bad = [] ∧ s.soft = []) : VecReady s d srcs words act old := ⟨h.1, h.2, quiet _ _ q⟩

theorem witness_VectorIntegerResults :
    VecReady (two 0 0) 3 [1, 2] ((two 0 0).srcM 0) (maskBytes ((two 0 0).m 0)) false ∧
    VecReady (two 0 0) 15 [1] ((two 0 0).srcM 7) (maskBytes ((two 0 0).m 7)) false ∧
    VecReady (two 0 0) 3 [1, 2] ((two 0 0).srcM 0) (maskBytes ((two 0 0).m 0)) true :=
  ⟨vecReady _ _ _ _ _ _ (by decide) (by decide), vecReady _ _ _ _ _ _ (by decide) (by decide), vecReady _ _ _ _ _ _ (by decide) (by decide)⟩

theorem witness_VectorMovesResults :
    VecReady (two 3 5) 3 [1] ((two 3 5).srcM 0 ++ []) (maskBytes ((two 3 5).m 0)) false ∧
    VecReady (two 3 5) 3 [] ((two 3 5).srcM 0 ++ (two 3 5).srcW 1) (maskBytes ((two 3 5).m 0)) false ∧
    VecReady (two 3 5) 3 [1, 2] ((two 3 5).srcM 0) (fun _ => true) false ∧
    VecReady (two 3 5) 3 [] ((two 3 5).srcM 0 ++ (two 3 5).srcW 1 ++ (two 3 5).srcW 2)
      (fun x => maskBytes ((two 3 5).m 0) x && decide (x / (8 / 8) = 5)) false :=
  ⟨vecReady _ _ _ _ _ _ (by decide) (by decide), vecReady _ _ _ _ _ _ (by decide) (by decide), vecReady _ _ _ _ _ _ (by decide) (by decide),
   vecReady _ _ _ _ _ _ (by decide) (by decide)⟩

theorem witness_VectorToScalarResults :
    FromReady (two 3 5) [1, 2] [] ((two 3 5).srcM 7) ∧ FromReady (two 3 5) [1] ((two 3 5).srcW 2) ((two 3 5).srcW 31) ∧
    FromReady (two 3 5) [1] ((two 3 5).srcM 0) ((two 3 5).srcW 0) ∧
    Ready (two 3 5) { src := (two 3 5).srcM 1 ++ (two 3 5).srcM 2, dst := (two 3 5).srcM 3 } :=
  ⟨⟨by decide, by decide, quiet _ _ (by decide)⟩, ⟨by decide, by decide, quiet _ _ (by decide)⟩,
   ⟨by decide, by decide, quiet _ _ (by decide)⟩, quiet _ _ (by decide)⟩

theorem witness_VectorFloatResults :
    VecReady (two 0 0) 3 [1, 2] ((two 0 0).srcM 0) (maskBytes ((two 0 0).m 0)) true ∧
    VecReady (two 0 0) 3 [1] ((two 0 0).srcM 0) (maskBytes ((two 0 0).m 0)) false :=
  ⟨vecReady _ _ _ _ _ _ (by decide) (by decide), vecReady _ _ _ _ _ _ (by decide) (by decide)⟩

theorem witness_VectorConversionResults :
    (two 0 0).queueWait [1] (some 3) = none ∧ (two 0 0).srcTrap [1] (some 3) = none ∧ (15 : Reg).toNat < 16 ∧
    Ready (two 0 0) { src := [(two 0 0).vKey 3 / 8 + 31] ++ ((two 0 0).vsrc 1).words, dst := (two 0 0).srcV 3 } :=
  ⟨by decide, by decide, by decide, quiet _ _ (by decide)⟩

theorem witness_WideAccumulatorResults :
    ((at_ 11).harvest = true ∧ Ready (at_ 11) { src := (at_ 11).srcW 1, dst := [] }) ∧
    ((speculating 0 0).harvest = false ∧ (speculating 0 0).speculative = true ∧ Ready (speculating 0 0) { dst := (speculating 0 0).srcW 3 }) ∧
    ((two 0 0 {} { accSlot := 1, accUntil := 5 }).my.accSlot ≠ 0 ∧ (two 0 0 {} { accSlot := 1, accUntil := 5 }).dev.now < 5) ∧
    ((two 0 0).harvest = false ∧ (two 0 0).speculative = false ∧ (two 0 0).my.accUntil ≤ (two 0 0).dev.now) ∧
    ((two 0 0).queueWait [1, 2] none = none ∧ (two 0 0).srcTrap [1, 2] none = none) ∧
    ((9 : Reg).toNat < 10 ∧ ((two 3 4).w 1).toNat < 4 ∧ 4 ≤ ((two 3 4).w 2).toNat) ∧
    Ready (two 3 4) { src := (two 3 4).srcW 1, dst := (two 3 4).srcW 3 } :=
  ⟨⟨by decide, quiet _ _ (by decide)⟩, ⟨by decide, by decide, quiet _ _ (by decide)⟩, by decide, by decide, by decide, by decide, quiet _ _ (by decide)⟩

/-! ## Witnesses: tracks, arrays, copies, fabric -/

/-- Track 5 as a context finds it. -/
def tracked (t : Track) (sl : Nat := 0) (x : Ctx := {}) : State := at_ sl [] x { tracks := [(5, t)] }

theorem witness_TrackHeadResults :
    (((tracked { owner := 0 }).trk 5).stream = [] ∧ ((tracked { owner := 0 }).trk 5).owner = (tracked { owner := 0 }).slot) ∧
    (((tracked { owner := 0, h := 4 }).trk 5).h ≠ 255 ∧ ((tracked { owner := 0, h := 4 }).trk 5).shifting = false ∧ ((tracked { owner := 0, h := 4 }).trk 5).align = false) ∧
    ((tracked { owner := 3 }).speculative = false ∧ ((tracked { owner := 3 }).trk 5).owner ≠ 15 ∧ ((tracked { owner := 3 }).trk 5).owner ≠ 0) ∧
    (((tracked {}).trk 5).owner = 15 ∧ ((tracked {}).trk 5).weirUntil ≤ (tracked {}).dev.now) ∧
    ((tracked {} 15).slot = 15 ∧ (tracked {} 4).slot ≠ 0) ∧
    ((tracked {} 0 { mode := 8 }).opCtx.mode.getLsbD 3 = true ∧ 30 ≤ (30 : Reg).toNat ∧ (5 : Reg).toNat < 30) ∧
    ((tracked {} 11).harvest = true ∧ (tracked {} 11).my.grant = none) ∧
    ((at_ 11 [] {} { grant := some { tmask := 32 } }).my.grant = some { tmask := 32 } ∧ Nat.testBit 32 (5 : Reg).toNat = true) ∧
    (((tracked { owner := 0 }).trk 5).busy = false ∧ ((tracked { owner := 0, t := 1 }).trk 5).busy = true) ∧
    Ready (tracked {}) { src := (tracked {}).srcW 1, dst := (tracked {}).srcW 2 } :=
  ⟨by decide, by decide, by decide, by decide, by decide, by decide, by decide, by decide, by decide, quiet _ _ (by decide)⟩

theorem witness_TrackAccessResults :
    Safe (tracked { owner := 0 }) ∧ (tracked { owner := 0 }).speculative = false ∧
    (((tracked { owner := 0, t := 1 }).trk 5).busy = true ∧ (tracked { owner := 0, t := 1 }).me.outcome = none ∧
      ((tracked { owner := 3, t := 1, shared := true }).trk 5).busy = true) ∧
    (((tracked { owner := 0 }).trk 5).busy = false ∧ (tracked { owner := 0 }).heldPos 5 0 = none ∧ ((tracked { owner := 0 }).trk 5).check 128 = none ∧
      ((tracked { owner := 0 }).trk 5).usedAt ≠ (tracked { owner := 0 }).dev.now + 1 ∧ (tracked { owner := 0 }).me.outcome = none ∧
      (tracked { owner := 0 }).trackLocked 5 true true = none ∧ ∀ w ∈ (tracked { owner := 0 }).posWords 5 128, (tracked { owner := 0 }).view.tagOf w ≠ .empty) ∧
    (∀ w ∈ (tracked { owner := 0 }).posWords 5 128, (tracked { owner := 0 }).bad.contains w = false) ∧
    (((tracked { owner := 3, shared := true }).trk 5).shared = true ∧ ((tracked { owner := 3, shared := true }).trk 5).owner ≠ 15 ∧ ((tracked { owner := 3 }).trk 5).owner ≠ 0) ∧
    (((tracked { owner := 0, off := 2 }).trk 5).check 0 = some 2 ∧ ((tracked { owner := 0, off := 128 }).trk 5).check 0 = some 0x80 ∧
      (tracked { owner := 0, off := 2 }).opCtx.mode.getLsbD 2 = false) ∧
    Ready (tracked { owner := 0 }) { src := (tracked { owner := 0 }).srcV 3, dst := (tracked { owner := 0 }).srcV 3,
                                     mem := (tracked { owner := 0 }).posWords 5 128 } :=
  ⟨by decide, by decide, by decide, by decide, by decide, by decide, by decide, quiet _ _ (by decide)⟩

/-- A context that holds the lease of array 2 with one command left; a good command word of one row; and a bad one. -/
def leased (w : Word) (d : Dev := {}) : State := two w 0 { lease := { held := true, left := 1, serial := 4, array := 2 } } {} d

theorem witness_ArrayInstructionResults :
    (at_ 11).harvest = true ∧ ((leased 0).harvest = false ∧ (leased 0).speculative = false ∧ (leased 0).me.lease.held = true) ∧
    ((two 0 0).me.lease.held = false ∧ (two 0 0).me.lease.pend = false) ∧
    ((leased 0).noRoom 16 = none ∧ (leased 0).overflow 16 = none ∧ (leased 0).noRoom 272 = none ∧ (leased 0).overflow 272 = none) ∧
    (cmdBad 0 = false ∧ cmdBad 0x100 = true ∧ 0 < (leased 0).me.lease.left) ∧
    (let joined (W : Word) (x y : BitVec 4) : Word := BitVec.ofNat 64 (W.toNat + x.toNat * 2 ^ 48 + y.toNat * 2 ^ 52)
     ((leased 0).w 1).toNat / 2 ^ 48 % 256 = 0 ∧ cmdBad (joined 0 0 0) = false ∧ cmdBad (joined 0 15 15) = true ∧
       ((leased 0x1000000000000).w 1).toNat / 2 ^ 48 % 256 ≠ 0) ∧ (leased 0).feedRoom = true ∧
    (two 0 0 { act := { open_ := true }, lease := { held := true, array := 2 } } {}
      { arrays := [(2, { feed := List.replicate 8 ([], 0) })] }).feedRoom = false ∧
    ((leased 0).me.lease.array = (2 : Reg).toNat ∧ (leased 0).me.lease.array ≠ (3 : Reg).toNat) ∧ (two 0 0).ownsResults = false ∧
    (let s := leased 0 { now := 1, arrays := [(2, { holder := some (0, 0, 0), q2 := [{ due := 0, words := [], entered := true }] })] }
     s.ownsResults = true ∧ (s.holding && s.heldPush) = false ∧ (s.arr s.myArray).q2 = { due := 0, words := [], entered := true } :: [] ∧ 0 < s.dev.now) ∧
    Ready (leased 0) { src := (leased 0).srcV 3 ++ (leased 0).srcW 2, dst := [] } :=
  ⟨by decide, by decide, by decide, by decide, by decide, by decide, by decide, by decide, by decide, by decide, by decide, quiet _ _ (by decide)⟩

/-- RROT's operands: base 0, length 256, one hop. -/
def turning (l : Word) (x : Ctx := {}) : State := at_ 0 [(0x32810, l), (0x32818, 1)] x

theorem witness_RotationAndCopyResults :
    (at_ 11).harvest = true ∧ (speculating 0 0).speculative = true ∧
    ((speculating 0 0).harvest = false ∧ First (turning 256) ∧ (turning 256).me.outcome = none ∧ ((turning 256).w 1).toNat % 256 = 0 ∧ ((turning 256).w 2).toNat = 256 ∧
      (∀ r ∈ ((turning 256).clu (turning 256).myCluster).arrivals, r.core ≠ 0)) ∧
    ((turning 0).w 2).toNat = 0 ∧ ((turning 256 { outcome := some 1 }).me.outcome = some 1 ∧ (turning 256 { outcome := some 2 }).me.outcome = some 2) ∧
    (Safe (two 0x800 0) ∧ ((two 0x800 0).block ((two 0x800 0).srcW 1) ((two 0x800 0).w 1) 12 8).trap = none ∧
      ((two 0x800 0).block ((two 0x800 0).srcW 1) ((two 0x800 0).w 1) 12 8).wait = none) ∧
    ((two 0x800 0).localTrap ((two 0x800 0).w 1) 96 8 true = none ∧ (two 0x800 0).regsReady ((two 0x800 0).srcW 1) = true ∧
      (two 0x800 0).bankWait 0x800 96 = none) ∧
    ((two 0 0).outstanding 0 = [] ∧ (two 0 0).noRoom 112 = none ∧ (two 0 0).overflow 112 = none ∧ 1 ≤ (two 0 0).my.nextXfer ∧
      (two 0 0).my.nextXfer ≤ 65535) ∧
    Ready (turning 256) { src := (turning 256).srcW 1 ++ (turning 256).srcW 2 ++ (turning 256).srcW 3 } :=
  ⟨by decide, by decide, ⟨by decide, rfl, by decide⟩, by decide, by decide, by decide, by decide, by decide, quiet _ _ (by decide)⟩

/-- Copy words: all zero but one; and copies on their way, ended and held. -/
def copyWords (i : Nat) (w : Word) : List Word := (List.range 12).map fun j => if j = i then w else 0

theorem witness_RotationAndCopyResults_copies :
    reservedBad (copyWords 3 0x200000000000) = some (3, 45) ∧ reservedBad (copyWords 0 0) = none ∧
    (reservedBad (copyWords 11 1) = none ∧ valueBad (copyWords 11 1) = some 11) ∧ valueBad (copyWords 0 0) = none ∧ viewTracks (copyWords 0 0) = [] ∧
    (let s := two 7 0 {} { hold := [{ org := {}, eff := .copy [] 7 }] }
     s.copyPending 0 7 = true ∧ (∃ h ∈ s.my.hold, ∃ w, h.eff = .copy w 7) ∧ s.copyPending 0 8 = false ∧ 8 ∉ s.outstanding 0) ∧
    ((two 7 0 {} { xstatus := [(7, 0, 2)] }).my.xstatus.find? (fun e => e.1 == 7) = some (7, 0, 2) ∧
      (two 7 0 {} { xstatus := [(7, 0, 2)] }).copyPending 0 7 = false) ∧
    (∀ d ∈ [0, 3], let k : Copy := { org := {}, core := 0, xid := 7, words := [0, 8, 2], engine := 0, started := true, done := d }
     let s := two 7 0 {} {} { copies := [(4, k)] }
     s.dev.copies.find? (fun c => c.2.core == 0 && c.2.xid == 7) = some (4, k) ∧ k.accepted = false ∧ k.complete = decide (d = 3)) := by
  refine ⟨by decide, by decide, by decide, by decide, by decide, ⟨by decide, ⟨_, .head _, _, rfl⟩, by decide, by decide⟩, by decide, by decide⟩

set_option maxRecDepth 4000 in
theorem witness_RotationAndCopyResults_full :
    256 ≤ ((two 0 0 {} { hold := List.replicate 256 { org := {}, eff := .copy [] 7 } }).outstanding 0).length := by decide

/-- A grant block at 0x800: two ranges of 256 bytes, track 5, ISSUE 1; and one whose first range is misplaced. -/
def granting (w0 : Word) (x : Ctx := {}) : State := launched 0x800 0x800 [w0, 0x10000000200, 32, 1] x

theorem witness_FabricInstructionResults :
    First (launched 4095 0x800 [0, 1, 2]) ∧
    (let s := launched 4095 0x800 [0, 1, 2]
     let blk := s.block (s.srcW 1 ++ s.srcW 2) (s.w 2) 3 1
     s.harvest = false ∧ s.speculative = false ∧ (s.w 2).toNat % 8 = 0 ∧ blk.wait = none ∧ blk.trap = none ∧ (blk.data.getD 0 0).toNat < 768 ∧
       (s.w 1).toNat < 4096) ∧
    ((two 4096 4).w 2).toNat % 8 ≠ 0 ∧
    (let s := launched 0x3FFF 0x800 [0x300]
     (((s.block (s.srcW 1 ++ s.srcW 2) (s.w 2) 3 1).data.getD 0 0).toNat / 256 % 4 = 3 ∧ (s.w 1).toNat < 2 ^ 14)) ∧
    ((at_ 4).slot ≠ 0 ∧ (at_ 4).speculative = false) ∧
    (let s := granting 0x10000000100
     let blk := s.block (s.srcW 1) (s.w 1) 4 8
     s.slot = 0 ∧ blk.trap = none ∧ blk.wait = none ∧ s.grantFault blk.data = none ∧ s.dev.power.actions < 2 ∧ s.my.grant = none) ∧
    ((granting 0x10000000101).grantFault [0x10000000101, 0x10000000200, 32, 1]).isSome = true ∧
    ((two 0 0 {} { grant := some {}, revoking := true }).my.grant ≠ none ∧ (two 0 0 {} { grant := some {}, revoking := true }).my.revoking = true ∧
      (at_ 11).harvest = true) ∧
    Ready (two 4096 4) { src := (two 4096 4).srcW 1 ++ (two 4096 4).srcW 2, dst := (two 4096 4).srcW 3 } :=
  ⟨rfl, by decide, by decide, by decide, by decide, by decide, by decide, by decide, quiet _ _ (by decide)⟩


/-! ## Witnesses: the system group -/

/-- A harvest context that the service tenant's queue has bound: it is privileged. Its registers stand in a reserve bank. -/
def service (a : Word) (x : Ctx := {}) (k : Core := {}) (d : Dev := {}) : State :=
  { at_ 11 [] { x with service := true } k d with
    mem := ((wordBytes a).zipIdx.filter fun b => decide (b.1 ≠ 0)).map fun b => (reserveKey 0 11 (8 + b.2), b.1) }

theorem witness_PrivilegedInstructionsTrap :
    (two 0 0).privileged = false ∧ (two 0 0).slot ≠ 15 ∧ (at_ 15).my.handling = none ∧ (at_ 15).privileged = false ∧
    (0x10 ≤ (0x13 : BitVec 12).toNat ∧ (0x13 : BitVec 12).toNat ≤ 0x13 ∧ (0x21 : BitVec 12).toNat = 0x21) := by decide

theorem witness_ControlRegisterResults :
    ((at_ 15).slot = 15 ∧ (0x10 : BitVec 12).toNat ≤ 0x13) ∧ (two 16 2).speculative = false ∧ (speculating 0 0).speculative = true ∧
    (16 ≤ ((two 16 2).w 1).toNat ∧ 2 ≤ ((two 16 2).w 2).toNat ∧ ((two 1 0).w 1).toNat < 2) ∧
    ((service 0x32800).privileged = true ∧ (service 0x32800).w 1 = 0x32800 ∧ (service 0x32A00).w 1 = 0x32A00) ∧
    ((service 0x3EE00).speculative = false ∧ (service 0x3EE00).me.pipe = [] ∧ ((service 0x3EE00).w 1).toNat % 512 = 0 ∧
      ((service 0x3EE00).w 1).toNat = 0x3EE00) ∧
    (service 0 { pipe := [{ due := 3, words := [], bytes := [] }] }).me.pipe ≠ [] ∧
    Ready (service 0x3EE00) { src := (service 0x3EE00).srcW 1 } ∧ Ready (two 16 2) { src := (two 16 2).srcW 1, dst := (two 16 2).srcW 3 } :=
  ⟨by decide, by decide, by decide, by decide, by decide, by decide, by decide, quiet _ _ (by decide), quiet _ _ (by decide)⟩

/-- Slot 3 as the service context finds it. -/
def beside (x : Ctx) (y : Ctx := {}) (k : Core := {}) (d : Dev := {}) : State := service 0x100000 y { k with ctxs := [(3, x)] } d

/-- A record of which every word is 0 but the identity, which names slot 3, as CREST has read it. -/
def record (i : Nat) : Word := if i = 602 then 3 else 0
def zeros : Bread :=
  { org := { slot := 11 }, core := 0, chan := 64, total := 640, unit := 640, got := (List.range 640).map fun i => (i, record i, false) }
def restored : State := beside {} { outcome := some 1 } {} { breads := [(5, zeros)] }

theorem witness_ContextInstructionResults :
    (beside {}).privileged = true ∧ (beside {}).speculative = false ∧ ((beside {}).ctx 0 3).live = false ∧
    (((beside { live := true }).ctx 0 3).live = true ∧ (3 : BitVec 12).toNat ≠ (beside { live := true }).slot) ∧
    (let s := beside { live := true, stopped := true, act := { num := 7 } }
     (s.ctx 0 3).stopped = true ∧ (s.ctx 0 3).shadow = none ∧ s.anyFill 0 3 = false ∧ (∀ h ∈ s.my.hold ++ s.my.relq, h.org.act ≠ 7) ∧
       s.checkAccess .g (s.w 1) 5120 256 true = none ∧ s.me.outcome = none) ∧
    (beside { live := true, stopped := true } {} {} { fills := [(0, { core := 0, slot := 3, act := 0, dst := none, left := 1 })] }).anyFill 0 3 = true ∧
    ((at_ 15 [] {} { handling := some { cause := 1, pc := 0, addr := 0, aux := 0, slot := 3 } }).slot = 15 ∧
      (at_ 15 [] {} { handling := some { cause := 1, pc := 0, addr := 0, aux := 0, slot := 3 } }).anyFill 0 15 = false) ∧
    Ready (beside {}) { src := (beside {}).srcW 1 } := by
  refine ⟨by decide, by decide, by decide, by decide, ⟨by decide, by decide, by decide, by decide, ?_, by decide⟩, by decide, by decide,
    quiet _ _ (by decide)⟩
  set_option maxRecDepth 8000 in decide

set_option maxRecDepth 20000 in
theorem witness_ContextInstructionResults_crest :
    (restored.ctx 0 3).live = false ∧ restored.me.outcome = some 1 ∧
    (restored.dev.breads.find? fun b => b.2.org.core == restored.here && b.2.org.slot == restored.slot && decide (b.2.chan = 64)).isSome = true ∧
    recordBad ((List.range 640).map record) 3 = false ∧ Safe restored := by decide

theorem witness_DeviceInstructionResults :
    ((service 5).privileged = true ∧ (service 5).speculative = false ∧ (service 5).retired 5 = false) ∧
    ((service 5 {} {} { coreMap := [(5, (5, true))] }).retired ((service 5 {} {} { coreMap := [(5, (5, true))] }).w 1).toNat = true) ∧
    (((service 0x8000).w 1).toNat.testBit 15 = true ∧ 18432 ≤ ((service 18432).w 1).toNat % 2 ^ 15) ∧
    ((service 18431).dev.onCluster (clusterOf 18431) = false ∧ (service 18431).dev.coreMapNext = [] ∧ ((service 18431).w 1).toNat.testBit 16 = false) ∧
    (let s := service 0x10005
     let v := (s.w 1).toNat; v.testBit 15 = false ∧ v < 2 ^ 32 ∧ v % 2 ^ 15 = 5 ∧ v.testBit 16 = true ∧ s.dev.coreMapNext = [] ∧ s.logical (v / 2 ^ 17) ≠ none) ∧
    (let s := service 0x200005
     let v := (s.w 1).toNat; v / 2 ^ 17 = 16 ∧ v % 2 ^ 15 = 5 ∧ v.testBit 16 = false ∧ physCluster 16 = clusterOf 5 ∧ s.logical 16 = none ∧
       s.dev.onCluster (clusterOf 5) = false) ∧
    (((service 0x210005).w 1).toNat.testBit 16 = true ∧ ((service 0x210005).core ((service 0x210005).phys 5)).parked = []) ∧
    ((service 0x800).block ((service 0x800).srcW 1) ((service 0x800).w 1) 8 8).wait = none ∧
    (19584 ≤ ((service 19584).w 1).toNat ∧ ((service 19583).w 1).toNat < 19584 ∧ (service 5).scanAllowed 5 = false ∧ (service 0).scanAllowed 0 = true) ∧
    (18432 ≤ ((service 18432).w 1).toNat ∧ ((service 18431).w 1).toNat < 18432) ∧
    Ready (service 5) { src := (service 5).srcW 1, dst := (service 5).srcW 1 } :=
  ⟨by decide, by decide, by decide, by decide, by decide, by decide, by decide, by decide, by decide, by decide, quiet _ _ (by decide)⟩

/-- The block of KEYLD and TRARM must be readable: a service context may read what its grant gives it. -/
theorem witness_DeviceInstructionResults_block :
    (let s := service 0x800 {} { grant := some { base0 := 0x800, len0 := 64 } }
     (s.block (s.srcW 1) (s.w 1) 8 8).trap = none ∧ (s.block (s.srcW 1) (s.w 1) 8 8).wait = none ∧
       ((s.block (s.srcW 1) (s.w 1) 8 8).data.getD 0 0).toNat % 128 < 96 ∧ traceBad (s.block (s.srcW 1) (s.w 1) 8 8).data = false) ∧
    traceBad [0x80, 0, 0, 0, 0] = true ∧
    (let s := service 0 {} {} { coreMap := [(15, (15, true))] }
     physCluster 16 = clusterOf 15 ∧ s.logical 16 = none ∧ s.dev.onCluster (clusterOf 15) = false) := by decide


/-! ## Witnesses: events -/

/-- A machine in cycle 10 whose event has these particulars. -/
def due (a : Arg) (d : Dev) (tags : List (Nat × Tag) := []) (mem : List Host.Cell := []) : State :=
  { mem := mem, tags := tags, dev := { d with booted := true, now := 10, arg := a } }

/-- A flight to word 1 of core 0's near SRAM, at its event. -/
def flying (c : Cargo) (tags : List (Nat × Tag) := []) (f : List Lock := []) : State :=
  due {} { flights := [(0, { org := {}, cargo := c, place := .near 0 8, grp := some 0 })], clusters := [(0, { locks := f })],
           fills := [(3, { core := 0, slot := 0, act := 0, dst := none, left := 1 })] } tags
/-- A lock on that word. -/
def guard : List Lock := [{ owner := 1, write := true, ranges := [(nearKey 0 0, 256)] }]

theorem witness_AccessesArriveAndLand :
    (let f : Fill := { core := 0, slot := 0, act := 0, dst := some (nearKey 0 8) }
     let s := due {} { fills := [(0, f)] }
     Safe s ∧ s.dev.fills.find 0 = some f ∧ f.left = 0 ∧ f.probe = none ∧ s.savedWith f = none) ∧
    (let f : Flight := { org := {}, cargo := .effect (.deposit .cd 8 5), place := .near 0 8, grp := some 0 }
     let s := flying (.effect (.deposit .cd 8 5)) [(nearKey 0 8 / 8, .empty)]
     Safe s ∧ s.dev.flights.find 0 = some f ∧ f.from_ = none ∧ s.strays f = none ∧ s.stillBehind 0 f = false ∧ s.queuedBehind 0 f = false ∧
       lockHit (s.locksAt (nearKey 0 8)) (nearKey 0 8) 8 true = none ∧ s.bankTaken 0 f f.place 8 = false ∧ (∀ i < 8, s.predHole 0 (8 + i) = false) ∧
       s.tagOf (nearKey 0 8 / 8) = .empty ∧ (flying (.effect (.deposit .cd 8 5))).tagOf (nearKey 0 8 / 8) ≠ .empty) ∧
    (let s := flying (.effect (.store .cd 8 [1, 2])) [] guard
     ((lockHit (s.locksAt (nearKey 0 8)) (nearKey 0 8) 2 true).isSome = true ∧ s.gatedPlace (.near 0 8) = false)) ∧
    (let s := flying (.effect (.store .cd 8 [1, 2]))
     lockHit (s.locksAt (nearKey 0 8)) (nearKey 0 8) 2 true = none ∧ s.partFault (nearKey 0 8) 2 = none) ∧
    (let s := flying (.read 3 0 8 0 [])
     (∀ i < 8, ([] : List (Option Byte)).getD i none = none) ∧ (∀ w ∈ wordsOf (nearKey 0 8) 8, s.tagOf w ≠ .empty) ∧
       s.readRecord (nearKey 0 8) 8 s.dev.fresh = none) ∧
    (∃ w ∈ wordsOf (nearKey 0 8) 8, (flying (.read 3 0 8 0 []) [(nearKey 0 8 / 8, .empty)]).tagOf w = .empty) ∧
    (let f : Flight := { org := {}, cargo := .effect (.atomic .clu .add 8 5 0 (some 3)), place := .near 0 8, grp := some 0 }
     let s := flying (.effect (.atomic .clu .add 8 5 0 (some 3)))
     s.heldBack 0 f = false ∧ s.atomicBefore 0 f = false ∧ s.readRecord (nearKey 0 8) 8 s.dev.fresh = none ∧
       ((flying (.effect (.atomic .clu .add 8 5 0 (some 3))) [(nearKey 0 8 / 8, .poison)]).readRecord (nearKey 0 8) 8 0).isSome = true) := by
  decide

/-- A tracked read of a line, with room for it; an effect to release; a scope-miss message; a leaf and a walk. -/
def trackedRead (t : Map (List Reader)) : State :=
  due {} { flights := [(0, { org := {}, cargo := .read 3 0 8 0 [], place := .near 0 8, tracked := true })], tracker := t }

theorem witness_AccessesArriveAndLand_more :
    (trackedRead []).trackerFull (nearKey 0 8) 8 = false ∧
    (let s := due {} { cores := [(0, { relq := [{ org := {}, eff := .store .g 8 [1] }] })] }
     (s.core 0).relq = { org := {}, eff := .store .g 8 [1] } :: []) ∧
    (let s := due {} { cores := [(0, { launch := some 1 })], launches := [(1, {})] }
     s.launchOf 0 = some {} ∧ (s.core 0).roomDevice 24 = true) ∧
    ((due {} { cores := [(0, { chans := [(20, [{ cost := 16376 }])] })] }).core 0).roomDevice 24 = false ∧
    (due {} {}).apart 0 0 = false ∧
    (let e : Trans := { tenant := 0, pid := 0, size := 16, page := 0, leaf := 7 }
     let f : Flight := { org := {}, cargo := .effect (.store .g 8 [1]), place := .virt 8 }
     let s := due {} { flights := [(0, f)], cached := [(0, [e])], keys := [(0, [])] }
     f.from_ = none ∧ s.cachedLeaf (stationOf f.org.core 8) f.org.tenant f.org.pid 8 = some e ∧
       (s.leafPlace 0 8 (levelOf 16) 15 false true).toOption = some (.phys 8, []) ∧ leafTier 15 = 0 ∧
       (s.leafPlace 0 8 (levelOf 16) 3 true false).toOption = none) ∧
    (let w : Walk := { station := 0, tenant := 0, pid := 0, unit := 0, running := true }
     let s := due {} { walks := [(0, w)], tenants := [(0, { pidn := 1, pidTable := 64 })] } [] [(64, 1)]
     s.dev.walks.find 0 = some w ∧ w.running = true ∧ w.again = false ∧ (match s.walkRead 0 0 0 5 0 with | .table 4 0 => true | _ => false) = true ∧
       (match (due {} {}).walkRead 0 0 0 5 0 with | .fails 0x096 0 => true | _ => false) = true) := by decide

set_option maxRecDepth 30000 in
theorem witness_AccessesArriveAndLand_full :
    (trackedRead ((List.range 512).map fun i => (nearKey 0 64 / 64 + i, []))).trackerFull (nearKey 0 8) 8 = true := by decide

/-! Messages. -/

/-- A message to core 5 in a launch of domain 4, with a filled input buffer or an empty one. -/
def sending (e : Effect) (q : List Msg := []) (g : List Word := []) : State :=
  due {} { flights := [(0, { org := { dom := 4 }, cargo := .effect e, place := .chan 5 })], launches := [(1, { words := g, dom := 4, phase := .running })],
           cores := [(5, { launch := some 1, chans := [(20, q)] })] }

set_option maxRecDepth 20000 in
theorem witness_MessagesArriveAndBind :
    (let e : Effect := .send 5 20 [7] false
     let s := sending e
     (s.dev.launches.any fun l => l.2.dom == 4 && l.2.has (physCluster 5)) = true ∧ s.routed 0 0 5 = true ∧
       s.tripleHeld 0 { org := { dom := 4 }, cargo := .effect e, place := .chan 5 } e = false ∧ s.awake { dom := 4 } 5 = true ∧
       (s.clu (physCluster 5)).gated = false ∧ (s.core 5).takes 16 = true ∧ (s.core 5).takes 264 = true) ∧
    ((sending (.send 5 20 [7] false) [{ cost := 14328 }]).core 5).takes 16 = false ∧
    ((sending (.spawn 5 0 [] 3) [{ cost := 14296 }]).core 5).takes 48 = false ∧
    ((sending (.task 5 [])).noticeAhead 0 0 5 = false ∧ (sending (.task 5 [])).entryPasses 5 [1, 0, 0, 0] = false ∧
      (sending (.task 5 [])).entryPasses 5 (crcFill [1, 0, 0, 0] 1 32) = true) ∧
    (let b : Bread := { org := { dom := 4 }, core := 5, chan := 20, total := 1, unit := 1, got := [(0, 7, false)] }
     let s : State := { sending (.task 5 []) with dev := { (sending (.task 5 [])).dev with breads := [(0, b)] } }
     s.dev.breads.find 0 = some b ∧ s.domOf 5 = some 4 ∧ (s.core 5).roomDevice 16 = true) ∧
    (let s := due { a := 5, b := 2 } { cores := [(5, { chans := [(1, [{ offer := some 3, seq := 2 }])] })] }
     ((s.core 5).chans.get [] 1).find? (fun x => x.seq == 2) = some { offer := some 3, seq := 2 }) ∧
    (let s := due {} { tagNotices := [(0, (0, 5, 9, false, 0))], cores := [(5, { ctxs := [(2, { live := true, act := { parent := 9 }, shadow := some shadow })] })] }
     s.dev.tagNotices.find 0 = some (0, 5, 9, false, 0) ∧ s.tagBehind 0 5 9 0 = false) := by decide

/-- Core 5 with a message on channel 20, whose handler takes one word; and with the wake on channel 0. -/
def binding (ctl : Bool) : State :=
  let k : Core := { launch := some 1, handlers := [(20, { narg := 1, entry := 0x100 })],
                    chans := if ctl then [(0, [{ device := true }])] else [(20, [{ words := [(7, false)] }])] }
  due { a := 5 } { launches := [(1, { phase := .running })], cores := [(5, k)] }

theorem witness_MessagesArriveAndBind_bindings :
    (Safe (binding false) ∧ (binding false).binds 5 = true ∧ (binding false).launchOf 5 = some { phase := .running } ∧
      (binding false).headOf 5 20 = some { words := [(7, false)] } ∧ (binding false).chosen 5 false = some 20 ∧
      ((List.range 10).map (· + 1)).find? (slotFree (binding false).dev 5) = some 1) ∧
    ((binding true).headOf 5 0 = some { device := true } ∧ (binding true).chosen 5 true = some 0 ∧ slotFree (binding true).dev 5 0 = true) := by decide


/-! Speculation, traps, tracks. -/

/-- A core with one context in slot 2 and what else it holds. -/
def lone (x : Ctx) (k : Core := {}) (a : Arg := {}) (d : Dev := {}) : State := due a { d with cores := [(0, { k with ctxs := (2, x) :: k.ctxs })] }

set_option maxRecDepth 20000 in
theorem witness_SpeculationTrapAndTrackEvents :
    (let s := lone { live := true, shadow := some shadow, act := { num := 7 } } {} { b := 2, c := 1, words := [7] }
     (s.ctx 0 2).shadow = some shadow ∧ BitVec.ofNat 64 (s.ctx 0 2).act.num = s.dev.arg.words.getD 0 0 ∧ (s.ctx 0 2).pipe = [] ∧
       s.takenBanks 0 = 0 ∧ (lone {} { takenAt := 10, taken := 1 }).takenBanks 0 ≠ 0) ∧
    (let sh : Shadow := { shadow with image := List.replicate 4608 0, tags := List.replicate 576 .full }
     let s := lone { live := true, shadow := some sh, act := { num := 7 } } {} {} { notices := [(0, { core := 0, slot := 2, act := 7, writer := {} })] }
     Safe s ∧ (s.ctx 0 2).live = true ∧ sh.image.length = 4608 ∧ sh.tags.length = 576) ∧
    (let e : CommitEntry := { ts := 5, logical := 0, slot := 2, core := 0, act := 7 }
     let s := lone { live := true, act := { num := 7 } } { horizon := 5, hold := [{ org := { act := 7 }, eff := .localStore 8 [1, 2], after := true }] } {}
       { clusters := [(0, { commits := [e] })] }
     (s.clu 0).next = some e ∧ physCluster e.core = 0 ∧ (s.clu 0).gated = false ∧ e.busy = false ∧ (∀ h ∈ (s.ctx 0 2).holds, h.isCopying = false) ∧ s.dev.notices = [] ∧
       (s.core 0).frozen = false ∧ e.ts ≤ (s.core 0).horizon ∧ (s.ctx 0 2).act.parent = 0 ∧
       (s.ctx 0 2).pipe = [] ∧ s.commitWaits 0 7 (.localStore 8 [1, 2]) = false ∧
       (lone {} { takenAt := 10, taken := 0xFFFF }).commitWaits 0 7 (.localStore 8 [1, 2]) = true ∧ s.partialCause (nearKey 0 8) 2 = none ∧ (∀ i < 2, s.predHole 0 (8 + i) = false) ∧
       (lone {} { horizon := 4 }).my.horizon < e.ts) := by decide

/-- A trap of slot 2 waits for slot 15 since cycle 6, and a report. -/
def trapping (mem : List Host.Cell := []) : State :=
  { lone { live := true, trapped := true } { launch := some 1, traps := [(6, { cause := 0x180, pc := 0, addr := 0, aux := 0, slot := 2 })] } with mem := mem }

theorem witness_SpeculationTrapAndTrackEvents_traps :
    (let s := trapping
     (s.core 0).handling = none ∧ slotFree s.dev 0 15 = true ∧ (s.core 0).frozen = false ∧ 6 + 4 ≤ s.dev.now ∧
       s.forFirmware 0 { cause := 0x180, pc := 0, addr := 0, aux := 0, slot := 2 } = false ∧ ((s.core 0).ctx 2).pipe = [] ∧ (s.core 0).reports = [] ∧
       s.noHandler 0 = true ∧ (trapping [(nearKey 0 0x32700, 1)]).noHandler 0 = false) ∧
    ((lone {} {}).core 0).reports.length < 16 ∧
    (16 ≤ ((lone {} { reports := List.replicate 16 (0, { cause := 0x0C0, pc := 0, addr := 0, aux := 0, imp := true }) }).core 0).reports.length) ∧
    (let s := lone {} { tracks := [(3, { h := 255, t := 1, shifting := true })] } { b := 3, c := 1 }
     (s.track 0 3).shifting = true ∧ (s.track 0 3).h = 255 ∧ s.dev.arg.c < 256 ∧ (s.track 0 3).h ≠ s.dev.arg.c) ∧
    (let k : Track := { h := 4, t := 4, off := 3, mofs := 3, align := true, alignEnd := 10 }
     let s := lone { holds := [.realigned 10] } { tracks := [(3, k)] } { b := 3, c := 2 }
     (s.track 0 3).align = true ∧ (s.track 0 3).alignEnd = s.dev.now ∧ (∃ h ∈ (s.ctx 0 2).holds, h.isRealigned = true) ∧ ({ k with off := k.corrected, align := false } : Track).check 4 = none ∧
       ({ k with off := Track.corrected { k with mofs := 2 }, align := false } : Track).check 4 = some 1) ∧
    (let s := lone {} {} { b := 3, words := [1] }
     (s.track 0 3).owner = 15 ∧ (s.track 0 3).busy = false ∧ (s.track 0 3).wanted = false ∧ (s.track 0 3).weirUntil ≤ s.dev.now ∧
       s.dev.power.actions = 0 ∧ s.dev.arg.c < 2 ∧ s.dev.arg.words.headD 0 = 1 ∧
       (∀ m ∈ [0, 272], (0 : Nat) + share m ≤ ({ caps := [(2, 2000)] } : Power).limit 2)) ∧
    ((lone {} { tracks := [(3, { owner := 2 })] } { b := 3 }).track 0 3).owner ≠ 15 ∧
    (let w := nearKey 0 8 / 8
     let s : State := { due { a := 1, b := w } {} with bad := [w] }
     let t : State := { due { a := 1, b := w, words := [1] } {} with soft := [w] }
     Safe s ∧ s.dev.power.actions = 0 ∧ s.dev.arg.a ≠ 0 ∧ s.dev.power.usedCaps.get 0 4 + share 1 ≤ s.dev.power.limit 4 ∧ s.sramBad w = true ∧
       t.dev.arg.words.headD 0 = 1 ∧ t.sramBad w = false ∧ t.sramSoft w = true) ∧
    ((due {} {}).dev.power.usedCaps.get 0 6 + share 1 ≤ (due {} {}).dev.power.limit 6 ∧ 0 < (due {} { power := { actions := 1 } }).dev.power.actions) := by decide

/-! Arrays, rotations, copies. -/

/-- Array 2 of cluster 0 at its event. -/
def array (r : MArray) (a : Arg := { a := 2 }) (d : Dev := {}) : State := due a { d with arrays := [(2, r)] }

set_option maxRecDepth 8000 in
theorem witness_ArrayRotationAndCopyEvents :
    (let q : Request := { core := 0, slot := 1, act := 7, prio := 0, cnt := 1, ring := 0, fill := 3 }
     let r : MArray := { requests := [q] }
     bestRequest r.lastRing r.requests = some q ∧ q.resume = false ∧ ((array r).arr 2).leased = false ∧ ((array r).arr 2).gated = false ∧ ((array r).arr 2).q2 = [] ∧
       ((array r).arr 2).running = none ∧ ((array r).arr 2).q0 = []) ∧
    (let s := array { leased := true, serial := 4, since := 1 } { a := 2, b := 4, c := 1 }
     (s.arr 2).leased = true ∧ (s.arr 2).serial = s.dev.arg.b ∧ (s.arr 2).since = s.dev.arg.c ∧ (s.arr 2).ending = none ∧ (s.arr 2).running = none ∧
       (s.arr 2).q0 = [] ∧ (let t := array { serial := 4, q2 := [{ due := 0, words := [] }] } { a := 2, b := 4 }; (t.arr 2).leased = false ∧ (t.arr 2).serial = t.dev.arg.b)) ∧
    (let f : Flight := { org := { act := 7 }, cargo := .effect (.command 0 false 2 4), place := .unit }
     let r : MArray := { leased := true, serial := 4, holder := some (0, 0, 7) }
     let s := array r {} { flights := [(0, f)] }
     arrayOf f.org 2 = 2 ∧ s.behind 0 0 (Effect.toArray 2) = false ∧ s.storesBefore 0 0 2 = false ∧ (s.arr 2).under f.org 4 = true ∧
       (s.arr 2).under f.org 5 = false ∧ (s.arr 2).takesChunk f.org 4 = true ∧ (s.arr 2).takesChunk f.org 5 = false ∧ (s.arr 2).q0.length < 4 ∧ 4 ≤ (List.replicate 4 ({ word := 0, fsx := false } : Cmd)).length) ∧
    (let s := array { q0 := [{ word := 0, fsx := false }] }
     (∀ n, (s.arr 2).lastRow = some n → n < s.dev.now) ∧ (s.clu 0).gated = false ∧ s.waitsInCluster (arrayOwner 2) 0 = false ∧ readConflict (s.clu 0).locks (granules 2 0) = false) ∧
    (let cmd : Cmd := { word := 0x101, fsx := false }
     let s := array { running := some cmd, feed := [([], 0)] } { a := 2 } { clusters := [(0, { locks := [{ owner := arrayOwner 2, write := false, ranges := [] }] })] }
     (s.arr 2).running = some cmd ∧ (s.arr 2).feed = [([], 0)] ∧ cmd.rows + 1 < cmdM 0x101 * (cmdKc 0x101 + 1) ∧ (s.clu 0).gated = false ∧
       ((s.clu 0).locks.any fun l => l.owner == arrayOwner 2) = true ∧ ((s.arr 2).q2.filter ResultVec.entered).length < 512) ∧
    (let q : List ResultVec := [{ due := 0, entered := true, words := [] }, { due := 9, words := [] }]
     (q.filter ResultVec.entered).length < 512) := by decide

/-- Core 0 arrives for a rotation of 256 bytes at 0 by one hop; cluster 0 has two live cores. -/
def pair : Map (Nat × Bool) := ((List.range 192).filter fun i => decide (2 ≤ i)).map fun i => (logicalAt 0 i, (0, true))
def rotating (arrived : List Arrival) (a : Arg := { b := 2, c := 7, words := [0, 256, 1] }) (l : List Lock := []) (w : List Nat := []) : State :=
  lone { live := true, act := { num := 7 }, holds := [.rotation] } {} a
    { coreMap := pair, clusters := [(0, { arrivals := arrived, locks := l, rotating := some 9 })], lockWait := w }
def other : Arrival := { core := 1, slot := 2, act := 8, base := 0, len := 256, hops := 1 }

set_option maxRecDepth 40000 in
theorem witness_ArrayRotationAndCopyEvents_ring :
    (rotating []).ranks 0 = [0, 1] ∧ (∃ p ∈ [0, 1], ∀ x ∈ [({ core := 0, slot := 2, act := 7, base := 0, len := 256, hops := 1 } : Arrival)], x.core ≠ p) ∧
    ((∃ h ∈ ((rotating [other]).ctx 0 2).holds, h.isRotation = true) ∧ ((rotating [other]).ctx 0 2).act.num = 7 ∧
      (∀ h ∈ ((rotating [other]).core 0).relq, h.org.act ≠ 7) ∧ ∀ x ∈ ((rotating [other]).clu 0).arrivals, x.core ≠ 0) ∧
    (freeEntry ((rotating [other] { a := ringOwner 0 } [] [ringOwner 0]).clu 0).locks = some 0 ∧
      lockConflict [{ owner := 9, write := true, ranges := [(nearKey 0 0, 256)] }] (ringOwner 0) true [(nearKey 0 0, 256)] = true ∧ lockConflict [] (ringOwner 0) true [(nearKey 0 0, 256)] = false) ∧
    (Safe (rotating [other] {}) ∧ ((rotating [other] {}).clu 0).rotating = some 9 ∧ ((rotating [other] {}).clu 0).arrivals = other :: [] ∧ [0, 1].Nodup ∧
      (rotating [other] { b := 1 }).dev.arg.b = 0 + 1 ∧ other.base % 256 = 0 ∧ ∀ p ∈ [0, 1], ∀ i < 256, (rotating [other] {}).predHole p (0 + i) = false) := by decide

/-- A copy of two bytes from .l 0 to .l 8, running on engine 0. -/
def copying (k : Copy → Copy) (d : Dev := {}) (a : Arg := {}) : State :=
  due a { d with copies := [(0, k { org := {}, core := 0, xid := 7, words := [0, 8, 2], engine := 0 })] }

theorem witness_ArrayRotationAndCopyEvents_copies :
    (let f : Flight := { org := {}, cargo := .effect (.copy [0, 8, 2] 7), place := .unit }
     let s := due {} { flights := [(0, f)] }
     s.copyBehind 0 (s.engineOf 0) = false ∧ s.engineOf 0 < 384) ∧
    (let s := copying id
     s.dev.flights.find 0 = none ∧ ({ org := {}, core := 0, xid := 7, words := [0, 8, 2], engine := 0 } : Copy).over = false ∧ recLock [0, 8, 2] = false ∧ recLock [0, 8, 2, 0, 0, 0, 0, 0, 0, 0, 0, 0x400000000] = true ∧
       s.amongFirst 0 { org := {}, core := 0, xid := 7, words := [0, 8, 2], engine := 0 } = true) ∧
    (let s := copying fun k => { k with started := true }
     let k : Copy := { org := {}, core := 0, xid := 7, words := [0, 8, 2], engine := 0, started := true, ready := [(0, 5, [(0, [7])])] }
     k.live = true ∧ k.engine = s.dev.arg.a ∧ k.paused = false ∧ k.mismatch = false ∧ (s.clu 0).gated = false ∧ 0 < recTotal [0, 8, 2] ∧ recFilled [0, 8, 2] 0 = false ∧ s.tagsHeld 0 < 1024 ∧ k.pickReady s.dev.now = some 0 ∧
       k.writeRun s.dev.now 0 = 1 ∧ (List.range 1).mapM (fun i => k.element s.dev.now (0 + i)) = some [(0, [7])] ∧
       (match s.spot 0 (recSmode [0, 8, 2]) (recSrc [0, 8, 2] 0) (recSize [0, 8, 2]) with | .ok (.place (.near 0 0)) => true | _ => false) = true ∧
       (match s.spot 0 (recDmode [0, 8, 2]) (recDst [0, 8, 2] 0) (recSize [0, 8, 2]) with | .ok (.place (.near 0 8)) => true | _ => false) = true) ∧
    recTotal [0, 8, 2] ≤ ({ org := {}, core := 0, xid := 7, words := [0, 8, 2], engine := 0, done := 3 } : Copy).done +
      ({ org := {}, core := 0, xid := 7, words := [0, 8, 2], engine := 0, done := 3 } : Copy).restart := by decide

/-! ## Witnesses: launches, graphs, the fabric, and the host -/

/-- Words of device memory: pairs of an address and a word, addresses rising. -/
def far (ws : List (Nat × Word)) : List Host.Cell :=
  ws.flatMap fun e => ((wordBytes e.2).zipIdx.filter fun b => decide (b.1 ≠ 0)).map fun b => (e.1 + b.2, b.1)
/-- Translation tables that map the first GiB of process 0 to itself. -/
def mapped : List (Nat × Word) := [(0x1000, 0x2001), (0x2000, 0x3001), (0x3000, 0x4001), (0x4000, 0xF)]
/-- A tenant whose process table these are, with a save area and a harvest queue at 0x100. -/
def owner : Tenant := { pidTable := 0x1000, pidn := 1, entry := [0x8000000000000000, 0, 2 ^ 39, 0x100], table := [(0, [0x8000000000000000])] }
/-- A machine with these tables, tenant 0's, and more words of memory below them. -/
def paged (a : Arg) (d : Dev) (ws : List (Nat × Word) := []) : State :=
  due a { d with tenants := [(0, owner)], keys := [(0, [])] } [] (far (ws ++ mapped))
/-- The words of a list from an address on. -/
def from_ (a : Nat) (ws : List Word) : List (Nat × Word) := ws.zipIdx.map fun e => (a + 8 * e.2, e.1)

/-- A record for one cluster, and its launch. -/
def launchWords : List Word := crcFill [0, 0x2000000000, 0, 0, 0, 0, 0, 0] 7 0
def kernel (p : Phase) : Launch := { words := launchWords, phase := p }
def launching (a : Arg) (p : Phase) (k : Core := {}) : State := paged a { launches := [(1, kernel p)], cores := [(0, k)] }

/-- A launch whose one live core, core 0 of a cluster with no other, has been idle, and the machine that holds it. -/
def done_ : Launch := { kernel .running with woken := [0], sums := some (0, 0) }
def over_ : State :=
  due { a := 1 } { launches := [(1, done_)], cores := [(0, { launch := some 1, idle := true })],
                   coreMap := ((List.range 192).drop 1).map fun i => (i / 16 * 192 + i % 16, (i, true)) }

set_option maxRecDepth 20000 in
theorem witness_LaunchGraphAndFabricEvents_launches :
    ((due { words := launchWords } {}).recordStatus 0 { words := launchWords } = none ∧
      ((due { words := launchWords } {}).tenantLaunches 0 fun x => x.phase == .queued).length < 256) ∧
    (due { words := [1] } {}).recordStatus 0 { words := [1] } = some 1 ∧
    256 ≤ ((due { words := launchWords } { launches := (List.range 256).map fun i => (i, kernel .queued) }).tenantLaunches 0 fun x => x.phase == .queued).length ∧
    (let s := launching {} .queued
     bestRecord (s.tenantLaunches 0 fun x => x.phase == .queued) = some (1, kernel .queued) ∧ (kernel .queued).w 6 = 0 ∧
       (s.tenantLaunches 0 fun m => m.runs && (kernel .queued).meets m) = [] ∧ (s.tenantLaunches 0 fun m => m.phase != .queued).length < 64 ∧
       (∀ v ∈ (kernel .queued).clusters, (s.clu v).tenant = none) ∧ (∀ e ∈ s.dev.launches, ¬e.2.prio < (kernel .queued).prio)) ∧
    (let s := launching { a := 1, b := 0 } .running
     s.phys s.dev.arg.b = 0 ∧ s.launch? 1 = some (kernel .running) ∧ (0 : Nat) ∉ (kernel .running).woken ∧ (s.core 0).launch = none ∧
       (s.core 0).scanning = false ∧ slotFree s.dev 0 0 = true) ∧
    ((launching { a := 1 } .running { launch := some 2 }).core 0).launch.isSome = true ∧
    (over_.coresOf done_ = [0] ∧ over_.launch? 1 = some done_ ∧ (over_.core 0).idle = true ∧ (over_.core 0).released = (over_.core 0).accepted ∧
      done_.sums = some ((over_.core 0).released, (over_.core 0).accepted) ∧ done_.woken.length = 1 ∧ (kernel .running).woken.length ≠ 1) ∧
    ((launching { a := 1 } .faulting).launch? 1 = some (kernel .faulting) ∧ (kernel .faulting).producer = 0) ∧
    ((launching { a := 1 } .running).saveFits (kernel .running) ((launching { a := 1 } .running).savedOf 0) = true) ∧
    (let s := launching { a := 1 } .saved
     s.restorable 1 (kernel .saved) = true ∧ (s.dev.saves.get {} 1).cores = []) ∧
    (let s : State := { launching { a := 1, b := 1 } .restoring with dev := { (launching { a := 1, b := 1 } .restoring).dev with saves := [(1, { cores := [(0, {})] })] } }
     s.launch? 1 = some (kernel .restoring) ∧ (s.dev.saves.get {} 1).cores = [(0, {})] ∧ (s.dev.saves.get {} 1).arrays = [] ∧ (s.dev.saves.get {} 1).copies = []) := by decide

/-- Core 0 with a grant to harvest contexts, and tenant 1's queue with an entry at 0x140. -/
def harvesting (e : List Word) : State :=
  due { b := 1, c := 1, words := [0] } { tenants := [(1, owner)], keys := [(0, [])], cores := [(0, { grant := some { issue := 1 } })] } []
    (far (from_ 0x140 e ++ mapped))
/-- An entry with its CRC, not yet valid; and made valid. -/
def work : List Word := crcFill [0, 0, 0, 0, 0, 0, 0, 0] 7 0
def valid : List Word := work.set 7 (work.getD 7 0 + 0x8000000000000000)

set_option maxRecDepth 20000 in
theorem witness_LaunchGraphAndFabricEvents_harvest :
    (let s := due { b := 11, c := 5 } { cores := [(0, { revoking := true, revokeAt := 5 })] }
     (s.core 0).revoking = true ∧ (s.core 0).revokeAt = s.dev.arg.c ∧ (s.core 0).nextGrant = none ∧ (s.logical 0).isSome = true) ∧
    (let s := harvesting valid
     s.ringOf 0 1 = some (0, 0, 1) ∧ s.queueRead 0 1 (entryOff 1 0) 8 = some valid ∧ entryGood valid = true ∧ s.lends 0 = true ∧
       s.harvestFree 0 = some 11) ∧
    (let s := harvesting []
     s.ringOf 0 1 = some (0, 0, 1) ∧ s.queueRead 0 1 (entryOff 1 0) 8 = some (List.replicate 8 0) ∧ entryGood (List.replicate 8 0) = false) := by decide

/-- A graph of one node at 0x200, its counters at 0x300: the template and the header, the node. -/
def template : List Word := crcFill [0, 0x2000000000, 0, 0, 0, 0, 0, 0] 7 0 ++ [0, 0, 0x300, 0, 0, 0, 0, BitVec.ofNat 64 (crcWords [0, 0, 0x300, 0, 0, 0, 0])]
def node0 : List Word := crcFill [0, 0, 0, 0] 3 0
def graph (a : Arg) (x : Instance) : State := paged a { graphs := [(0, x)] } (from_ 0x200 (template ++ node0))
def begun : Instance := { table := 0x200, core := 0, slot := 0, tenant := 0, pid := 0, begun := true, dispatched := [0] }
def empty : Instance := { table := 0x600, core := 0, slot := 0, tenant := 0, pid := 0 }

set_option maxRecDepth 20000 in
theorem witness_LaunchGraphAndFabricEvents_graphs :
    (let f : Flight := { org := {}, cargo := .effect (.glaunch 0x200 0), place := .chan 0 }
     (due {} { flights := [(0, f)] }).dev.flights.find 0 = some f ∧ f.cargo = .effect (.glaunch 0x200 0)) ∧
    (let x : Instance := { begun with begun := false, dispatched := [] }
     let s := graph { b := 1 } x
     s.dev.graphs.find 0 = some x ∧ s.mayBegin 0 x = true ∧ headGood x (s.graphHead x) = true ∧
       s.graphWords x (headCtr (s.graphHead x)) 1 = some [0]) ∧
    ((graph { b := 1 } empty).mayBegin 0 empty = true ∧ headGood empty ((graph { b := 1 } empty).graphHead empty) = false) ∧
    (let s := graph { words := [0] } begun
     let h := s.graphHead begun
     s.dev.graphs.find 0 = some begun ∧ s.node begun 0 = some node0 ∧ s.nodeGood begun h node0 = true ∧ s.successors begun h node0 = some [] ∧
       (0 : Nat) ∉ begun.refused ∧ (∀ m ∈ begun.dispatched, m ∈ (0 : Nat) :: begun.done ∨ m ∈ begun.refused) ∧
       ∃ m ∈ ({ begun with dispatched := [0, 1] } : Instance).dispatched, m ∉ (0 : Nat) :: begun.done ∧ m ∉ begun.refused) := by decide

/-- An invocation packet from the host, an unanswered one, and a member of a group. -/
def packet : List Word := crcFill [0x8000000000000000, 0, 0, 0] 3 32
def unanswered : Packet := { words := packet, fill := 0, rank := 0, chip := 5, retries := 1 }
def member (state : Nat) : Word := BitVec.ofNat 64 (state * 2 ^ 32 + 5)

set_option maxRecDepth 20000 in
theorem witness_LaunchGraphAndFabricEvents_fabric :
    packetGood [0, 0, 0, 0] = false ∧
    (let s := paged { a := 2, words := packet } { ranks := [(0, 0x80000000)] }
     let e := s.dev.ranks.get 0 (pktDst (packet.getD 0 0))
     packetGood packet = true ∧ s.dev.power.recovery = false ∧
       ((s.dev.tenants.get {} (pktTenant (packet.getD 0 0))).levels.get [] (pktLevel (packet.getD 0 0))).length < 64 ∧ ((packet.getD 0 0).getLsbD 63 = decide (2 = 2)) ∧ e.getLsbD 31 = true ∧ rankChip e = s.dev.chip ∧
       bits e 24 7 = pktTenant (packet.getD 0 0) ∧
       ((((s.dev.tenants.get {} (pktTenant (packet.getD 0 0))).table.get [] (pktIdx (packet.getD 0 0))).getD 0 0).getLsbD 63 = true)) ∧
    (nextPacket [(0, [packet])] = some (0, packet) ∧
      ((due {} { tenants := [(0, { levels := [(0, [packet])] })] }).tenantLaunches 0 fun y => y.phase == .queued).length < 256) ∧
    ((due {} { packets := [(0, unanswered)] }).dev.packets.find 0 = some unanswered ∧ unanswered.waiting = false ∧
      unanswered.tried < unanswered.retries ∧ unanswered.resends < 3 ∧ unanswered.send = 0 ∧ 3 ≤ ({ unanswered with resends := 3 } : Packet).resends) ∧
    ((due {} {}).rankLost 0 = true ∧ (due {} { ranks := [(0, 0x80000005)] }).rankLost 0 = false) ∧
    (let s := due { a := 0 } { groups := [(0, member 2), (1, 0x100000000)] }
     s.dev.groups.find 0 = some (member 2) ∧ bits (member 2) 0 12 ≠ s.dev.chip ∧ memberState (member 2) = 2 ∧ s.peers = [5]) ∧
    (due {} { groups := [(0, member 4)] }).spare 0 = some 0 := by decide

/-- A frame of the host: type, tenant, length, and the words after its first. -/
def framed (type tenant len : Nat) (ws : List Word) : List Word := BitVec.ofNat 64 (type * 2 ^ 56 + tenant * 2 ^ 49 + len * 2 ^ 32) :: ws
/-- A management message that gives a command its two arguments, with its MAC under the key 1. -/
def message (n a b : Word) : List Word :=
  let f := framed 3 0 56 [0, n, a, b]
  f ++ byteWords (sha256.hmac (wordBytes 1) (f.flatMap wordBytes))

set_option maxRecDepth 20000 in
theorem witness_HostPowerAndTraceEvents_frames :
    (let s := due { c := 0, words := framed 1 3 0 [0] } {}
     s.dev.power.down = false ∧ s.dev.power.fail = none ∧ s.dev.arg.c = s.dev.udpPort ∧ frameTenant s.dev.arg.words = 3 ∧
       (s.dev.arg.a, s.dev.arg.b) ∉ (s.dev.tenants.get {} 3).ports ∧ frameType s.dev.arg.words = 1) ∧
    (due { c := 1 } {}).dev.arg.c ≠ (due { c := 1 } {}).dev.udpPort := by decide

set_option maxRecDepth 20000 in
theorem witness_HostPowerAndTraceEvents_rdma :
    ((0 : Nat) < 65536 ∧ 0x100 % 64 + 1 ≤ 64 ∧ frameBytes (framed 5 0 3 [0x100, 0x70000]) = [0, 0, 7] ∧ Safe (paged {} {}) ∧ (paged {} {}).partFault 0x100 1 = none ∧
      frameBytes (framed 6 0 4 [0x100, 0x10000]) = [0, 0, 1, 0] ∧ (paged {} {}).readRecord 0x100 1 0 = none) ∧
    ((due {} {}).rdmaParts 0 0 0x100 1 false true).toOption.isNone = true ∧ ((due {} {}).rdmaParts 0 0 0x100 1 true false).toOption.isNone = true ∧
    ((paged {} {}).rdmaParts 0 0 0x100 1 false true).toOption = some [(Place.phys 0x100, ([] : List Word), 1)] ∧
    ((paged {} {}).rdmaParts 0 0 0x100 1 true false).toOption = some [(Place.phys 0x100, ([] : List Word), 1)] ∧
    (due {} {}).dev.mgmt.find 0 = none ∧ 32 ≤ frameLen (framed 3 0 56 []) := by decide

theorem witness_HostPowerAndTraceEvents_messages :
    (due {} { mgmt := [(0, ([1], 0))] }).dev.mgmt.find 0 = some ([1], 0) ∧
    (macGood [1] (message 0 1 0) = true ∧ commandEvent ((messageWords (message 0 1 0)).getD 0 0).toNat = some .statusRead) ∧
    (macGood [1] (message 15 4095 23) = true ∧ (messageWords (message 15 4095 23)).getD 0 0 = 15 ∧
      ((messageWords (message 15 4095 23)).getD 1 0).toNat < 4096) ∧
    ((messageWords (message 13 0 0)).getD 0 0 = 13 ∧ (messageWords (message 14 0 0)).getD 0 0 = 14) :=
  ⟨by decide, ⟨by decide +kernel, by decide +kernel⟩, ⟨by decide +kernel, by decide +kernel, by decide +kernel⟩, by decide +kernel, by decide +kernel⟩

set_option maxRecDepth 20000 in
theorem witness_HostPowerAndTraceEvents_tables :
    (due { a := 1, words := [0x8000000000000000, 0, 0, 0] } {}).entryFits 1 [0x8000000000000000, 0, 0, 0] = true ∧
    (due { a := 1, words := [0x4000, 0, 0, 0] } {}).entryFits 1 [0x4000, 0, 0, 0] = false ∧ ([0x4000, 0, 0, 0] : List Word).length = 4 ∧
    (due {} {}).dev.log.flatten.length ≤ 1022 ∧
    (due {} {}).retired 0 = false ∧ memberState (member 4) ≤ 4 ∧
    ((due {} { cores := [(0, { halt := .halted false })] }).core 0).halt = .halted false ∧
    (due {} {}).dev.power.recovery = false ∧ (due {} {}).dev.record = none ∧
    (1 ≤ 10 * defaultCap 0 ∧ ((List.range 8).map (Power.cap { (due {} {}).dev.power with caps := (due {} {}).dev.power.caps.set 0 1 })).foldl (· + ·) 0 ≤ 10000) ∧
    ((due {} { power := { fail := some 3 } }).dev.power.fail.isSome = true ∧ Safe (due {} { power := { fail := some 3 } }) ∧
      (due {} { power := { fail := some 3 } }).dev.power.returned = false ∧ ((due {} { power := { fail := some 3 } }).track 0 30).failing = []) ∧
    (due {} { power := { down := true } }).dev.power.down = true ∧
    (let s := due {} { record := some { launches := [(0, {})] } }
     s.dev.record = some { launches := [(0, {})] } ∧ ({ launches := [(0, {})] } : DeviceRecord).sound = true ∧ s.launch? 0 = none) := by decide

/-- A trace that is armed or records; and a core with a Thyme state, a halt or a scan. -/
def tracing (n : Nat) : State := due {} { traces := [(0, { state := n, block := [0] })] }

set_option maxRecDepth 20000 in
theorem witness_HostPowerAndTraceEvents_debug :
    ((tracing 1).dev.traces.find 0 = some { state := 1, block := [0] } ∧ (0 : Word).getLsbD 8 = false ∧
      ({ state := 1, block := [0] } : Trace).armedAt < (tracing 1).dev.now ∧ (tracing 1).dev.now ≤ ({ state := 1, block := [0], armedAt := 10 } : Trace).armedAt ∧
      (tracing 2).dev.traces.find 0 = some { state := 2, block := [0] } ∧ (tracing 2).dev.arg.b = 0) ∧
    (let s := due { a := 0, b := 2 } {}
     (2 : Nat) ≠ (s.core 0).thymeState ∧ (s.core 0).thymeFrom + 1 < s.dev.now ∧ s.dev.now - 1 - (s.core 0).thymeFrom < 16384 ∧ (s.core 0).thyme.length < 2048) ∧
    (let s := due {} { cores := [(0, { halt := .requested true })] }
     (s.core 0).halt = .requested true ∧ (∀ x ∈ (s.core 0).ctxs, x.2.live = false ∨ 14 < x.1)) ∧
    (let s := due {} { cores := [(0, { ctxs := [(0, { age := 1, yieldUntil := 0 })] })] }
     (s.ctx 0 0).age ≠ 0 ∧ (s.ctx 0 0).yieldUntil = s.dev.arg.c) ∧
    (let f : Fill := { core := 0, slot := 0, act := 0, dst := none, left := 1 }
     let s := due {} { fills := [(0, f)], cores := [(0, { scanning := true })] }
     (s.core 0).scanning = true ∧ s.dev.fills.find 0 = some f) := by decide

/-- A group word at address 0 of core 0, for slot 0. -/
def fetching (w : Word) : State := at_ 0 [(0, w)]

theorem witness_HostPowerAndTraceEvents_fetch :
    (let s := fetching 0xC01190B0
     s.fetchPoison s.here 0 = none ∧ s.fetchWord s.here 0 0 = 0xC01190B0 ∧ 2 ^ 31 ≤ s.fetchWord s.here 0 0 ∧
       (decodeWord 0xC01190B0).toOption.isNone = true) ∧
    (let s : State := { fetching 0 with dev := { (fetching 0).dev with cur := { slot := 0, addr := 2 } } }
     s.dev.cur.addr.toNat % 4 ≠ 0) := by decide

/-! ## Witnesses: frames, steps, encodings -/

theorem witness_RegisterOnlyFrame : (∃ t, exec (.add 3 1 2) (two 5 9) = .next t) ∧ ∃ t, exec (.cmp 1 1 2 .lt) (two 5 9) = .next t :=
  ⟨⟨_, rfl⟩, ⟨_, rfl⟩⟩

/-- Slot 0 of core 0, at a NOP, with the core's turn to issue. -/
def issuing : State :=
  let s := fetching 0x80100000
  { s with dev := { s.dev with turn := [.issue 0], cur := {} } }

theorem witness_StepRunsDecodedInstruction_step :
    (issuing.core 0).order = [0] ∧ issuing.mayIssue 0 0 = true ∧ (issuing.core 0).mismatch = none ∧ issuing.dev.turn = [.issue 0] := by decide
/-- The states of that step: as it is looked at, as it issues, and counted. -/
def issuingAs : List State :=
  let q : State := { issuing with dev := { issuing.dev with turn := [] } }
  let b := q.apply (q.keep.count 0 6)
  let c0 := (b.apply (b.keep.ctx 0 0 fun x => { x with holds := [] })).focus 0 0
  let c := c0.apply c0.fetchFixed
  [q.focus 0 0, c, (c.counted 0 0 (.lone 0x80100000 (.plain .nop))).focus 0 0]
theorem witness_StepRunsDecodedInstruction_fetch :
    ∀ x ∈ issuingAs, (match x.fetch with
      | .lone w (.plain .nop) => w == 0x80100000
      | _ => false) = true ∧ x.fetchChoice = false ∧ x.breakpoint = none ∧ x.placedFsx = none ∧
      (match exec .nop x with
        | .next y => decide (y.dev.last = .ran)
        | _ => false) = true := by decide +kernel
/-- Pairs: NOP beside ADD, and DONE beside ADD. -/
def inPair (s : State) : State :=
  { s with snap := some { mem := s.mem, tags := s.tags, ctx := s.me, hold := s.my.hold, fresh := s.dev.fresh }, dev := { s.dev with cur := { s.dev.cur with size := 8 } } }
def word (w : Nat) (second : Bool) (s : State) : State := { s with dev := { s.dev with cur := { s.dev.cur with word := w, second := second } } }
theorem witness_StepRunsDecodedInstruction_pair :
    closesAct (.plain .nop) = false ∧ closesAct (.plain .done) = true ∧
    (∀ i ∈ [Instr.nop, .done], (match exec i (word 0x00100000 false (inPair (two 5 9))) with
      | .next x => decide (x.dev.last = .ran) && (match exec (.add 3 1 2) (word 0x401190A0 true x) with
        | .next y => decide (y.dev.last = .ran)
        | _ => false)
      | _ => false) = true) ∧
    (match exec (.add 3 1 2) (word 0x401190A0 true (inPair (two 5 9))) with
      | .next x => decide (x.dev.last = .ran) && (match exec .done (word 0x00C00000 false x) with
        | .next y => decide (y.dev.last = .ran)
        | _ => false)
      | _ => false) = true := by decide
theorem witness_EveryWordHasOneMeaning : (decodeWord 0xC01190A0).toOption.map Decoded.instr = some (.add 3 4 5) := by rfl
theorem witness_DecodeEncodeRoundTrip : (Instr.add 3 4 5).wellFormed = true ∧ encode { lone := true, ar := true, stall := 0 } (.add 3 4 5) = some 0xC01190A0 := by
  decide
theorem witness_StorageInvariantStep : Safe landing ∧ ∃ t, step landing = .next t := ⟨by decide, _, rfl⟩

end Sys2Proof.Tests
end

/-! ## The machine after reset (R12, R53, R56, R63 to R66, R104, R164, R363, R398, R433)

Nothing is listed in any map at reset, so a reading of storage gives the unlisted value and a reading of a map of records gives the
record of the fields' defaults. -/

namespace Sys2Proof.Machine

/-! ### Readings at reset -/

@[simp] theorem State.reset_byte (k : Nat) : State.reset.byte k = 0 := rfl
@[simp] theorem State.reset_tagOf (w : Nat) : State.reset.tagOf w = .full := rfl
@[simp] theorem State.reset_core (p : Nat) : State.reset.core p = {} := rfl
@[simp] theorem State.reset_ctx (p sl : Nat) : State.reset.ctx p sl = {} := rfl
@[simp] theorem State.reset_track (p n : Nat) : State.reset.track p n = {} := rfl
@[simp] theorem State.reset_phys (l : Nat) : State.reset.phys l = defaultPhys l := rfl
@[simp] theorem State.reset_retired (l : Nat) : State.reset.retired l = decide (18432 ≤ l) := rfl
@[simp] theorem State.reset_tenant (n : Nat) : State.reset.dev.tenants.find n = none := rfl

/-! ### The reset map of cores -/

/-- Logical core (x, y) has the number 192y + x; the spare column of each cluster's 17 is passed over (R12). -/
theorem defaultPhys_at {x : Nat} (y : Nat) (hx : x < 192) :
    defaultPhys (y * 192 + x) = y * 204 + (x / 16 * 17 + x % 16) := by
  have hX : logicalX (y * 192 + x) = x := by unfold logicalX; omega
  have hY : logicalY (y * 192 + x) = y := by unfold logicalY; omega
  rw [defaultPhys, hX, hY, Nat.add_assoc]

/-- The cores of the 192 by 96 grid are the 18,432 logical cores. -/
theorem State.reset_retired_at {x y : Nat} (hx : x < 192) (hy : y < 96) : State.reset.retired (y * 192 + x) = false := by
  have : ¬ 18432 ≤ y * 192 + x := by omega
  rw [State.reset_retired, decide_eq_false this]

/-! ### The first step -/

/-- A machine that has not booted, and in which no core has a turn left, boots before anything that is due (R433). -/
theorem step_of_not_booted {s : State} (hturn : s.dev.turn = []) (hboot : s.dev.booted = false) : step s = exec .boot s := by
  rw [step, State.advance]
  simp only [hturn, hboot, Bool.not_false, if_true]

/-- Settles O59: every map is empty at reset, so each reading is the default that the model gives its field; the map of cores is
the reset map, and the boot is all that can happen. -/
theorem resetState : Obligations.ResetState := by
  unfold Obligations.ResetState
  refine ⟨reset_wf, ?storage, ?coreMap, State.reset_tenant, ?contexts, ?cores, step_of_not_booted rfl rfl⟩
  case storage => exact fun p a _ _ => ⟨State.reset_byte _, State.reset_tagOf _⟩
  case coreMap => exact fun x y hx hy => ⟨defaultPhys_at y hx, State.reset_retired_at hx hy⟩
  case contexts => intro p sl; simp only [State.reset_ctx, and_self]
  case cores =>
    intro p n
    rw [State.reset_core, State.reset_track]
    exact ⟨rfl, rfl, rfl, rfl, rfl, rfl, rfl, rfl, rfl, rfl, rfl, rfl⟩

end Sys2Proof.Machine
